-- ==== Sys2Proof/Word.lean ====
section
/-! DEFINITION. The word types of the Nupolek N8 (spec 01 R25, 02 R43). Plain abbreviations, so that the
library's BitVec lemmas apply. -/

namespace Sys2Proof

/-- A K, L or S register: 64 bits (R25). -/
abbrev Word := BitVec 64

/-- One byte of memory (R43). -/
abbrev Byte := BitVec 8

/-- One instruction, extension or header word of a line: 32 bits (R116). -/
abbrev IWord := BitVec 32

/-- A vector register, chain slot or queue entry: 2048 bits (R25). -/
abbrev Vec := BitVec 2048

/-- A wide accumulator: 128 lanes of 32 bits (R25). -/
abbrev Wide := BitVec 4096

/-- A predicate register: 256 bits (R25). -/
abbrev Pred := BitVec 256

end Sys2Proof
end

