-- ==== Sys2Proof/Syntax.lean ====
section
/-! DEFINITION. The steps of the N8: one constructor per row of the opcode table (spec 05, R127 to R134; the rows
without an encoding are the events of 95_what_each_step_holds.md). Fields are decoded once, in Decode.lean. -/

namespace Sys2Proof

/-- The six kinds of sequencer (R18, R39). -/
inductive SeqKind where
  | k | l | x | s | qf | qu
deriving DecidableEq, Repr, Inhabited

/-- A sequencer: its kind and its unit. The unit number is the scratchpad global address divided by 2^20: module·2^12 +
die·2^9 + quad·2^3 + unit (R151); units 0 to 3 are cores, unit 4 is the quad. -/
structure SeqId where
  unit : Nat
  kind : SeqKind
deriving DecidableEq, Repr, Inhabited

/-- The token bits of an L or S instruction (R23, R127) and its kind-0x4 word, PBR and PAR, when it has one (R129). -/
structure Tok where
  pb  : Bool
  pa  : Bool
  ext : Option (BitVec 2 × BitVec 2)
deriving DecidableEq, Repr

/-- A kind-0x1 extension word (R129). -/
structure XOper where
  c    : BitVec 7
  fmt  : BitVec 6
  fv   : Bool
  rm   : BitVec 2
  mc   : BitVec 2
  mchk : Bool
  ovf  : Bool
  sat  : Bool
deriving DecidableEq, Repr

/-- The fields of an X or XM slot (R127) with its extension words (R129): `oper` kind 0x1, `imm` kind 0x2, `prf`
kind 0x3, `slu` kind 0x4 (PBR, PAR). In an XM instruction the constructor stands for MINOR and `b` is zero. -/
structure XArgs where
  st   : BitVec 2
  pb   : Bool
  pa   : Bool
  d    : BitVec 6
  a    : BitVec 7
  b    : BitVec 7
  t    : BitVec 2
  oper : Option XOper
  imm  : Option (BitVec 16)
  prf  : Option (BitVec 8)
  slu  : Option (BitVec 2 × BitVec 2)
deriving DecidableEq, Repr

/-- One step of the machine. -/
inductive Instr where
  /-- ADD (R146): K writes k[D] = k[A] + k[B] modulo 2^64. -/
  | add (d : BitVec 5) (a : BitVec 5) (b : BitVec 5)
  /-- SUB (R146): K writes k[D] = k[A] - k[B] modulo 2^64. -/
  | sub (d : BitVec 5) (a : BitVec 5) (b : BitVec 5)
  /-- AND (R146): K writes the bitwise AND of k[A] and k[B]. -/
  | and (d : BitVec 5) (a : BitVec 5) (b : BitVec 5)
  /-- OR (R146): K writes the bitwise OR of k[A] and k[B]. -/
  | or (d : BitVec 5) (a : BitVec 5) (b : BitVec 5)
  /-- XOR (R146): K writes the bitwise XOR of k[A] and k[B]. -/
  | xor (d : BitVec 5) (a : BitVec 5) (b : BitVec 5)
  /-- SHL (R146): K shifts k[A] left by k[B][5:0]. -/
  | shl (d : BitVec 5) (a : BitVec 5) (b : BitVec 5)
  /-- SHR (R146): K shifts k[A] right logically by k[B][5:0]. -/
  | shr (d : BitVec 5) (a : BitVec 5) (b : BitVec 5)
  /-- SRA (R146): K shifts k[A] right arithmetically by k[B][5:0]. -/
  | sra (d : BitVec 5) (a : BitVec 5) (b : BitVec 5)
  /-- MUL (R146): K writes the low 64 bits of k[A]·k[B]. -/
  | mul (d : BitVec 5) (a : BitVec 5) (b : BitVec 5)
  /-- MULH (R146): K writes the high 64 bits of the signed product. -/
  | mulh (d : BitVec 5) (a : BitVec 5) (b : BitVec 5)
  /-- MULHU (R146): K writes the high 64 bits of the unsigned product. -/
  | mulhu (d : BitVec 5) (a : BitVec 5) (b : BitVec 5)
  /-- DIV (R147): K writes the signed quotient truncated toward zero, with fixed results for division by zero. -/
  | div (d : BitVec 5) (a : BitVec 5) (b : BitVec 5)
  /-- DIVU (R147): K writes the unsigned quotient. -/
  | divu (d : BitVec 5) (a : BitVec 5) (b : BitVec 5)
  /-- REM (R147): K writes the signed remainder with the sign of a. -/
  | rem (d : BitVec 5) (a : BitVec 5) (b : BitVec 5)
  /-- REMU (R147): K writes the unsigned remainder. -/
  | remu (d : BitVec 5) (a : BitVec 5) (b : BitVec 5)
  /-- MIN (R146): K writes the signed minimum. -/
  | min (d : BitVec 5) (a : BitVec 5) (b : BitVec 5)
  /-- MAX (R146): K writes the signed maximum. -/
  | max (d : BitVec 5) (a : BitVec 5) (b : BitVec 5)
  /-- MINU (R146): K writes the unsigned minimum. -/
  | minu (d : BitVec 5) (a : BitVec 5) (b : BitVec 5)
  /-- MAXU (R146): K writes the unsigned maximum. -/
  | maxu (d : BitVec 5) (a : BitVec 5) (b : BitVec 5)
  /-- CEQ (R148): K writes 1 if k[A] equals k[B], else 0. -/
  | ceq (d : BitVec 5) (a : BitVec 5) (b : BitVec 5)
  /-- CNE (R148): K writes 1 if k[A] differs from k[B]. -/
  | cne (d : BitVec 5) (a : BitVec 5) (b : BitVec 5)
  /-- CLT (R148): K writes 1 if k[A] < k[B] signed. -/
  | clt (d : BitVec 5) (a : BitVec 5) (b : BitVec 5)
  /-- CLTU (R148): K writes 1 if k[A] < k[B] unsigned. -/
  | cltu (d : BitVec 5) (a : BitVec 5) (b : BitVec 5)
  /-- CGE (R148): K writes 1 if k[A] >= k[B] signed. -/
  | cge (d : BitVec 5) (a : BitVec 5) (b : BitVec 5)
  /-- CGEU (R148): K writes 1 if k[A] >= k[B] unsigned. -/
  | cgeu (d : BitVec 5) (a : BitVec 5) (b : BitVec 5)
  /-- SEL (R148): K selects k[A] or k[B] by whether k[CR] is nonzero. -/
  | sel (d : BitVec 5) (a : BitVec 5) (b : BitVec 5) (cr : BitVec 5)
  /-- ADDI (R149): K adds a sign-extended immediate. -/
  | addi (d : BitVec 5) (a : BitVec 5) (imm : BitVec 16)
  /-- ANDI (R149): K ANDs a zero-extended immediate. -/
  | andi (d : BitVec 5) (a : BitVec 5) (imm : BitVec 16)
  /-- ORI (R149): K ORs a zero-extended immediate. -/
  | ori (d : BitVec 5) (a : BitVec 5) (imm : BitVec 16)
  /-- XORI (R149): K XORs a zero-extended immediate. -/
  | xori (d : BitVec 5) (a : BitVec 5) (imm : BitVec 16)
  /-- SHLI (R149): K shifts left by an immediate amount. -/
  | shli (d : BitVec 5) (a : BitVec 5) (amt : BitVec 6)
  /-- SHRI (R149): K shifts right logically by an immediate amount. -/
  | shri (d : BitVec 5) (a : BitVec 5) (amt : BitVec 6)
  /-- SRAI (R149): K shifts right arithmetically by an immediate amount. -/
  | srai (d : BitVec 5) (a : BitVec 5) (amt : BitVec 6)
  /-- LI (R149): K loads a zero-extended 16-bit immediate. -/
  | li (d : BitVec 5) (imm : BitVec 16)
  /-- ORS16 (R149): K ORs the immediate shifted left by 16. -/
  | ors16 (d : BitVec 5) (a : BitVec 5) (imm : BitVec 16)
  /-- ORS32 (R149): K ORs the immediate shifted left by 32. -/
  | ors32 (d : BitVec 5) (a : BitVec 5) (imm : BitVec 16)
  /-- ORS48 (R149): K ORs the immediate shifted left by 48. -/
  | ors48 (d : BitVec 5) (a : BitVec 5) (imm : BitVec 16)
  /-- SLTI (R149): K writes 1 if k[A] is signed-less than the sign-extended immediate. -/
  | slti (d : BitVec 5) (a : BitVec 5) (imm : BitVec 16)
  /-- KLD (R150): K loads 8 bytes from a scratchpad global address after the R151 checks. -/
  | kld (d : BitVec 5) (a : BitVec 5) (imm : BitVec 16)
  /-- KLDW (R150): K loads 4 bytes zero-extended from scratchpad. -/
  | kldw (d : BitVec 5) (a : BitVec 5) (imm : BitVec 16)
  /-- KST (R150): K stores 8 bytes to scratchpad. -/
  | kst (d : BitVec 5) (a : BitVec 5) (imm : BitVec 16)
  /-- KSTW (R150): K stores 4 bytes to scratchpad. -/
  | kstw (d : BitVec 5) (a : BitVec 5) (imm : BitVec 16)
  /-- BEQ (R153): K branches when k[A] equals k[B]. -/
  | beq (a : BitVec 5) (b : BitVec 5) (slot : BitVec 3) (line : BitVec 13)
  /-- BNE (R153): K branches when k[A] differs from k[B]. -/
  | bne (a : BitVec 5) (b : BitVec 5) (slot : BitVec 3) (line : BitVec 13)
  /-- BLT (R153): K branches when k[A] < k[B] signed. -/
  | blt (a : BitVec 5) (b : BitVec 5) (slot : BitVec 3) (line : BitVec 13)
  /-- BGE (R153): K branches when k[A] >= k[B] signed. -/
  | bge (a : BitVec 5) (b : BitVec 5) (slot : BitVec 3) (line : BitVec 13)
  /-- BLTU (R153): K branches when k[A] < k[B] unsigned. -/
  | bltu (a : BitVec 5) (b : BitVec 5) (slot : BitVec 3) (line : BitVec 13)
  /-- BGEU (R153): K branches when k[A] >= k[B] unsigned. -/
  | bgeu (a : BitVec 5) (b : BitVec 5) (slot : BitVec 3) (line : BitVec 13)
  /-- CALL (R153): K writes its own slot address to k[A] and branches. -/
  | call (a : BitVec 5) (slot : BitVec 3) (line : BitVec 13)
  /-- KLOOP (R153): K decrements k[A] and branches while nonzero; a possible yield point. -/
  | kloop (a : BitVec 5) (slot : BitVec 3) (line : BitVec 13)
  /-- JR (R153): K continues at exactly the slot address in k[A]. -/
  | jr (a : BitVec 5)
  /-- JR_RET (R153): K continues at the next own slot after address k[A]. -/
  | jrRet (a : BitVec 5)
  /-- TKPUSH (R154): K pushes a token into kl, kx or ks once its earlier accesses have performed. -/
  | tkpush (sl : BitVec 2)
  /-- TKPOP (R154): K pops a token from lk, xk or sk, stalling while empty. -/
  | tkpop (sl : BitVec 2)
  /-- CRRD (R155): K reads a control register into k[D]. -/
  | crrd (d : BitVec 5) (crn : BitVec 16)
  /-- CRWR (R155): K writes a control register from k[A]. -/
  | crwr (a : BitVec 5) (crn : BitVec 16)
  /-- WINX (R159): K tests whether a virtual window would translate and writes a code. -/
  | winx (d : BitVec 5) (a : BitVec 5) (b : BitVec 5) (acc : BitVec 2)
  /-- SQWAIT (R166): Stalls until a barge's sequence number reaches k[B], then writes it. -/
  | sqwait (d : BitVec 5) (a : BitVec 5) (b : BitVec 5)
  /-- MNEST (R235): Copies a nest record into the matrix engine's shadow nest. -/
  | mnest (a : BitVec 5)
  /-- MTPB (R235): Copies a tile parameter block into the shadow parameter block. -/
  | mtpb (a : BitVec 5)
  /-- MRING_DEF (R231): Defines a matrix ring with base and control word, head and tail zero. -/
  | mringDef (a : BitVec 5) (b : BitVec 5) (rg : BitVec 3)
  /-- MRING_PUSH (R232): Advances a ring's tail by k[A] entries. -/
  | mringPush (a : BitVec 5) (rg : BitVec 3)
  /-- MRING_RD (R231): Returns a ring's head and tail counts. -/
  | mringRd (d : BitVec 5) (rg : BitVec 3)
  /-- MGO (R238): Checks and queues one loop nest on the matrix engine, capturing both shadows. -/
  | mgo (d : BitVec 5) (a : BitVec 5) (b : BitVec 5) (prf : BitVec 8)
  /-- MWAIT (R242): Stalls until MOC reaches k[A] and reports faulted or cancelled operations. -/
  | mwait (d : BitVec 5) (a : BitVec 5)
  /-- MSNAP (R243): Copies a tile's visible state to scratchpad at a defined engine point. -/
  | msnap (d : BitVec 5) (a : BitVec 5) (rel : Bool) (t : BitVec 2)
  /-- MDRAIN (R245): Queues a drain of a tile through a tensor descriptor. -/
  | mdrain (d : BitVec 5) (a : BitVec 5) (b : BitVec 5) (za : Bool) (key : Bool) (rel : Bool) (ovf : Bool) (rm : BitVec 2) (t : BitVec 2)
  /-- MZERO (R244): Queues an operation that zeroes the masked tiles. -/
  | mzero (d : BitVec 5) (mask : BitVec 4)
  /-- MSCALE (R246): Queues a scale-accumulate of one tile into another. -/
  | mscale (d : BitVec 5) (a : BitVec 5) (b : BitVec 5) (sfmt : BitVec 6) (src : BitVec 2) (dst : BitVec 2) (prf : BitVec 8)
  /-- IXDEF (R250): Copies a walk descriptor into the index engine's shadow. -/
  | ixdef (a : BitVec 5)
  /-- IXGO (R250): Checks and queues an index walk. -/
  | ixgo (d : BitVec 5) (a : BitVec 5) (b : BitVec 5) (rel : Bool)
  /-- IXWAIT (R250): Waits on the index engine's counter as MWAIT does. -/
  | ixwait (d : BitVec 5) (a : BitVec 5)
  /-- GALLOC (R167): Allocates a gauge record with the given configuration. -/
  | galloc (a : BitVec 5) (b : BitVec 5)
  /-- GALLOC_REL (R167): Releases a gauge record. -/
  | gallocRel (a : BitVec 5)
  /-- GBIND (R168): Writes a gauge id into a tensor descriptor, returning the old id. -/
  | gbind (d : BitVec 5) (a : BitVec 5) (b : BitVec 5)
  /-- GCLOSE (R169): Closes the generation of a gauge record and returns the new GEN. -/
  | gclose (d : BitVec 5) (a : BitVec 5)
  /-- GCLOSE_CFG (R169): Closes a gauge generation and replaces its configuration. -/
  | gcloseCfg (d : BitVec 5) (a : BitVec 5) (b : BitVec 5)
  /-- BGENQ (R163): Reads, checks and translates a barge command and appends it to a barge chain. -/
  | bgenq (d : BitVec 5) (a : BitVec 5) (b : BitVec 5)
  /-- YIELD (R327): Writes whether a pre-emption request is pending. -/
  | yield (d : BitVec 5)
  /-- TFRD (R327): Reads a trap-frame field. -/
  | tfrd (d : BitVec 5) (a : BitVec 5)
  /-- TFWR (R327): Writes a writable trap-frame field. -/
  | tfwr (a : BitVec 5) (b : BitVec 5)
  /-- MQRD (R327): Reads a word of a mend-queue entry in handler mode. -/
  | mqrd (d : BitVec 5) (a : BitVec 5)
  /-- MQWR (R327): Sets the SQ bit of an X mend-queue entry. -/
  | mqwr (a : BitVec 5) (b : BitVec 5)
  /-- CTXSTAT (R327): Reads an item of the context's status. -/
  | ctxstat (d : BitVec 5) (a : BitVec 5)
  /-- CTXKILL (R327): Moves the issuing context to KILLING with reason 2. -/
  | ctxkill (a : BitVec 5)
  /-- BRKSET (R327): Sets a breakpoint at a slot address. -/
  | brkset (a : BitVec 5) (b : BitVec 5)
  /-- BRKCLR (R327): Clears a breakpoint. -/
  | brkclr (a : BitVec 5)
  /-- SWTRAP (R327): Raises a precise SWTRAP trap with INFO from k[A]. -/
  | swtrap (a : BitVec 5)
  /-- TAKE (R340): Removes the bottom record of the core's own continuation deque. -/
  | take (d : BitVec 5) (a : BitVec 5)
  /-- STEAL (R340): Removes the top record of another core's deque. -/
  | steal (d : BitVec 5) (a : BitVec 5) (b : BitVec 5)
  /-- SPAWN (R340): Adds a continuation record at the bottom of a core's deque. -/
  | spawn (d : BitVec 5) (a : BitVec 5) (b : BitVec 5)
  /-- JOIN (R340): Atomically decrements a join counter and returns the new value. -/
  | join (d : BitVec 5) (a : BitVec 5)
  /-- CQAPP (R348): Appends a command record to a host command queue. -/
  | cqapp (d : BitVec 5) (a : BitVec 5) (b : BitVec 5)
  /-- CQTAIL (R348): Returns APP of a host command queue. -/
  | cqtail (d : BitVec 5) (a : BitVec 5)
  /-- CQSTAT (R348): Returns STATUS, STARTED or DONE of a queue. -/
  | cqstat (d : BitVec 5) (a : BitVec 5) (b : BitVec 5)
  /-- EVPOST (R348): Posts a SOFT event with code and payload. -/
  | evpost (a : BitVec 5) (b : BitVec 5)
  /-- TTWR (R344): Writes a time-triggered launch table entry. -/
  | ttwr (a : BitVec 5) (b : BitVec 5)
  /-- TTRD (R344): Copies a launch table entry to scratchpad. -/
  | ttrd (a : BitVec 5) (b : BitVec 5)
  /-- TTSTAT (R344): Returns the launched, skipped and late counts of an entry. -/
  | ttstat (d : BitVec 5) (a : BitVec 5)
  /-- LAUNCH (R353): QF requests a launch of a new group and receives its handle. -/
  | launch (d : BitVec 5) (a : BitVec 5) (b : BitVec 5)
  /-- GRPID (R354): Returns an item of the group's identity. -/
  | grpid (d : BitVec 5) (a : BitVec 5)
  /-- GRPWAIT (R355): Waits until a group has retired or been refused and returns its status. -/
  | grpwait (d : BitVec 5) (a : BitVec 5)
  /-- LSQDEF (R357): QF stores a tile nest in the quad's loop sequencer. -/
  | lsqdef (a : BitVec 5)
  /-- LSQGO (R358): QF starts a new pass, dividing the tiles among the cores. -/
  | lsqgo (d : BitVec 5)
  /-- LSQNEXT (R359): A core draws its next tile of a pass. -/
  | lsqnext (d : BitVec 5) (a : BitVec 5) (b : BitVec 5)
  /-- BARV (R369): Fences at the barrier's level and arrives at the barrier. -/
  | barv (d : BitVec 5) (a : BitVec 5)
  /-- BWAIT (R370): Waits until a barrier generation is complete and reports an abort. -/
  | bwait (d : BitVec 5) (a : BitVec 5) (b : BitVec 5)
  /-- BMASK (R371): Sets or queues a barrier's member mask. -/
  | bmask (a : BitVec 5) (b : BitVec 5)
  /-- BGEN (R372): Returns a snapshot of a barrier's state. -/
  | bgen (d : BitVec 5) (a : BitVec 5)
  /-- SEMADD (R376): Saturating add to a semaphore, satisfying waiters in order. -/
  | semadd (d : BitVec 5) (a : BitVec 5) (b : BitVec 5)
  /-- SEMSUB (R376): Subtracts from a semaphore if it holds enough. -/
  | semsub (d : BitVec 5) (a : BitVec 5) (b : BitVec 5)
  /-- SEMCAS (R376): Compare-and-swap on a semaphore. -/
  | semcas (d : BitVec 5) (a : BitVec 5) (b : BitVec 5)
  /-- SEMWAIT (R376): Waits until a semaphore holds the amount, then subtracts unless peeking. -/
  | semwait (d : BitVec 5) (a : BitVec 5) (b : BitVec 5)
  /-- SEMRD (R376): Reads a semaphore's value. -/
  | semrd (d : BitVec 5) (a : BitVec 5)
  /-- PGMAP (R386): Maps a new zero-filled page from a request record. -/
  | pgmap (d : BitVec 5) (a : BitVec 5)
  /-- PGATTR (R387): Replaces a page's permission and attribute fields. -/
  | pgattr (d : BitVec 5) (a : BitVec 5) (b : BitVec 5)
  /-- PGQRY (R388): Returns the entry word of the page holding an address. -/
  | pgqry (d : BitVec 5) (a : BitVec 5)
  /-- TLBINV (R389): Unmaps a range of pages once their in-flight counts drain. -/
  | tlbinv (d : BitVec 5) (a : BitVec 5) (b : BitVec 5)
  /-- SEAL (R390): Seals a range of pages once earlier writes have performed. -/
  | seal (d : BitVec 5) (a : BitVec 5) (b : BitVec 5)
  /-- UNSEAL (R390): Clears the seal of a range of pages and discards replicas. -/
  | unseal (d : BitVec 5) (a : BitVec 5) (b : BitVec 5)
  /-- COLL (R410): Opens this participant's part of a collective session. -/
  | coll (a : BitVec 5)
  /-- COLWAIT (R411): Waits for a collective session to end, returns status and closes it. -/
  | colwait (d : BitVec 5) (a : BitVec 5)
  /-- LNKST (R412): Returns port, route or host link status. -/
  | lnkst (d : BitVec 5) (a : BitVec 5)
  /-- TMRD (R413): Returns the module's device time. -/
  | tmrd (d : BitVec 5)
  /-- BPUSH (R431): Sends one gradient contribution to a parameter group's block. -/
  | bpush (d : BitVec 5) (a : BitVec 5)
  /-- BCLOSE (R431): QU closes a basin step. -/
  | bclose (d : BitVec 5) (a : BitVec 5) (b : BitVec 5)
  /-- BSUB (R431): Subscribes to or cancels delivery of published weights. -/
  | bsub (d : BitVec 5) (a : BitVec 5) (b : BitVec 5)
  /-- BRULE (R432): QU registers, releases or updates the hyperparameters of a parameter group. -/
  | brule (d : BitVec 5) (a : BitVec 5) (b : BitVec 5)
  /-- BSTAT (R434): Returns a status item of a parameter group. -/
  | bstat (d : BitVec 5) (a : BitVec 5) (b : BitVec 5)
  /-- FENCE (R158): K stalls until its earlier scratchpad accesses have performed at the scope. -/
  | fence (scope : BitVec 3)
  /-- LD (R180): L loads a descriptor window into a load-queue entry with an AFFINE map. -/
  | ld (tok : Tok) (a : BitVec 4) (desc : BitVec 10)
  /-- LDS (R180): L loads a strided window into a load-queue entry. -/
  | lds (tok : Tok) (a : BitVec 4) (b : BitVec 4) (desc : BitVec 10)
  /-- LDI (R181): L gathers elements by an index list along one axis. -/
  | ldi (tok : Tok) (a : BitVec 4) (b : BitVec 4) (desc : BitVec 10) (ix : BitVec 2)
  /-- LGB (R181): L gathers rows by block coordinates. -/
  | lgb (tok : Tok) (a : BitVec 4) (b : BitVec 4) (desc : BitVec 10)
  /-- LRRD (R181): L gathers rows by indexed remote reads. -/
  | lrrd (tok : Tok) (a : BitVec 4) (b : BitVec 4) (desc : BitVec 10)
  /-- FBOPEN (R183): L opens a fibre cursor from a header. -/
  | fbopen (tok : Tok) (fb : BitVec 3) (b : BitVec 4) (desc : BitVec 10)
  /-- FBNEXT (R183): L fills a load-queue entry with the next elements of a fibre. -/
  | fbnext (tok : Tok) (fb : BitVec 3)
  /-- FBEND (R183): L branches when a fibre cursor is ENDED. -/
  | fbend (tok : Tok) (fb : BitVec 3) (slot : BitVec 3) (line : BitVec 13)
  /-- FBCLOSE (R183): L closes a fibre cursor. -/
  | fbclose (tok : Tok) (fb : BitVec 3)
  /-- LMARK (R190): L waits for its paired SMARK before later accesses. -/
  | lmark (tok : Tok) (m : BitVec 4)
  /-- L_OWNE (R192): L sets a range of granules to ENGINE after its earlier accesses perform. -/
  | lOwne (tok : Tok) (a : BitVec 4) (cnt : BitVec 8)
  /-- L_OWNX (R192): L returns a range of granules to STREAM once no engine command touches them. -/
  | lOwnx (tok : Tok) (a : BitVec 4) (cnt : BitVec 8)
  /-- L_FENCE (R191): L stalls until its earlier accesses have performed at the scope. -/
  | lFence (tok : Tok) (scope : BitVec 3)
  /-- LAADD (R193): L adds a 14-bit immediate to an address register. -/
  | laadd (tok : Tok) (a : BitVec 4) (b : BitVec 4) (val : BitVec 14)
  /-- LAADD_LO (R193): L adds to the low 32 bits of an address register. -/
  | laaddLo (tok : Tok) (a : BitVec 4) (b : BitVec 4) (val : BitVec 14)
  /-- LAADD_HI (R193): L adds to the high 32 bits of an address register. -/
  | laaddHi (tok : Tok) (a : BitVec 4) (b : BitVec 4) (val : BitVec 14)
  /-- LALI (R193): L loads a sign-extended immediate into an address register. -/
  | lali (tok : Tok) (a : BitVec 4) (imm : BitVec 16)
  /-- LAK (R193): L loads 8 bytes from scratchpad into an address register. -/
  | lak (tok : Tok) (a : BitVec 4) (b : BitVec 4) (imm : BitVec 16)
  /-- LBR (R194): L branches when two address registers differ. -/
  | lbr (tok : Tok) (a : BitVec 4) (b : BitVec 4) (slot : BitVec 3) (line : BitVec 13)
  /-- LLOOP (R194): L decrements a register and branches while nonzero. -/
  | lloop (tok : Tok) (a : BitVec 4) (slot : BitVec 3) (line : BitVec 13)
  /-- ST (R185): S pops an entry and stores it through a descriptor window under the map check. -/
  | st (tok : Tok) (a : BitVec 4) (desc : BitVec 10) (chk : Bool)
  /-- STS (R185): S stores an entry through a strided window. -/
  | sts (tok : Tok) (a : BitVec 4) (b : BitVec 4) (desc : BitVec 10) (chk : Bool)
  /-- STI (R185): S scatters an entry by an index list. -/
  | sti (tok : Tok) (a : BitVec 4) (b : BitVec 4) (desc : BitVec 10) (ix : BitVec 2)
  /-- SSB (R185): S scatters an entry by block coordinates. -/
  | ssb (tok : Tok) (a : BitVec 4) (b : BitVec 4) (desc : BitVec 10)
  /-- PUTSIG_FLAG8 (R189): S stores an entry then writes an 8-byte flag as its signal. -/
  | putsigFlag8 (tok : Tok) (a : BitVec 4) (b : BitVec 4) (desc : BitVec 10) (chk : Bool)
  /-- PUTSIG_FLAG4 (R189): S stores an entry then writes a 4-byte flag as its signal. -/
  | putsigFlag4 (tok : Tok) (a : BitVec 4) (b : BitVec 4) (desc : BitVec 10) (chk : Bool)
  /-- PUTSIG_SEMADD (R189): S stores an entry then adds to a semaphore as its signal. -/
  | putsigSemadd (tok : Tok) (a : BitVec 4) (b : BitVec 4) (desc : BitVec 10) (chk : Bool)
  /-- SMARK (R190): S completes a marker once its earlier stores have performed at core scope. -/
  | smark (tok : Tok) (m : BitVec 4)
  /-- S_OWNE (R192): S sets a range of granules to ENGINE. -/
  | sOwne (tok : Tok) (a : BitVec 4) (cnt : BitVec 8)
  /-- S_OWNX (R192): S returns a range of granules to STREAM. -/
  | sOwnx (tok : Tok) (a : BitVec 4) (cnt : BitVec 8)
  /-- S_FENCE (R191): S stalls until its earlier accesses perform and gauge partials apply. -/
  | sFence (tok : Tok) (scope : BitVec 3)
  /-- SAADD (R193): S adds a 14-bit immediate to an address register. -/
  | saadd (tok : Tok) (a : BitVec 4) (b : BitVec 4) (val : BitVec 14)
  /-- SAADD_LO (R193): S adds to the low 32 bits of an address register. -/
  | saaddLo (tok : Tok) (a : BitVec 4) (b : BitVec 4) (val : BitVec 14)
  /-- SAADD_HI (R193): S adds to the high 32 bits of an address register. -/
  | saaddHi (tok : Tok) (a : BitVec 4) (b : BitVec 4) (val : BitVec 14)
  /-- SALI (R193): S loads a sign-extended immediate into an address register. -/
  | sali (tok : Tok) (a : BitVec 4) (imm : BitVec 16)
  /-- SAK (R193): S loads 8 bytes from scratchpad into an address register. -/
  | sak (tok : Tok) (a : BitVec 4) (b : BitVec 4) (imm : BitVec 16)
  /-- SBR (R194): S branches when two address registers differ. -/
  | sbr (tok : Tok) (a : BitVec 4) (b : BitVec 4) (slot : BitVec 3) (line : BitVec 13)
  /-- SLOOP (R194): S decrements a register and branches while nonzero. -/
  | sloop (tok : Tok) (a : BitVec 4) (slot : BitVec 3) (line : BitVec 13)
  /-- SDROP (R188): S pops the head store-queue entry and writes nothing. -/
  | sdrop (tok : Tok)
  /-- VADD (R202): X adds element-wise and rounds once. -/
  | vadd (x : XArgs)
  /-- VSUB (R202): X subtracts element-wise. -/
  | vsub (x : XArgs)
  /-- VMUL (R202): X multiplies element-wise. -/
  | vmul (x : XArgs)
  /-- VFMA (R202): X computes a·b + c with one rounding. -/
  | vfma (x : XArgs)
  /-- VFMS (R202): X computes a·b - c with one rounding. -/
  | vfms (x : XArgs)
  /-- VFNMA (R202): X computes -(a·b) + c with one rounding. -/
  | vfnma (x : XArgs)
  /-- VDIV (R202): X divides element-wise. -/
  | vdiv (x : XArgs)
  /-- VMIN (R203): X takes minimumNumber element-wise. -/
  | vmin (x : XArgs)
  /-- VMAX (R203): X takes maximumNumber element-wise. -/
  | vmax (x : XArgs)
  /-- VMINP (R203): X takes a NaN-propagating minimum. -/
  | vminp (x : XArgs)
  /-- VMAXP (R203): X takes a NaN-propagating maximum. -/
  | vmaxp (x : XArgs)
  /-- VABS (R202): X takes the absolute value element-wise. -/
  | vabs (x : XArgs)
  /-- VNEG (R202): X negates element-wise. -/
  | vneg (x : XArgs)
  /-- VCEQ (R204): X writes a predicate of a = b. -/
  | vceq (x : XArgs)
  /-- VCNE (R204): X writes a predicate of a ≠ b or unordered. -/
  | vcne (x : XArgs)
  /-- VCLT (R204): X writes a predicate of a < b. -/
  | vclt (x : XArgs)
  /-- VCLE (R204): X writes a predicate of a ≤ b. -/
  | vcle (x : XArgs)
  /-- VCUN (R204): X writes a predicate of either operand being NaN. -/
  | vcun (x : XArgs)
  /-- VSEL (R205): X selects a or b per element by a predicate. -/
  | vsel (x : XArgs)
  /-- VAND (R206): X bitwise AND. -/
  | vand (x : XArgs)
  /-- VOR (R206): X bitwise OR. -/
  | vor (x : XArgs)
  /-- VXOR (R206): X bitwise XOR. -/
  | vxor (x : XArgs)
  /-- VANDN (R206): X computes a AND NOT b. -/
  | vandn (x : XArgs)
  /-- VSHL (R206): X shifts left per element. -/
  | vshl (x : XArgs)
  /-- VSHR (R206): X shifts right logically per element. -/
  | vshr (x : XArgs)
  /-- VSRA (R206): X shifts right arithmetically per element. -/
  | vsra (x : XArgs)
  /-- VADDS (R202): X adds integers with saturation. -/
  | vadds (x : XArgs)
  /-- VSUBS (R202): X subtracts integers with saturation. -/
  | vsubs (x : XArgs)
  /-- VCVT (R207): X converts between formats, widening by part or narrowing two sources. -/
  | vcvt (x : XArgs)
  /-- VSQRT (R209): X square root, correctly rounded. -/
  | vsqrt (x : XArgs)
  /-- VRCP (R209): X reciprocal, correctly rounded. -/
  | vrcp (x : XArgs)
  /-- VRSQ (R209): X reciprocal square root, correctly rounded. -/
  | vrsq (x : XArgs)
  /-- VEXP2 (R209): X computes 2^a, correctly rounded. -/
  | vexp2 (x : XArgs)
  /-- VLOG2 (R209): X computes log2 a, correctly rounded. -/
  | vlog2 (x : XArgs)
  /-- VSINP (R209): X computes sin(π·a), correctly rounded. -/
  | vsinp (x : XArgs)
  /-- VCOSP (R209): X computes cos(π·a), correctly rounded. -/
  | vcosp (x : XArgs)
  /-- VCMUL (R210): X multiplies complex pairs with optional conjugate and accumulator. -/
  | vcmul (x : XArgs)
  /-- VMOV (R208): X copies elements of a source into a vector register. -/
  | vmov (x : XArgs)
  /-- VMOV_E (R208): X copies one 32-bit lane into an e register. -/
  | vmovE (x : XArgs)
  /-- VSCAL (R211): X applies block scales to partial sums and accumulates with one rounding. -/
  | vscal (x : XArgs)
  /-- VDQ (R212): X decodes binary8 elements and scales them by 2^-s. -/
  | vdq (x : XArgs)
  /-- CMSET (R213): X writes a register's map from a map image. -/
  | cmset (x : XArgs)
  /-- CMGET (R213): X writes the image of a source's map into a register. -/
  | cmget (x : XArgs)
  /-- CMSLICE (R213): X copies a value and offsets its map coordinates. -/
  | cmslice (x : XArgs)
  /-- CMPERM (R213): X copies a value and permutes its map axes. -/
  | cmperm (x : XArgs)
  /-- CMCHK (R213): X compares source maps and traps on disagreement. -/
  | cmchk (x : XArgs)
  /-- PCRD (R214): X writes a predicate from a linear coordinate relation. -/
  | pcrd (x : XArgs)
  /-- VHASH (R215): X computes the keyed mixer of each element's coordinates. -/
  | vhash (x : XArgs)
  /-- VTWID (R216): X computes twiddle factor pairs from coordinates. -/
  | vtwid (x : XArgs)
  /-- VPERM (R217): X permutes elements by an index vector. -/
  | vperm (x : XArgs)
  /-- VXPOSE (R217): X transposes a register's rows and columns. -/
  | vxpose (x : XArgs)
  /-- VRESHP (R217): X reshapes a register to a new row width. -/
  | vreshp (x : XArgs)
  /-- VBCE (R217): X broadcasts one element. -/
  | vbce (x : XArgs)
  /-- VBCR (R217): X broadcasts one row. -/
  | vbcr (x : XArgs)
  /-- VBCC (R217): X broadcasts one column. -/
  | vbcc (x : XArgs)
  /-- VCOMPACT (R217): X compacts predicate-selected elements to the front. -/
  | vcompact (x : XArgs)
  /-- VREDQ (R217): X reduces along each row. -/
  | vredq (x : XArgs)
  /-- VREDR (R217): X reduces along each column. -/
  | vredr (x : XArgs)
  /-- WACC (R218): X accumulates a source into a wide accumulator. -/
  | wacc (x : XArgs)
  /-- WFMA (R218): X accumulates a product into a wide accumulator. -/
  | wfma (x : XArgs)
  /-- WNAR (R218): X narrows a wide accumulator into a vector register. -/
  | wnar (x : XArgs)
  /-- WZERO (R218): X zeroes a wide accumulator keeping its map. -/
  | wzero (x : XArgs)
  /-- PAND (R219): X ANDs two predicates. -/
  | pand (x : XArgs)
  /-- POR (R219): X ORs two predicates. -/
  | por (x : XArgs)
  /-- PXOR (R219): X XORs two predicates. -/
  | pxor (x : XArgs)
  /-- PNOT (R219): X inverts a predicate. -/
  | pnot (x : XArgs)
  /-- PSET (R219): X sets the low k predicate bits. -/
  | pset (x : XArgs)
  /-- PMOV (R219): X copies a predicate. -/
  | pmov (x : XArgs)
  /-- XLOOP (R222): X opens a software-pipelined hardware loop with register rotation. -/
  | xloop (x : XArgs)
  /-- XLEND (R222): X ends a kernel iteration, turning the rotation window. -/
  | xlend (x : XArgs)
  /-- XWAIT (R221): X delays its next issue by a count of cycles. -/
  | xwait (x : XArgs)
  /-- XPUSH (R220): X copies a register and its map into a new store-queue entry. -/
  | xpush (x : XArgs)
  /-- VQNT (R225): X quantises wide-accumulator values to binary8 using the gauge's closed scale. -/
  | vqnt (x : XArgs)
  /-- GREAD (R226): X reads a whole gauge record into a register. -/
  | gread (x : XArgs)
  /-- GSTAT (R226): X reads a gauge record's state and the stray-merge counter. -/
  | gstat (x : XArgs)
  /-- NOP (R134): No-operation in every stream; occupies one issue and touches nothing. -/
  | nop
  /-- ERET (R327): Leaves handler mode and resumes streams, re-injecting the mend queue. -/
  | eret
  /-- X_RESULT_WRITE (R27): An issued X instruction writes its destination, map and flags in cycle t+L. -/
  | xResultWrite
  /-- LQ_ENTRY_PRESENT (R176): All elements of a load-queue entry have arrived; the entry becomes present and L's PA token is pushed. -/
  | lqEntryPresent
  /-- STORE_PERFORMED_CORE (R187): An S store has performed at core scope, completing it and pushing its PA token. -/
  | storePerformedCore
  /-- GAUGE_MERGE (R103): The home merge unit applies one gauge partial or OVCNT message atomically. -/
  | gaugeMerge
  /-- GPOISON (R445): An uncorrectable error in a gauge record makes it POISONED and posts GPOISON. -/
  | gpoison
  /-- ENGINE (R319): A pending engine fault record is delivered by an ENGINE trap when the sequencer next issues. -/
  | engineTrap
  /-- BREAK (R327): A stream about to issue a breakpoint slot stops the core with BREAK. -/
  | breakStop
  /-- STEP (R320): The single stepped instruction retires and the core stops with STEP. -/
  | stepStop
  /-- HOST_RESUME_CORE (R316): The host debugger writes the frame and resumes a stopped core as ERET does. -/
  | hostResumeCore
  /-- BARGE_COMMAND_RUN (R337): The barge reaches a queued command cleared by the range checker and performs its copy or atomic. -/
  | bargeCommandRun
  /-- BARGE_RETIRE (R164): A finished barge command retires in chain order, returning granules, writing its sequence number and lowering in-flight counters. -/
  | bargeRetire
  /-- MATRIX_OP_START (R248): A queued matrix operation reaches the head and starts running, or is CANCELLED after an unreported fault. -/
  | matrixOpStart
  /-- MGO_STEP_END (R240): A matrix nest step ends and the tile's visible value may advance. -/
  | mgoStepEnd
  /-- MATRIX_OP_RETIRE (R248): A matrix operation retires or faults, updating MOC, rings and granules. -/
  | matrixOpRetire
  /-- INDEX_WALK_RUN (R252): A queued index walk starts computing its selection. -/
  | indexWalkRun
  /-- INDEX_WALK_RETIRE (R253): An index walk writes its list and count word and retires. -/
  | indexWalkRetire
  /-- APPEND (R332): A host write to a queue's APPEND register links a record onto the queue. -/
  | append
  /-- EVRD (R347): A host write of consumed records frees event log space. -/
  | evrd
  /-- HOST_REGISTER_WRITE (R347): A host write to a BAR0 register without behaviour of its own (EVBASE, EVSIZE, EVINT, FWADDR, FWSIZE). -/
  | hostRegisterWrite
  /-- CMD_NOP (R331): A NOP command record starts and completes at once. -/
  | cmdNop
  /-- CTXNEW (R311): A CTXNEW record creates and builds a context from a descriptor. -/
  | ctxnew
  /-- CMD_CTXKILL (R326): A CTXKILL record moves a context to KILLING. -/
  | cmdCtxkill
  /-- PREEMPT (R321): A PREEMPT record raises the pre-emption request at the context's sequencers. -/
  | preempt
  /-- RESUME (R324): A RESUME record restores a SAVED context to its quads. -/
  | resume
  /-- QBIND (R334): A QBIND record binds, rebinds or unbinds a host command queue. -/
  | qbind
  /-- KLOAD (R273): A KLOAD record runs the loader's checks, signing and interleaving on a .vof. -/
  | kload
  /-- KUNLOAD (R274): A KUNLOAD record unloads a kernel or refuses an unknown id. -/
  | kunload
  /-- CMD_LAUNCH (R331): A LAUNCH record requests a group of a kernel. -/
  | cmdLaunch
  /-- WAITV (R331): A WAITV record blocks the queue until a word meets its relation. -/
  | waitv
  /-- WAITV_POLL (R331): A blocked WAITV re-reads its word at least once per microsecond. -/
  | waitvPoll
  /-- WRITEV (R331): A WRITEV record writes a word and completes once performed at sys. -/
  | writev
  /-- CMD_EVENT (R331): An EVENT record posts an EVENT event. -/
  | cmdEvent
  /-- TT_SLOT_BEGIN (R343): A slot of an enabled launch table entry begins and is launched, skipped, or withdraws a late launch. -/
  | ttSlotBegin
  /-- GROUP_CREATE (R349): The scheduler starts a launch once quads are free: quads chosen, members initialised and started. -/
  | groupCreate
  /-- GROUP_RETIRE (R363): A group whose streams, engines and sessions have finished retires and frees its quads. -/
  | groupRetire
  /-- CONTEXT_SAVE (R322): Once every sequencer of a yielding context is quiescent, its state is saved and it becomes SAVED. -/
  | contextSave
  /-- PREEMPT_TIME_LIMIT (R323): A pre-emption time limit expires and the save is forced. -/
  | preemptTimeLimit
  /-- RESUME_HELD_START (R311): A held resume proceeds once the context's quads are free. -/
  | resumeHeldStart
  /-- CONTEXT_KILL_COMPLETE (R311): All actions of a kill are done and the context becomes DEAD. -/
  | contextKillComplete
  /-- CONTEXT_ACK (R311): The host acknowledges a DEAD context, which returns to FREE. -/
  | contextAck
  /-- HOST_PAGE_READ (R383): A host PCIe read with PASID reaches a device page. -/
  | hostPageRead
  /-- HOST_PAGE_WRITE (R383): A host PCIe write with PASID reaches a device page. -/
  | hostPageWrite
  /-- HOST_ATOMIC (R307): A host AtomicOp reaches a device location. -/
  | hostAtomic
  /-- ROW_REMAP (R442): A row over the corrected-error threshold is remapped once no access is pending. -/
  | rowRemap
  /-- CORE_FAILURE (R442): A core's hardware fails while running; its context is killed and REPAIR is posted. -/
  | coreFailure
  /-- FLIT_REPLAY (R397): A damaged flit is replayed by the link layer and counted. -/
  | flitReplay
  /-- PORTUP (R398): Port training completes with one or two lanes. -/
  | portup
  /-- PORT_TRAIN_TIMEOUT (R398): No lane trains within 100 ms and the port fails. -/
  | portTrainTimeout
  /-- LANEFAIL (R398): A lane of a port fails, halving its rate or failing the port. -/
  | lanefail
  /-- COLL_ALL_JOINED (R406): Every rank of a collective session has joined and combining begins. -/
  | collAllJoined
  /-- COLL_SESSION_DONE (R405): A participant's destination is written and returned, and its session is DONE. -/
  | collSessionDone
  /-- COLL_TIMEOUT (R406): A session's TMO elapses and it aborts with cause 3. -/
  | collTimeout
  /-- COLL_ABORT (R406): An abort message on a session arrives and the participant enters ABORTED. -/
  | collAbort
  /-- TIME_MESSAGE (R407): A master time message or host PTM time disciplines device time. -/
  | timeMessage
  /-- TIMEHOLD (R407): The time master loses host time or becomes unreachable and a new master is chosen. -/
  | timehold
  /-- BASIN_STEP_TMO (R423): A basin step's time-out passes, closing it or posting BWAITTO. -/
  | basinStepTmo
  /-- BASIN_DECISION (R424): The step barrier's last primary arrives; the decision is delivered and blocks are committed and published. -/
  | basinDecision
  /-- BUDDY_MIRROR_STEP (R426): The buddy brings its mirror to the published step and acknowledges the primary. -/
  | buddyMirrorStep
  /-- BASIN_BUDDY_ACK (R426): The primary receives the buddy's acknowledgement and may commit the next step. -/
  | basinBuddyAck
  /-- SUBSCRIPTION_DELIVERY (R429): A subscription writes published weights once its granules are ENGINE, then the status word. -/
  | subscriptionDelivery
  /-- BFAILOVER (R427): The buddy takes over a group whose primary failed. -/
  | bfailover
  /-- BNOBUDDY (R427): A buddy fails and the primary runs on without one. -/
  | bnobuddy
  /-- POWER_APPLIED (R440): Power is applied; the boot ROM runs and the mailbox opens. -/
  | powerApplied
  /-- POWER_REMOVED (R440): Power is removed and the module goes OFF. -/
  | powerRemoved
  /-- FWGO (R440): A host write to FWGO starts firmware verification. -/
  | fwgo
  /-- REPAIR_DONE (R442): Start-up repair tables complete or the module fails. -/
  | repairDone
  /-- LINKS_DONE (R440): Ports trained or failed and time set; the module becomes READY. -/
  | linksDone
  /-- RETRAIN_PORT (R441): Mailbox command 0x01 retrains a port. -/
  | retrainPort
  /-- READ_ERROR_COUNTER (R443): Mailbox command 0x02 returns an error-log counter. -/
  | readErrorCounter
  /-- ATTEST (R444): Mailbox command 0x03 writes a signed attestation reply. -/
  | attest
  /-- READ_POWER (R441): Mailbox command 0x04 returns the module draw. -/
  | readPower
  /-- COOLANT_OUT_OF_RANGE (R439): Coolant temperature or flow leaves its range, or a die passes shutdown temperature; issue is delayed or power removed. -/
  | coolantOutOfRange
  /-- THERMAL (R439): The thermal condition lasts 10 s; contexts are killed and compute dies powered off. -/
  | thermal
  /-- FETCH (R125): A stream's fetch unit obtains and translates the line that its search for its next slot needs, which may end the stream at an end tag or raise ILLEGAL_LINE, PAGE_FAULT or DATA_POISON. -/
  | fetch
  /-- PERFORMED_AT_SCOPE (R287): A scratchpad access, PUTSIG signal or remote semaphore add made earlier performs at a scope wider than the core, or its remote reply or acknowledgement arrives. -/
  | performedAtScope
  /-- COOLANT_BACK_IN_RANGE (R439): Coolant temperature and flow return to their rated range before 10 s pass, lifting the delay on issue. -/
  | coolantBackInRange
deriving DecidableEq, Repr

/-- The stream classes of an instruction's encoding (R131). -/
inductive Stream where
  | k | l | x | s
deriving DecidableEq, Repr

/-- The stream whose opcode map holds an instruction; none for an event. NOP stands in every map (R134). -/
def Instr.stream : Instr → Option Stream
  | .add _ _ _ => some .k
  | .sub _ _ _ => some .k
  | .and _ _ _ => some .k
  | .or _ _ _ => some .k
  | .xor _ _ _ => some .k
  | .shl _ _ _ => some .k
  | .shr _ _ _ => some .k
  | .sra _ _ _ => some .k
  | .mul _ _ _ => some .k
  | .mulh _ _ _ => some .k
  | .mulhu _ _ _ => some .k
  | .div _ _ _ => some .k
  | .divu _ _ _ => some .k
  | .rem _ _ _ => some .k
  | .remu _ _ _ => some .k
  | .min _ _ _ => some .k
  | .max _ _ _ => some .k
  | .minu _ _ _ => some .k
  | .maxu _ _ _ => some .k
  | .ceq _ _ _ => some .k
  | .cne _ _ _ => some .k
  | .clt _ _ _ => some .k
  | .cltu _ _ _ => some .k
  | .cge _ _ _ => some .k
  | .cgeu _ _ _ => some .k
  | .sel _ _ _ _ => some .k
  | .addi _ _ _ => some .k
  | .andi _ _ _ => some .k
  | .ori _ _ _ => some .k
  | .xori _ _ _ => some .k
  | .shli _ _ _ => some .k
  | .shri _ _ _ => some .k
  | .srai _ _ _ => some .k
  | .li _ _ => some .k
  | .ors16 _ _ _ => some .k
  | .ors32 _ _ _ => some .k
  | .ors48 _ _ _ => some .k
  | .slti _ _ _ => some .k
  | .kld _ _ _ => some .k
  | .kldw _ _ _ => some .k
  | .kst _ _ _ => some .k
  | .kstw _ _ _ => some .k
  | .beq _ _ _ _ => some .k
  | .bne _ _ _ _ => some .k
  | .blt _ _ _ _ => some .k
  | .bge _ _ _ _ => some .k
  | .bltu _ _ _ _ => some .k
  | .bgeu _ _ _ _ => some .k
  | .call _ _ _ => some .k
  | .kloop _ _ _ => some .k
  | .jr _ => some .k
  | .jrRet _ => some .k
  | .tkpush _ => some .k
  | .tkpop _ => some .k
  | .crrd _ _ => some .k
  | .crwr _ _ => some .k
  | .winx _ _ _ _ => some .k
  | .sqwait _ _ _ => some .k
  | .mnest _ => some .k
  | .mtpb _ => some .k
  | .mringDef _ _ _ => some .k
  | .mringPush _ _ => some .k
  | .mringRd _ _ => some .k
  | .mgo _ _ _ _ => some .k
  | .mwait _ _ => some .k
  | .msnap _ _ _ _ => some .k
  | .mdrain _ _ _ _ _ _ _ _ _ => some .k
  | .mzero _ _ => some .k
  | .mscale _ _ _ _ _ _ _ => some .k
  | .ixdef _ => some .k
  | .ixgo _ _ _ _ => some .k
  | .ixwait _ _ => some .k
  | .galloc _ _ => some .k
  | .gallocRel _ => some .k
  | .gbind _ _ _ => some .k
  | .gclose _ _ => some .k
  | .gcloseCfg _ _ _ => some .k
  | .bgenq _ _ _ => some .k
  | .yield _ => some .k
  | .tfrd _ _ => some .k
  | .tfwr _ _ => some .k
  | .mqrd _ _ => some .k
  | .mqwr _ _ => some .k
  | .ctxstat _ _ => some .k
  | .ctxkill _ => some .k
  | .brkset _ _ => some .k
  | .brkclr _ => some .k
  | .swtrap _ => some .k
  | .take _ _ => some .k
  | .steal _ _ _ => some .k
  | .spawn _ _ _ => some .k
  | .join _ _ => some .k
  | .cqapp _ _ _ => some .k
  | .cqtail _ _ => some .k
  | .cqstat _ _ _ => some .k
  | .evpost _ _ => some .k
  | .ttwr _ _ => some .k
  | .ttrd _ _ => some .k
  | .ttstat _ _ => some .k
  | .launch _ _ _ => some .k
  | .grpid _ _ => some .k
  | .grpwait _ _ => some .k
  | .lsqdef _ => some .k
  | .lsqgo _ => some .k
  | .lsqnext _ _ _ => some .k
  | .barv _ _ => some .k
  | .bwait _ _ _ => some .k
  | .bmask _ _ => some .k
  | .bgen _ _ => some .k
  | .semadd _ _ _ => some .k
  | .semsub _ _ _ => some .k
  | .semcas _ _ _ => some .k
  | .semwait _ _ _ => some .k
  | .semrd _ _ => some .k
  | .pgmap _ _ => some .k
  | .pgattr _ _ _ => some .k
  | .pgqry _ _ => some .k
  | .tlbinv _ _ _ => some .k
  | .seal _ _ _ => some .k
  | .unseal _ _ _ => some .k
  | .coll _ => some .k
  | .colwait _ _ => some .k
  | .lnkst _ _ => some .k
  | .tmrd _ => some .k
  | .bpush _ _ => some .k
  | .bclose _ _ _ => some .k
  | .bsub _ _ _ => some .k
  | .brule _ _ _ => some .k
  | .bstat _ _ _ => some .k
  | .fence _ => some .k
  | .ld _ _ _ => some .l
  | .lds _ _ _ _ => some .l
  | .ldi _ _ _ _ _ => some .l
  | .lgb _ _ _ _ => some .l
  | .lrrd _ _ _ _ => some .l
  | .fbopen _ _ _ _ => some .l
  | .fbnext _ _ => some .l
  | .fbend _ _ _ _ => some .l
  | .fbclose _ _ => some .l
  | .lmark _ _ => some .l
  | .lOwne _ _ _ => some .l
  | .lOwnx _ _ _ => some .l
  | .lFence _ _ => some .l
  | .laadd _ _ _ _ => some .l
  | .laaddLo _ _ _ _ => some .l
  | .laaddHi _ _ _ _ => some .l
  | .lali _ _ _ => some .l
  | .lak _ _ _ _ => some .l
  | .lbr _ _ _ _ _ => some .l
  | .lloop _ _ _ _ => some .l
  | .st _ _ _ _ => some .s
  | .sts _ _ _ _ _ => some .s
  | .sti _ _ _ _ _ => some .s
  | .ssb _ _ _ _ => some .s
  | .putsigFlag8 _ _ _ _ _ => some .s
  | .putsigFlag4 _ _ _ _ _ => some .s
  | .putsigSemadd _ _ _ _ _ => some .s
  | .smark _ _ => some .s
  | .sOwne _ _ _ => some .s
  | .sOwnx _ _ _ => some .s
  | .sFence _ _ => some .s
  | .saadd _ _ _ _ => some .s
  | .saaddLo _ _ _ _ => some .s
  | .saaddHi _ _ _ _ => some .s
  | .sali _ _ _ => some .s
  | .sak _ _ _ _ => some .s
  | .sbr _ _ _ _ _ => some .s
  | .sloop _ _ _ _ => some .s
  | .sdrop _ => some .s
  | .vadd _ => some .x
  | .vsub _ => some .x
  | .vmul _ => some .x
  | .vfma _ => some .x
  | .vfms _ => some .x
  | .vfnma _ => some .x
  | .vdiv _ => some .x
  | .vmin _ => some .x
  | .vmax _ => some .x
  | .vminp _ => some .x
  | .vmaxp _ => some .x
  | .vabs _ => some .x
  | .vneg _ => some .x
  | .vceq _ => some .x
  | .vcne _ => some .x
  | .vclt _ => some .x
  | .vcle _ => some .x
  | .vcun _ => some .x
  | .vsel _ => some .x
  | .vand _ => some .x
  | .vor _ => some .x
  | .vxor _ => some .x
  | .vandn _ => some .x
  | .vshl _ => some .x
  | .vshr _ => some .x
  | .vsra _ => some .x
  | .vadds _ => some .x
  | .vsubs _ => some .x
  | .vcvt _ => some .x
  | .vsqrt _ => some .x
  | .vrcp _ => some .x
  | .vrsq _ => some .x
  | .vexp2 _ => some .x
  | .vlog2 _ => some .x
  | .vsinp _ => some .x
  | .vcosp _ => some .x
  | .vcmul _ => some .x
  | .vmov _ => some .x
  | .vmovE _ => some .x
  | .vscal _ => some .x
  | .vdq _ => some .x
  | .cmset _ => some .x
  | .cmget _ => some .x
  | .cmslice _ => some .x
  | .cmperm _ => some .x
  | .cmchk _ => some .x
  | .pcrd _ => some .x
  | .vhash _ => some .x
  | .vtwid _ => some .x
  | .vperm _ => some .x
  | .vxpose _ => some .x
  | .vreshp _ => some .x
  | .vbce _ => some .x
  | .vbcr _ => some .x
  | .vbcc _ => some .x
  | .vcompact _ => some .x
  | .vredq _ => some .x
  | .vredr _ => some .x
  | .wacc _ => some .x
  | .wfma _ => some .x
  | .wnar _ => some .x
  | .wzero _ => some .x
  | .pand _ => some .x
  | .por _ => some .x
  | .pxor _ => some .x
  | .pnot _ => some .x
  | .pset _ => some .x
  | .pmov _ => some .x
  | .xloop _ => some .x
  | .xlend _ => some .x
  | .xwait _ => some .x
  | .xpush _ => some .x
  | .vqnt _ => some .x
  | .gread _ => some .x
  | .gstat _ => some .x
  | .nop => some .k
  | .eret => some .k
  | .xResultWrite => none
  | .lqEntryPresent => none
  | .storePerformedCore => none
  | .gaugeMerge => none
  | .gpoison => none
  | .engineTrap => none
  | .breakStop => none
  | .stepStop => none
  | .hostResumeCore => none
  | .bargeCommandRun => none
  | .bargeRetire => none
  | .matrixOpStart => none
  | .mgoStepEnd => none
  | .matrixOpRetire => none
  | .indexWalkRun => none
  | .indexWalkRetire => none
  | .append => none
  | .evrd => none
  | .hostRegisterWrite => none
  | .cmdNop => none
  | .ctxnew => none
  | .cmdCtxkill => none
  | .preempt => none
  | .resume => none
  | .qbind => none
  | .kload => none
  | .kunload => none
  | .cmdLaunch => none
  | .waitv => none
  | .waitvPoll => none
  | .writev => none
  | .cmdEvent => none
  | .ttSlotBegin => none
  | .groupCreate => none
  | .groupRetire => none
  | .contextSave => none
  | .preemptTimeLimit => none
  | .resumeHeldStart => none
  | .contextKillComplete => none
  | .contextAck => none
  | .hostPageRead => none
  | .hostPageWrite => none
  | .hostAtomic => none
  | .rowRemap => none
  | .coreFailure => none
  | .flitReplay => none
  | .portup => none
  | .portTrainTimeout => none
  | .lanefail => none
  | .collAllJoined => none
  | .collSessionDone => none
  | .collTimeout => none
  | .collAbort => none
  | .timeMessage => none
  | .timehold => none
  | .basinStepTmo => none
  | .basinDecision => none
  | .buddyMirrorStep => none
  | .basinBuddyAck => none
  | .subscriptionDelivery => none
  | .bfailover => none
  | .bnobuddy => none
  | .powerApplied => none
  | .powerRemoved => none
  | .fwgo => none
  | .repairDone => none
  | .linksDone => none
  | .retrainPort => none
  | .readErrorCounter => none
  | .attest => none
  | .readPower => none
  | .coolantOutOfRange => none
  | .thermal => none
  | .fetch => none
  | .performedAtScope => none
  | .coolantBackInRange => none

/-- An event: a step without an encoding. -/
def Instr.isEvent (i : Instr) : Bool := i.stream.isNone

end Sys2Proof
end

