-- ==== Sys2Proof/Config.lean ====
section
/-! DEFINITION. What the architecture leaves to an implementation or to chance: whose turn is next, how much time passes,
and the values the spec leaves open. Every opaque constant here is a free value: nothing can be proved of it. -/

namespace Sys2Proof

/-- The parameters of an event step. Each event reads the fields its meaning names and no other. -/
structure EvArgs where
  /-- the sequencer concerned -/
  q      : SeqId
  /-- a module number -/
  md     : Nat
  /-- a context -/
  asid   : Nat
  /-- a core unit, queue, port, session, handle, PGID or position, as the event says -/
  i      : Nat
  /-- a second number -/
  j      : Nat
  /-- an address or offset -/
  addr   : Nat
  /-- a value -/
  val    : Nat
  /-- a second value -/
  val2   : Nat
  /-- bytes of a host write -/
  data   : List Byte
  /-- trap frame fields that a debugger writes -/
  fields : List (Nat × Word)
deriving DecidableEq, Repr

/-- No parameters. -/
def EvArgs.nil : EvArgs :=
  { q := { unit := 0, kind := .k }, md := 0, asid := 0, i := 0, j := 0, addr := 0, val := 0, val2 := 0, data := [], fields := [] }

/-- Who moves next: a sequencer, an event of an engine, the hub, the host or the world, an error of the memory arrays
(`upset` makes the word or line at a memory key uncorrectable, `corrected` is a corrected error, R392), or the boot ROM of a
module, which has verified the firmware image (`verify`, R440), an element of a load that arrives (`element`, R176, R288), or a barge
command that moves some more bytes (`copy`, R288, R337), the loader that ends a load (`loaded`, R274), the members of a STARTING group that
are initialised (`members`, R361), the host that reads a register of BAR0 (`hostRead`, R329, R441), or its link that trains (`hostTrain`, R408). DESIGN CHOICE, unsafe (log entry 1). DEDUCED, unsafe (log entry 67). -/
inductive Turn where
  | seq (q : SeqId)
  | event (i : Instr) (a : EvArgs)
  | upset (key : Nat)
  | corrected (md asid cls src : Nat)
  | verify (md : Nat)
  | element (unit entry pos : Nat)
  | copy (md asid chain seq : Nat)
  | loaded (md asid kernel : Nat)
  | members (group : Nat)
  | hostRead (md offset : Nat)
  | hostTrain (md width rate : Nat)
deriving DecidableEq, Repr

namespace Config

/-- Who moves at a tick when the agenda names no one (R11: the order of agents is not fixed). DESIGN CHOICE, unsafe (log entry 1). -/
opaque schedule : Nat → SeqId

/-- Nanoseconds that pass before the step of a tick. DESIGN CHOICE, unsafe (log entry 1). DESIGN CHOICE, safe (log entry 72). -/
opaque elapsed : Nat → Nat

/-- The result of a dot product under profile 0, whose order, grouping and alignment are open (R68), by its number of products: the
points (accumulator and products, each as m·2^e) at which the result reaches the `f32` value of a code. Every result that R68
allows is described by such a list. DESIGN CHOICE, safe (log entry 6). -/
opaque openDot : Nat → List (List (Int × Int) × Nat)

/-- The operands that R62, R82 and R128 give no value in format `e8m0`: 0x71, the immediate and the coordinates, by
operand code and value. DESIGN CHOICE, safe (log entry 7). -/
opaque e8m0Source : Nat → Int → Nat

/-- The noise word of an element whose re-run under R113 needs one while its map gives none, by the source code it quantises. DESIGN CHOICE, safe (log entry 8). -/
opaque freeNoise : Nat → Nat → Nat

/-- Which of the generations that R110 allows a quantisation uses, by tick. DEDUCED, unsafe (log entry 83). -/
opaque generation : Nat → Nat

/-- The payload of a TTLAUNCH or TTLATE event, which R343 and R346 do not state, by kind and slot. DESIGN CHOICE, safe (log entry 9). -/
opaque ttPayload : Nat → Nat → Nat

/-- The four bits that LNKST gives for a host link rate that does not fit them (R412). DESIGN CHOICE, safe (log entry 10). -/
opaque hostRate : Nat → Nat

/-- The pod configuration that the host supplies (R400): the peer module and port of each port of each module. DESIGN CHOICE, safe (log entry 12). -/
opaque topology : Nat → Nat → Option (Nat × Nat)

/-- The time master that the pod configuration names (R407). DESIGN CHOICE, safe (log entry 12). -/
opaque timeMaster : Nat

/-- The power a module draws, in the units of READ_POWER (R441). DESIGN CHOICE, safe (log entry 13). -/
opaque powerDraw : Nat → Nat

/-- Modulus and exponent of an RSA public key, whose encoding as bytes is not stated (R271). DESIGN CHOICE, safe (log entry 14). -/
opaque rsaPublic : List Byte → Nat × Nat

/-- The bytes of an RSA public key of a modulus and an exponent, whose encoding is not stated (R271). DESIGN CHOICE, safe (log entry 14). -/
opaque rsaBytes : Nat → Nat → List Byte

/-- What a module's RSA device key is made from: modulus, public and private exponent (R444). DESIGN CHOICE, safe (log entry 14). -/
opaque rsaSecret : Nat → Nat × Nat × Nat

/-- The three secret strings of a module's SLH-DSA device key (R444). DESIGN CHOICE, safe (log entry 14). -/
opaque slhSecret : Nat → Nat → List Byte

/-- The random strings of a signature, by tick: the salt, and the string that SLH-DSA adds. DESIGN CHOICE, safe (log entry 14). -/
opaque signRandom : Nat → List Byte × List Byte

/-- The two vendor root keys whose digests the boot ROM holds (R440). DESIGN CHOICE, safe (log entry 14). -/
opaque romKeys : List (List Byte)

/-- The key list in the body of a firmware image, whose place there is not stated (R440). DESIGN CHOICE, safe (log entry 14). -/
opaque firmwareKeys : List Byte → List (List Byte)

/-- What a basin publishes of a line of `w` whose error its read finds, which no rule gives (R392, R428), by tick and address. DESIGN CHOICE,
safe (log entry 96). -/
opaque lostLine : Nat → Nat → Nat

/-- CODE and PAYLOAD of a THERMAL or REPAIR event, which R439 and R442 do not state, by kind and tick. DESIGN CHOICE, safe (log entry 11). -/
opaque eventCode : Nat → Nat → Nat
/-- DESIGN CHOICE, safe (log entry 11). -/
opaque eventPayload : Nat → Nat → Nat

/-- Where the loader would place the image of a kernel in virtual space (R272), by the kernel's id. DESIGN CHOICE, safe (log entry 15). -/
opaque imagePlace : Nat → Nat

end Config
end Sys2Proof
end

