-- ==== Sys2Proof/Machine/Bits.lean ====
section
/-! DEFINITION. Bit fields, sign extension, byte order, bounded loops and the sparse map that every register
file and every table of units is kept in. Lists and natural numbers only, so that Lean's kernel evaluates all of it. -/

namespace Sys2Proof.Machine

open Sys2Proof

/-- Bits [lo+len-1 : lo] of a number (R14: bit 0 is the least significant). -/
def field (x lo len : Nat) : Nat := (x >>> lo) % 2 ^ len

/-- Bit `i` of a number. -/
def bitAt (x i : Nat) : Bool := (x >>> i) % 2 == 1

/-- `x` read as a two's-complement number of `w` bits. -/
def signed (w x : Nat) : Int :=
  let y := x % 2 ^ w
  if y < 2 ^ (w - 1) then (y : Int) else (y : Int) - (2 ^ w : Nat)

/-- An integer reduced modulo 2^w to a natural number. -/
def wrapNat (w : Nat) (x : Int) : Nat := (x % ((2 ^ w : Nat) : Int)).toNat

/-- `wrap32` of R75: an exact integer reduced into the signed 32-bit range. -/
def wrap32 (x : Int) : Int := signed 32 (wrapNat 32 x)

/-- The word of 64 bits holding an integer modulo 2^64. -/
def toWord (x : Int) : Word := BitVec.ofNat 64 (wrapNat 64 x)

/-- `sext16` of R149. -/
def sext16 (x : BitVec 16) : Word := x.signExtend 64

/-- `zext16` of R149. -/
def zext16 (x : BitVec 16) : Word := x.setWidth 64

/-- Little-endian number of a list of bytes: the byte at the lowest address holds bits [7:0] (R43). -/
def leNat : List Byte → Nat
  | [] => 0
  | b :: bs => b.toNat + 256 * leNat bs

/-- The `n` bytes of a number, lowest address first (R43). -/
def leBytes : Nat → Nat → List Byte
  | 0, _ => []
  | n + 1, x => BitVec.ofNat 8 x :: leBytes n (x / 256)

/-- The addresses a, a+1, …, a+n-1. -/
def span (a : Nat) : Nat → List Nat
  | 0 => []
  | n + 1 => a :: span (a + 1) n

/-- A sparse map from numbers to values, sorted by key; a key that is not listed holds the default value. -/
abbrev SMap (α : Type) := List (Nat × α)

/-- The value at a key, or `d` where the key is not listed. -/
def sget {α : Type} (d : α) : SMap α → Nat → α
  | [], _ => d
  | (k, v) :: m, i => if i = k then v else sget d m i

/-- The map with the value at one key replaced. -/
def sset {α : Type} : SMap α → Nat → α → SMap α
  | [], i, x => [(i, x)]
  | (k, v) :: m, i, x =>
    if i = k then (i, x) :: m else if i < k then (i, x) :: (k, v) :: m else (k, v) :: sset m i x

/-- The map without one key. -/
def sdel {α : Type} (m : SMap α) (i : Nat) : SMap α := m.filter fun p => p.1 != i

/-- The value at a key, if it is listed. -/
def sfind {α : Type} : SMap α → Nat → Option α
  | [], _ => none
  | (k, v) :: m, i => if i = k then some v else sfind m i

/-- Run `f` for i = 0, …, n-1. -/
def forN {σ : Type} (n : Nat) (s : σ) (f : σ → Nat → σ) : σ := (List.range n).foldl f s

/-- The first element of a list for which `f` gives a value. -/
def firstSome {α β : Type} (f : α → Option β) : List α → Option β
  | [] => none
  | x :: xs => match f x with
    | some y => some y
    | none => firstSome f xs

/-- Four values, one per axis of a coordinate (R72). -/
structure Q4 (α : Type) where
  c0 : α
  c1 : α
  c2 : α
  c3 : α
deriving DecidableEq, Repr

/-- The value on axis `d`. -/
def Q4.get {α : Type} (q : Q4 α) : Nat → α
  | 0 => q.c0
  | 1 => q.c1
  | 2 => q.c2
  | _ => q.c3

/-- The four values given axis by axis. -/
def Q4.mk' {α : Type} (f : Nat → α) : Q4 α := ⟨f 0, f 1, f 2, f 3⟩

/-- The same value on every axis. -/
def Q4.all {α : Type} (x : α) : Q4 α := ⟨x, x, x, x⟩

/-- Replace the value on axis `d`. -/
def Q4.set {α : Type} (q : Q4 α) (d : Nat) (x : α) : Q4 α :=
  Q4.mk' fun i => if i = d then x else q.get i

/-- ceil(a / b). -/
def ceilDiv (a b : Nat) : Nat := (a + b - 1) / b

/-- log2 of a positive number of an integer, rounded up to a bit length. -/
def bitLen (x : Nat) : Nat := if x = 0 then 0 else x.log2 + 1

end Sys2Proof.Machine
end

