-- ==== Sys2Proof/Machine/Num.lean ====
section
/-! DEFINITION. Number formats, exact values, rounding and conversion (spec 02_numbers.md, R43 to R63, R69).
A finite value is kept exactly: a sign and a magnitude m·2^e. A result that no such pair can hold (a quotient, a root,
a special function) is kept as m·2^e with the mark `st`: the magnitude lies strictly between m·2^e and (m+1)·2^e,
with m long enough that every rounding decision of R52 and R55 falls on a multiple of 2^e. -/

namespace Sys2Proof.Machine

open Sys2Proof

/-- The element formats of R43 and R44. `b8 n u f`: binary8 of precision n, unsigned when u, finite when f. -/
inductive Fmt where
  | f32 | bf16 | f16 | i32 | i16 | i8 | u8 | e8m0
  | b8 (n : Nat) (u f : Bool)
deriving DecidableEq, Repr

/-- The format of a 6-bit code; none for a reserved code (R44). -/
def fmtOfCode (c : Nat) : Option Fmt :=
  match c with
  | 0 => some .f32
  | 1 => some .bf16
  | 2 => some .f16
  | 3 => some .i32
  | 4 => some .i16
  | 5 => some .i8
  | 6 => some .u8
  | 7 => some .e8m0
  | _ => if c / 32 = 1 ∧ c % 8 ≠ 0 ∧ c < 64 then some (.b8 (c % 8) (bitAt c 4) (bitAt c 3)) else none

/-- The code of a format (R44). -/
def Fmt.code : Fmt → Nat
  | .f32 => 0 | .bf16 => 1 | .f16 => 2 | .i32 => 3 | .i16 => 4 | .i8 => 5 | .u8 => 6 | .e8m0 => 7
  | .b8 n u f => 32 + (if u then 16 else 0) + (if f then 8 else 0) + n

/-- Width in bits (R43). -/
def Fmt.width : Fmt → Nat
  | .f32 | .i32 => 32
  | .bf16 | .f16 | .i16 => 16
  | _ => 8

def Fmt.isInt : Fmt → Bool
  | .i32 | .i16 | .i8 | .u8 => true
  | _ => false

/-- "float" of R197: f32, bf16, f16 and every binary8 format. -/
def Fmt.isFloat : Fmt → Bool
  | .f32 | .bf16 | .f16 | .b8 _ _ _ => true
  | _ => false

def Fmt.isB8 : Fmt → Bool
  | .b8 _ _ _ => true
  | _ => false

def Fmt.isIeee : Fmt → Bool
  | .f32 | .bf16 | .f16 => true
  | _ => false

def Fmt.isSignedInt : Fmt → Bool
  | .i32 | .i16 | .i8 => true
  | _ => false

def Fmt.isUnsignedB8 : Fmt → Bool
  | .b8 _ u _ => u
  | _ => false

/-- Elements of a 2048-bit register (R43). -/
def Fmt.count (f : Fmt) : Nat := 2048 / f.width

/-- The binary8 format index of R99. -/
def Fmt.b8Index : Fmt → Nat
  | .b8 n u f => 4 * (n - 1) + (if u then 2 else 0) + (if f then 1 else 0)
  | _ => 0

/-- Precision counting the implicit bit (R45, R49). -/
def Fmt.prec : Fmt → Nat
  | .f32 => 24 | .bf16 => 8 | .f16 => 11
  | .b8 n _ _ => n
  | _ => 1

/-- Exponent bias (R45, R49). -/
def Fmt.bias : Fmt → Int
  | .f32 => 127 | .bf16 => 127 | .f16 => 15
  | .b8 n u _ => if u then 2 ^ (8 - n) else 2 ^ (7 - n)
  | _ => 0

/-- A value: NaN (signalling or quiet), infinity, or a finite number (sign, m, e, st) as the file header says. -/
inductive Val where
  | nan (sig : Bool)
  | inf (neg : Bool)
  | num (neg : Bool) (m : Nat) (e : Int) (st : Bool)
deriving DecidableEq, Repr

/-- Sticky flags of the X status word, in the layout of R59. -/
def fNV : Nat := 1
def fDZ : Nat := 2
def fOF : Nat := 4
def fUF : Nat := 8
def fNX : Nat := 16
def fSAT : Nat := 32

def Val.zero (neg : Bool) : Val := .num neg 0 0 false

def Val.isNan : Val → Bool
  | .nan _ => true
  | _ => false

def Val.isSnan : Val → Bool
  | .nan s => s
  | _ => false

def Val.isInf : Val → Bool
  | .inf _ => true
  | _ => false

def Val.isZero : Val → Bool
  | .num _ m _ st => m == 0 && !st
  | _ => false

def Val.isNeg : Val → Bool
  | .nan _ => false
  | .inf n => n
  | .num n _ _ _ => n

def Val.neg : Val → Val
  | .nan s => .nan s
  | .inf n => .inf (!n)
  | .num n m e st => .num (!n) m e st

def Val.abs : Val → Val
  | .nan s => .nan s
  | .inf _ => .inf false
  | .num _ m e st => .num false m e st

/-- An integer as a value. -/
def Val.ofInt (x : Int) : Val := .num (decide (x < 0)) x.natAbs 0 false

/-- x·2^k, exact. -/
def Val.scale (v : Val) (k : Int) : Val :=
  match v with
  | .num n m e st => .num n m (e + k) st
  | v => v

/-- Decode an IEEE layout with `eb` exponent bits and `tb` trailing bits (R45, R46). -/
def decodeIeee (eb tb : Nat) (c : Nat) : Val :=
  let neg := bitAt c (eb + tb)
  let E := field c tb eb
  let T := field c 0 tb
  let bias : Int := 2 ^ (eb - 1) - 1
  if E = 2 ^ eb - 1 then
    if T = 0 then .inf neg else .nan (!(bitAt c (tb - 1)))
  else if E = 0 then .num neg T (1 - bias - tb) false
  else .num neg (2 ^ tb + T) (E - bias - tb) false

/-- Decode a binary8 code (R49). -/
def decodeB8 (n : Nat) (u fin : Bool) (c : Nat) : Val :=
  let eb := if u then 9 - n else 8 - n
  let b : Int := if u then 2 ^ (8 - n) else 2 ^ (7 - n)
  let neg := !u && bitAt c 7
  let body := if u then c else c % 128
  let E := body / 2 ^ (n - 1)
  let T := body % 2 ^ (n - 1)
  let plain : Val :=
    if E = 0 then .num neg T (1 - b - ((n : Int) - 1)) false
    else .num neg (2 ^ (n - 1) + T) ((E : Int) - b - ((n : Int) - 1)) false
  if eb = 0 then plain
  else if u then
    if c = 255 then .nan false else if c = 254 ∧ !fin then .inf false else plain
  else
    if c = 128 then .nan false
    else if c % 128 = 127 ∧ !fin then .inf neg else plain

/-- The exact value of an element code (R45, R49, R48; e8m0 as R69). -/
def decode (f : Fmt) (c : Nat) : Val :=
  match f with
  | .f32 => decodeIeee 8 23 c
  | .bf16 => decodeIeee 8 7 c
  | .f16 => decodeIeee 5 10 c
  | .i32 => .ofInt (signed 32 c)
  | .i16 => .ofInt (signed 16 c)
  | .i8 => .ofInt (signed 8 c)
  | .u8 => .ofInt ((c % 256 : Nat) : Int)
  | .e8m0 => if c % 256 = 255 then .nan false else .num false 1 ((c % 256 : Nat) - 127) false
  | .b8 n u fin => decodeB8 n u fin (c % 256)

/-- Canonical NaN code (R45, R49). Formats without a NaN give 0. -/
def nanCode : Fmt → Nat
  | .f32 => 0x7FC00000 | .bf16 => 0x7FC0 | .f16 => 0x7E00
  | .b8 _ u _ => if u then 255 else 128
  | _ => 0

/-- Does the format have infinities. -/
def Fmt.hasInf : Fmt → Bool
  | .f32 | .bf16 | .f16 => true
  | .b8 _ _ fin => !fin
  | _ => false

/-- Code of ±∞ (R45, R49). -/
def infCode (f : Fmt) (neg : Bool) : Nat :=
  match f with
  | .f32 => if neg then 0xFF800000 else 0x7F800000
  | .bf16 => if neg then 0xFF80 else 0x7F80
  | .f16 => if neg then 0xFC00 else 0x7C00
  | .b8 _ u _ => if u then 254 else if neg then 255 else 127
  | _ => 0

/-- Code of ±max finite (R45, R50). -/
def maxFinCode (f : Fmt) (neg : Bool) : Nat :=
  match f with
  | .f32 => if neg then 0xFF7FFFFF else 0x7F7FFFFF
  | .bf16 => if neg then 0xFF7F else 0x7F7F
  | .f16 => if neg then 0xFBFF else 0x7BFF
  | .b8 _ u fin =>
    if u then (if fin then 254 else 253)
    else (if fin then 127 else 126) + (if neg then 128 else 0)
  | _ => 0

/-- Exponent of min normal, 1 − b (R45, R49). -/
def Fmt.emin (f : Fmt) : Int := 1 - f.bias

/-- Exponent of the smallest positive value (R50: for N = 1 it equals min normal). -/
def Fmt.esub (f : Fmt) : Int := f.emin - ((f.prec : Int) - 1)

/-- Code of a finite value ±m·2^e that the format represents (R45, R49). A zero keeps its sign where the format has one. -/
def codeOf (f : Fmt) (neg : Bool) (m : Nat) (e : Int) : Nat :=
  let p := f.prec
  let sgn := match f with
    | .f32 => if neg then 2 ^ 31 else 0
    | .bf16 | .f16 => if neg then 2 ^ 15 else 0
    | .b8 _ u _ => if neg && !u then 128 else 0
    | _ => 0
  if m = 0 then (if f.isB8 then 0 else sgn)
  else
    let fl : Int := (m.log2 : Int) + e
    if fl < f.emin then sgn + (m * 2 ^ (e - f.esub).toNat / 2 ^ (f.esub - e).toNat)
    else
      let E := (fl + f.bias).toNat
      -- the trailing field: m·2^e scaled so that the implicit bit stands at p − 1
      let qe : Int := fl - ((p : Int) - 1)
      let sig := m * 2 ^ (e - qe).toNat / 2 ^ (qe - e).toNat
      sgn + E * 2 ^ (p - 1) + (sig - 2 ^ (p - 1))

/-- Rounding modes of R51. -/
inductive Rm where
  | rne | rz | sr
deriving DecidableEq, Repr

/-- The mode of an RM field; none for 0b11 (R51). -/
def rmOf (x : Nat) : Option Rm :=
  match x with
  | 0 => some .rne
  | 1 => some .rz
  | 2 => some .sr
  | _ => none

/-- The result of `roundUnbounded`: a count of quanta, the quantum's exponent, and whether the result differs from x. -/
structure Rounded where
  m : Nat
  qe : Int
  inexact : Bool
deriving DecidableEq, Repr

/-- `round_unbounded` of R52 on the magnitude (m, e, st): precision p, exponent of min normal emin, bias b. -/
def roundUnbounded (f : Fmt) (m : Nat) (e : Int) (st : Bool) (mode : Rm) (u : Nat) : Rounded :=
  let p : Int := f.prec
  if m = 0 then { m := 0, qe := f.esub, inexact := st }
  else
    let fl : Int := (m.log2 : Int) + e
    let qe : Int := max fl f.emin - (p - 1)
    if qe ≤ e then { m := m * 2 ^ (e - qe).toNat, qe := qe, inexact := st }
    else
      let sh := (qe - e).toNat
      let lo := m / 2 ^ sh
      let rem := m % 2 ^ sh
      let half := 2 ^ (sh - 1)
      if rem = 0 ∧ !st then { m := lo, qe := qe, inexact := false }
      else
        let loEven := if f.prec = 1 then (lo = 0 ∨ (fl + f.bias) % 2 = 0) else lo % 2 = 0
        let up := match mode with
          | .rz => false
          | .rne =>
            if rem = half ∧ !st then decide (¬ loEven)
            else decide (rem > half ∨ rem = half)
          | .sr => if st then decide (u * 2 ^ sh ≤ rem * 2 ^ 32) else decide (u * 2 ^ sh < rem * 2 ^ 32)
        { m := if up then lo + 1 else lo, qe := qe, inexact := true }

/-- Compare two magnitudes m·2^e exactly. -/
def magLt (m1 : Nat) (e1 : Int) (m2 : Nat) (e2 : Int) : Bool :=
  let e := min e1 e2
  decide (m1 * 2 ^ (e1 - e).toNat < m2 * 2 ^ (e2 - e).toNat)

/-- The magnitude (m, e, st) lies below 2^k. -/
def magBelowPow (m : Nat) (e : Int) (k : Int) : Bool := m = 0 || decide ((m.log2 : Int) + e < k)

/-- Max finite as a magnitude. -/
def maxFinMag (f : Fmt) : Nat × Int :=
  match decode f (maxFinCode f false) with
  | .num _ m e _ => (m, e)
  | _ => (0, 0)

/-- The underflow rule of R55 applies: a nonzero magnitude below min subnormal of a binary8 format. -/
def b8Underflows (f : Fmt) (m : Nat) (e : Int) (st : Bool) : Bool :=
  (m != 0 || st) && magBelowPow m e f.esub

/-- u·minsub < |x|·2^32 (R55). -/
def underflowUp (f : Fmt) (m : Nat) (e : Int) (st : Bool) (u : Nat) : Bool :=
  -- u·2^esub < m·2^e·2^32, with the strict gap of st
  let k := min f.esub (e + 32)
  let l := u * 2 ^ (f.esub - k).toNat
  let r := m * 2 ^ (e + 32 - k).toNat
  if st then decide (l ≤ r) else decide (l < r)

/-- `convert_b8` of R55. -/
def convertB8 (f : Fmt) (x : Val) (mode : Rm) (ovf : Bool) (u : Nat) : Nat × Nat :=
  match x with
  | .nan s => (nanCode f, if s then fNV else 0)
  | .inf neg =>
    if f.isUnsignedB8 && neg then
      if ovf then (nanCode f, fNV) else (0, fSAT ||| fNX)
    else if f.hasInf then (infCode f neg, 0)
    else if ovf then (nanCode f, fNV)
    else (maxFinCode f neg, fSAT)
  | .num neg m e st =>
    if m = 0 ∧ !st then (0, 0)
    else if f.isUnsignedB8 && neg then (0, fSAT ||| fNX)
    else if b8Underflows f m e st then
      if underflowUp f m e st u then (codeOf f neg 1 f.esub, fUF ||| fNX) else (0, fUF ||| fNX)
    else
      let r := roundUnbounded f m e st mode u
      let nx := if r.inexact then
          fNX ||| (if magBelowPow r.m r.qe f.emin || magBelowPow m e f.emin then fUF else 0)
        else 0
      let mx := maxFinMag f
      if magLt mx.1 mx.2 r.m r.qe then
        if !ovf then (maxFinCode f neg, nx ||| fOF ||| fSAT)
        else if f.hasInf then (infCode f neg, nx ||| fOF)
        else (nanCode f, nx ||| fOF ||| fNV)
      else (codeOf f neg r.m r.qe, nx)

/-- Conversion to f32, f16 or bf16 (R56). -/
def convertIeee (f : Fmt) (x : Val) (mode : Rm) (u : Nat) : Nat × Nat :=
  match x with
  | .nan s => (nanCode f, if s then fNV else 0)
  | .inf neg => (infCode f neg, 0)
  | .num neg m e st =>
    if m = 0 ∧ !st then (codeOf f neg 0 0, 0)
    else
      let r := roundUnbounded f m e st mode u
      let mx := maxFinMag f
      if magLt mx.1 mx.2 r.m r.qe then
        match mode with
        | .rz => (maxFinCode f neg, fOF ||| fNX)
        | _ => (infCode f neg, fOF ||| fNX)
      else
        (codeOf f neg r.m r.qe,
          if r.inexact then fNX ||| (if magBelowPow m e f.emin then fUF else 0) else 0)

/-- The range of an integer format (R48). -/
def intRange (f : Fmt) : Int × Int :=
  match f with
  | .i32 => (-(2 ^ 31), 2 ^ 31 - 1)
  | .i16 => (-(2 ^ 15), 2 ^ 15 - 1)
  | .i8 => (-128, 127)
  | _ => (0, 255)

/-- A magnitude rounded to an integer by :rne or :rz; the flag says whether it changed. -/
def roundInt (m : Nat) (e : Int) (st : Bool) (mode : Rm) : Nat × Bool :=
  if 0 ≤ e then (m * 2 ^ e.toNat, st)
  else
    let sh := (-e).toNat
    let lo := m / 2 ^ sh
    let rem := m % 2 ^ sh
    let half := 2 ^ (sh - 1)
    if rem = 0 ∧ !st then (lo, false)
    else
      let up := match mode with
        | .rz => false
        | _ => if rem = half ∧ !st then decide (lo % 2 = 1) else decide (rem ≥ half)
      (if up then lo + 1 else lo, true)

/-- Conversion of a floating value to an integer format (R57). -/
def convertInt (f : Fmt) (x : Val) (mode : Rm) : Nat × Nat :=
  let r := intRange f
  match x with
  | .nan _ => (0, fNV)
  | .inf neg => (wrapNat f.width (if neg then r.1 else r.2), fNV)
  | .num neg m e st =>
    let (n, nx) := roundInt m e st mode
    let v : Int := if neg then -(n : Int) else n
    if v < r.1 then (wrapNat f.width r.1, fSAT ||| fNX)
    else if v > r.2 then (wrapNat f.width r.2, fSAT ||| fNX)
    else (wrapNat f.width v, if nx then fNX else 0)

/-- Clamping of R48: the clamped value's code, and SAT when it clamped. -/
def clampInt (f : Fmt) (x : Int) : Nat × Nat :=
  let r := intRange f
  if x < r.1 then (wrapNat f.width r.1, fSAT)
  else if x > r.2 then (wrapNat f.width r.2, fSAT)
  else (wrapNat f.width x, 0)

/-- `convert(f, x, mode, ovf, u)` of R55 to R57 for a floating or binary8 target, and for a float to integer. -/
def convert (f : Fmt) (x : Val) (mode : Rm) (ovf : Bool) (u : Nat) : Nat × Nat :=
  if f.isB8 then convertB8 f x mode ovf u
  else if f.isIeee then convertIeee f x mode u
  else convertInt f x mode

/-- The element needs a noise word (R53): rounded stochastically and inexact, or under the binary8 underflow rule. -/
def needsNoise (f : Fmt) (x : Val) (mode : Rm) : Bool :=
  match x with
  | .num neg m e st =>
    if m = 0 ∧ !st then false
    else if f.isB8 && f.isUnsignedB8 && neg then false
    else if f.isB8 && b8Underflows f m e st then true
    else f.isFloat && mode == .sr && (roundUnbounded f m e st .rz 0).inexact
  | _ => false

/-- The value of an integer code under its format's signedness (R197). -/
def intVal (f : Fmt) (c : Nat) : Int :=
  match f with
  | .u8 => ((c % 256 : Nat) : Int)
  | f => signed f.width c

-- Exact arithmetic ------------------------------------------------------------------------------------------

/-- An exact product; 0·∞ gives a NaN and NV, a signalling NaN raises NV (R47, R61). -/
def mulV (a b : Val) : Val × Nat :=
  match a, b with
  | .nan s, y => (.nan false, if s || y.isSnan then fNV else 0)
  | _, .nan s => (.nan false, if s then fNV else 0)
  | .inf n, y => if y.isZero then (.nan false, fNV) else (.inf (n != y.isNeg), 0)
  | x, .inf n => if x.isZero then (.nan false, fNV) else (.inf (n != x.isNeg), 0)
  | .num n1 m1 e1 _, .num n2 m2 e2 _ => (.num (n1 != n2) (m1 * m2) (e1 + e2) false, 0)

/-- Signed mantissa. -/
def sm (neg : Bool) (m : Nat) : Int := if neg then -(m : Int) else m

/-- An exact sum; ∞ − ∞ gives a NaN and NV. A zero sum of two negative zeros is −0, any other zero sum is +0 (IEEE 754,
round to nearest and toward zero). -/
def addV (a b : Val) : Val × Nat :=
  match a, b with
  | .nan s, y => (.nan false, if s || y.isSnan then fNV else 0)
  | _, .nan s => (.nan false, if s then fNV else 0)
  | .inf n, .inf n' => if n = n' then (.inf n, 0) else (.nan false, fNV)
  | .inf n, _ => (.inf n, 0)
  | _, .inf n => (.inf n, 0)
  | .num n1 m1 e1 _, .num n2 m2 e2 _ =>
    if m1 = 0 ∧ m2 = 0 then (.zero (n1 && n2), 0)
    else
      let e := min e1 e2
      let s := sm n1 m1 * 2 ^ (e1 - e).toNat + sm n2 m2 * 2 ^ (e2 - e).toNat
      if s = 0 then (.zero false, 0) else (.num (decide (s < 0)) s.natAbs e false, 0)

/-- Compare two numbers (not NaN): is a < b, with −0 equal to +0. -/
def ltV (a b : Val) : Bool :=
  match a, b with
  | .nan _, _ => false
  | _, .nan _ => false
  | .inf n, .inf n' => n && !n'
  | .inf n, _ => n
  | _, .inf n => !n
  | .num n1 m1 e1 _, .num n2 m2 e2 _ =>
    let e := min e1 e2
    decide (sm n1 m1 * 2 ^ (e1 - e).toNat < sm n2 m2 * 2 ^ (e2 - e).toNat)

/-- Equality of two numbers (not NaN), −0 equal to +0. -/
def eqV (a b : Val) : Bool :=
  !a.isNan && !b.isNan && !ltV a b && !ltV b a

/-- Quotient bits kept beyond the divisor's length. -/
def divBits : Nat := 256

/-- A quotient (R202): x/0, 0/0 and ∞/∞ as IEEE 754. -/
def divV (a b : Val) : Val × Nat :=
  match a, b with
  | .nan s, y => (.nan false, if s || y.isSnan then fNV else 0)
  | _, .nan s => (.nan false, if s then fNV else 0)
  | .inf _, .inf _ => (.nan false, fNV)
  | .inf n, y => (.inf (n != y.isNeg), 0)
  | x, .inf n => (.zero (x.isNeg != n), 0)
  | .num n1 m1 e1 _, .num n2 m2 e2 _ =>
    if m2 = 0 then
      if m1 = 0 then (.nan false, fNV) else (.inf (n1 != n2), fDZ)
    else if m1 = 0 then (.zero (n1 != n2), 0)
    else
      let k := divBits + bitLen m2
      let n := m1 * 2 ^ k
      (.num (n1 != n2) (n / m2) (e1 - e2 - k) (n % m2 != 0), 0)

/-- Integer square root of a number of at most 2·`k` bits, bit by bit from the top. -/
def isqrt (k n : Nat) : Nat :=
  (List.range k).foldl (fun r i =>
    let c := r + 2 ^ (k - 1 - i)
    if c * c ≤ n then c else r) 0

/-- √(m·2^e) of a positive magnitude, as (m', e', st). -/
def sqrtMag (m : Nat) (e : Int) : Nat × Int × Bool :=
  let (m1, e1) := if e % 2 = 0 then (m, e) else (m * 2, e - 1)
  let n := m1 * 2 ^ 512
  let r := isqrt (bitLen n / 2 + 1) n
  (r, e1 / 2 - 256, r * r != n)

/-- 1/√(m·2^e) of a positive magnitude. -/
def rsqrtMag (m : Nat) (e : Int) : Nat × Int × Bool :=
  let (m1, e1) := if e % 2 = 0 then (m, e) else (m * 2, e - 1)
  let k := 512 + 2 * bitLen m1
  let n := 2 ^ k
  let q := n / m1
  let r := isqrt (bitLen q / 2 + 1) q
  -- 1/√(m1·2^e1) = √(2^k/m1)·2^(−k/2)·2^(−e1/2)
  (r, -(e1 / 2) - ((k / 2 : Nat) : Int), r * r * m1 != n)

-- Transcendental functions, in fixed point of 512 fraction bits ----------------------------------------------

def fxBits : Nat := 512
def fxOne : Nat := 2 ^ fxBits

/-- atan(1/n) in fixed point. -/
def atanInv (n : Nat) : Int :=
  let r := (List.range 260).foldl (fun (acc : Int × Nat) i =>
    let t : Int := (acc.2 / (2 * i + 1) : Nat)
    (if i % 2 = 0 then acc.1 + t else acc.1 - t, acc.2 / (n * n))) ((0 : Int), fxOne / n)
  r.1

/-- π in fixed point, by Machin's formula. -/
def fxPi : Nat := (16 * atanInv 5 - 4 * atanInv 239).toNat

/-- ln 2 in fixed point: Σ 1/(k·2^k). -/
def fxLn2 : Nat := (List.range 520).foldl (fun a i => a + fxOne / ((i + 1) * 2 ^ (i + 1))) 0

/-- e^x for a fixed-point x in [0, 1). -/
def fxExp (x : Nat) : Nat :=
  ((List.range 110).foldl (fun (acc : Nat × Nat) i =>
    let t := acc.2 * x / fxOne / (i + 1)
    (acc.1 + t, t)) (fxOne, fxOne)).1

/-- ln x for a fixed-point x in [1, 2): 2·atanh((x−1)/(x+1)). -/
def fxLn (x : Nat) : Nat :=
  let z := (x - fxOne) * fxOne / (x + fxOne)
  let z2 := z * z / fxOne
  2 * ((List.range 170).foldl (fun (acc : Nat × Nat) i =>
    (acc.1 + acc.2 / (2 * i + 1), acc.2 * z2 / fxOne)) (0, z)).1

/-- sin x and cos x for a fixed-point x in [0, 1]. -/
def fxSin (x : Nat) : Int :=
  let x2 := x * x / fxOne
  ((List.range 60).foldl (fun (acc : Int × Nat) i =>
    let t := acc.2
    (if i % 2 = 0 then acc.1 + t else acc.1 - t, t * x2 / fxOne / ((2 * i + 2) * (2 * i + 3)))) ((0 : Int), x)).1

def fxCos (x : Nat) : Int :=
  let x2 := x * x / fxOne
  ((List.range 60).foldl (fun (acc : Int × Nat) i =>
    let t := acc.2
    (if i % 2 = 0 then acc.1 + t else acc.1 - t, t * x2 / fxOne / ((2 * i + 1) * (2 * i + 2)))) ((0 : Int), fxOne)).1

/-- A fixed-point magnitude of an irrational number, its 64 doubtful low bits dropped. -/
def ofFx (neg : Bool) (x : Nat) (k : Int) : Val := .num neg (x / 2 ^ 64) (k - ((fxBits : Int) - 64)) true

/-- 2^x for a finite x (R209). An integer x is exact. Exponents beyond ±5000 stand for every larger one: no format of
R43 tells them apart. -/
def exp2V (x : Val) : Val :=
  match x with
  | .num neg m e _ =>
    if m = 0 then .num false 1 0 false
    else if (m.log2 : Int) + e > 12 then .num false 1 (if neg then -5000 else 5000) true
    else if 0 ≤ e then
      let k : Int := (m * 2 ^ e.toNat : Nat)
      .num false 1 (if neg then -k else k) false
    else
      let sh := (-e).toNat
      let ip := m / 2 ^ sh
      let fp := m % 2 ^ sh
      if fp = 0 then .num false 1 (if neg then -(ip : Int) else ip) false
      else
        -- x = n + r with 0 < r < 1
        let n : Int := if neg then -(ip : Int) - 1 else ip
        let r := if neg then 2 ^ sh - fp else fp
        let rf := r * fxOne / 2 ^ sh
        -- a fraction finer than the fixed point leaves 1 + r·ln2, kept with its own exponent
        if rf < 2 ^ 200 then
          if neg then
            -- just below 2^(n+1)
            .num false (2 ^ 448 - 1) (n + 1 - 448) true
          else .num false (2 ^ 448) (n - 448) true
        else if neg && 2 ^ fxBits - rf < 2 ^ 200 then .num false (2 ^ 448 - 1) (n + 1 - 448) true
        else ofFx false (fxExp (rf * fxLn2 / fxOne)) n
  | v => v

/-- log2 x for a finite positive x (R209); a power of two is exact. -/
def log2V (m : Nat) (e : Int) : Val :=
  let k : Int := (m.log2 : Int) + e
  if m = 2 ^ m.log2 then .ofInt k
  else
    let f := m * fxOne / 2 ^ m.log2
    let l := fxLn f * fxOne / fxLn2
    let s : Int := k * (fxOne : Nat) + l
    if s < 0 then ofFx true s.natAbs 0 else ofFx false s.natAbs 0

/-- sin(π·p/q) for 0 ≤ p/q < 2, and cos(π·p/q): (sine, cosine), exact where they are rational (multiples of 1/6 and 1/2). -/
def sinCosPi (p q : Nat) : Val × Val :=
  -- quadrant reduction: p/q = j/2 + r, 0 ≤ r < 1/2
  let j := 2 * p / q
  let rp := 2 * p - j * q          -- r = rp/(2q)
  -- sin and cos of π·r, r in [0, 1/2)
  let half : Val := .num false 1 (-1) false
  let one : Val := .num false 1 0 false
  let sc : Val × Val :=
    if rp = 0 then (.zero false, one)
    else
      -- π·r with r = rp/(2q), mirrored to at most π/4
      let swap := decide (2 * rp > q)
      let tp := if swap then q - rp else rp
      let x := fxPi * tp / (2 * q)
      let s0 : Val := if 3 * tp = q then half else
        if x < 2 ^ 300 then
          -- a very small angle: π·r itself, with its own exponent
          .num false (fxPi * 2 ^ 512 * tp / (2 * q) / 2 ^ 64) (-(960 : Int)) true
        else ofFx false (fxSin x).natAbs 0
      let c0 : Val :=
        if x < 2 ^ 200 then .num false (2 ^ 448 - 1) (-448) true else ofFx false (fxCos x).natAbs 0
      -- r = 1/3 gives cosine 1/2; r = 1/6 gives sine 1/2
      if swap then (c0, s0) else (s0, c0)
  match j % 4 with
  | 0 => (sc.1, sc.2)
  | 1 => (sc.2, if sc.1.isZero then .zero false else sc.1.neg)
  | 2 => (if sc.1.isZero then .zero false else sc.1.neg, sc.2.neg)
  | _ => (sc.2.neg, sc.1)

/-- The six special functions of R209 and the square root, exact before the one rounding; flags of the special cases. -/
inductive Special where
  | sqrt | rcp | rsq | exp2 | log2 | sinp | cosp
deriving DecidableEq, Repr

/-- A finite number reduced modulo 2 as p/q with q a power of two (for sin(πa), cos(πa)); the sign applies to the sine. -/
def mod2 (m : Nat) (e : Int) : Nat × Nat :=
  if 1 ≤ e then (0, 1)
  else
    let q := 2 ^ (-e).toNat
    (m % (2 * q), q)

def specialV (g : Special) (a : Val) : Val × Nat :=
  match a with
  | .nan s => (.nan false, if s then fNV else 0)
  | .inf neg =>
    match g with
    | .sqrt => if neg then (.nan false, fNV) else (.inf false, 0)
    | .rcp => (.zero neg, 0)
    | .rsq => if neg then (.nan false, fNV) else (.zero false, 0)
    | .exp2 => if neg then (.zero false, 0) else (.inf false, 0)
    | .log2 => if neg then (.nan false, fNV) else (.inf false, 0)
    | .sinp | .cosp => (.nan false, fNV)
  | .num neg m e st =>
    if m = 0 then
      match g with
      | .sqrt => (.zero neg, 0)
      | .rcp => (.inf neg, fDZ)
      | .rsq => (.inf neg, fDZ)
      | .exp2 => (.num false 1 0 false, 0)
      | .log2 => (.inf true, fDZ)
      | .sinp => (.zero neg, 0)
      | .cosp => (.num false 1 0 false, 0)
    else
      match g with
      | .sqrt =>
        if neg then (.nan false, fNV)
        else let r := sqrtMag m e; (.num false r.1 r.2.1 r.2.2, 0)
      | .rcp => divV (.num false 1 0 false) (.num neg m e st)
      | .rsq =>
        if neg then (.nan false, fNV)
        else let r := rsqrtMag m e; (.num false r.1 r.2.1 r.2.2, 0)
      | .exp2 => (exp2V (.num neg m e st), 0)
      | .log2 => if neg then (.nan false, fNV) else (log2V m e, 0)
      | .sinp =>
        let (p, q) := mod2 m e
        let s := (sinCosPi p q).1
        (if s.isZero then .zero false else if neg then s.neg else s, 0)
      | .cosp =>
        let (p, q) := mod2 m e
        let c := (sinCosPi p q).2
        (if c.isZero then .zero false else c, 0)

-- Immediates, minimum and maximum ------------------------------------------------------------------------------

/-- A 16-bit immediate extended to an operand of format f (R62). Its table has no row for an ordinary number in `bf16`: that is IMM16's own
value. DEDUCED, unsafe (log entry 77). -/
def immCode (f : Fmt) (imm : Nat) : Nat :=
  let v := decodeIeee 8 7 imm
  match f with
  | .i32 => wrapNat 32 (signed 16 imm)
  | .i16 => imm % 65536
  | .i8 | .u8 | .e8m0 => imm % 256
  | f =>
    match v with
    | .nan _ => nanCode f
    | .inf neg =>
      if f.isUnsignedB8 && neg then 0
      else if f.hasInf then infCode f neg else maxFinCode f neg
    | .num neg m e st =>
      if f.isUnsignedB8 && neg then 0
      else if f.isB8 then
        let r := roundUnbounded f m e st .rne 0
        let mx := maxFinMag f
        if magLt mx.1 mx.2 r.m r.qe then maxFinCode f neg else codeOf f neg r.m r.qe
      else (convertIeee f v .rne 0).1

/-- An exact integer delivered as an operand of format f (R82): integers modulo 2^w, floats rounded by :rne, binary8
saturating and without the underflow rule; no flag. -/
def intOperand (f : Fmt) (x : Int) : Nat :=
  if f.isFloat then
    let v := Val.ofInt x
    match v with
    | .num neg m e st =>
      if f.isUnsignedB8 && neg then 0
      else if f.isB8 then
        let r := roundUnbounded f m e st .rne 0
        let mx := maxFinMag f
        if magLt mx.1 mx.2 r.m r.qe then maxFinCode f neg else codeOf f (neg && !(r.m == 0)) r.m r.qe
      else (convertIeee f v .rne 0).1
    | _ => 0
  else wrapNat f.width x

/-- VMIN, VMAX, VMINP, VMAXP on element codes (R63, R203): the chosen operand's code and NV. -/
def minMax (isMax prop : Bool) (f : Fmt) (a b : Nat) : Nat × Nat :=
  if f.isInt then
    let less := decide (intVal f a < intVal f b)
    (if less != isMax then a else b, 0)
  else
    let x := decode f a
    let y := decode f b
    if x.isNan || y.isNan then
      let sig := x.isSnan || y.isSnan
      if sig || (x.isNan && y.isNan) || prop then (nanCode f, if sig then fNV else 0)
      else (if x.isNan then b else a, 0)
    else
      let less := ltV x y || (!ltV y x && x.isNeg && !y.isNeg)
      (if less != isMax then a else b, 0)

end Sys2Proof.Machine
end

