-- ==== Sys2Proof/Machine/Maps.lean ====
section
/-! DEFINITION. Coordinate maps, their images and their classes, the keyed mixer and the twiddle generator
(spec 03_coordinate_maps.md, R72 to R94). -/

namespace Sys2Proof.Machine

open Sys2Proof

/-- The four modes of R73. -/
inductive MapMode where
  | none | affine | explicit | lost
deriving DecidableEq, Repr

/-- Element width of the positions a map describes (R72). -/
inductive Ew where
  | w32 | w16 | w8
deriving DecidableEq, Repr

def Ew.bits : Ew → Nat
  | .w32 => 32 | .w16 => 16 | .w8 => 8

def Ew.ofBits (w : Nat) : Ew := if w = 32 then .w32 else if w = 16 then .w16 else .w8

/-- A coordinate map (R72). `slot` means something only when the mode is EXPLICIT. -/
structure CMap where
  mode : MapMode
  tag  : BitVec 16
  lw   : BitVec 4
  slot : BitVec 3
  ew   : Ew
  base : Q4 (BitVec 32)
  rs   : Q4 (BitVec 16)
  qs   : Q4 (BitVec 16)
deriving DecidableEq, Repr

/-- The map of a holder never written with a map (R73): the reset image of R77. -/
def CMap.nil : CMap :=
  { mode := .none, tag := 0, lw := 0, slot := 0, ew := .w32, base := .all 0, rs := .all 0, qs := .all 0 }

/-- Coordinates of one element position, as 32-bit patterns (R78). -/
abbrev Coord := Q4 (BitVec 32)

/-- The void coordinate on every axis (R76). -/
def voidCoord : Coord := .all 0x80000000

/-- A map together with its explicit coordinates. `own` says that they stand in the holder itself (a queue entry, R78)
rather than in a shadow slot. -/
structure MapV where
  m   : CMap
  xs  : List Coord
  own : Bool
deriving DecidableEq, Repr

def MapV.nil : MapV := { m := .nil, xs := [], own := false }

/-- `coord` of R75; none stands for the trap MAP_LOST. -/
def coord (v : MapV) (e d : Nat) : Option Int :=
  match v.m.mode with
  | .affine =>
    let r := e >>> v.m.lw.toNat
    let q := e % 2 ^ v.m.lw.toNat
    some (wrap32 ((v.m.base.get d).toInt + r * (v.m.rs.get d).toInt + q * (v.m.qs.get d).toInt))
  | .explicit => some ((v.xs.getD e voidCoord).get d).toInt
  | _ => none

/-- `coord_at` of R75: the coordinate an operation of width w reads. -/
def coordAt (v : MapV) (e w d : Nat) : Option Int := coord v (e * w / v.m.ew.bits) d

/-- All four coordinates of a position, void where the map has none. -/
def coordAll (v : MapV) (e : Nat) : Coord :=
  Q4.mk' fun d => match coord v e d with
    | some x => BitVec.ofInt 32 x
    | none => 0x80000000

def coordAllAt (v : MapV) (e w : Nat) : Coord := coordAll v (e * w / v.m.ew.bits)

/-- A position is void when its coordinates are void on all axes, which only an EXPLICIT map has (R76). -/
def isVoid (v : MapV) (e : Nat) : Bool :=
  v.m.mode == .explicit && (v.xs.getD e voidCoord == voidCoord)

/-- A map that can deliver coordinates. -/
def MapV.known (v : MapV) : Bool :=
  match v.m.mode with
  | .affine | .explicit => true
  | _ => false

/-- What an instruction writes as its destination's map: a map as it stands (a shared slot included), or explicit
coordinates that take a new shadow slot in the write cycle (R79). -/
inductive MapOut where
  | keep (m : CMap)
  | fresh (m : CMap) (xs : List Coord)
deriving DecidableEq, Repr

/-- The map a result is known by before its write cycle: what R85 and R86 derive at issue (R53). -/
def MapOut.view (o : MapOut) (src : MapV) : MapV :=
  match o with
  | .keep m => { m := m, xs := src.xs, own := src.own }
  | .fresh m xs => { m := m, xs := xs, own := true }

/-- The map classes of R85, with their parameters. `gather` lists the source position of each destination position, or
none for void; `filled` is the KEEP of a narrowing VCVT or VQNT, whose coordinates the instruction states (R86, R207). -/
inductive MapClass where
  | keep
  | filled (xs : List Coord)
  | slice (off : Coord)
  | perm (p : Q4 Nat)
  | trans
  | reshape (lw : Nat)
  | redQ
  | redR
  | bcastE (y : Nat)
  | bcastRow (y : Nat)
  | bcastCol (z : Nat)
  | gather (idx : List (Option Nat))
deriving DecidableEq, Repr

/-- Does a signed number fit 16 bits. -/
def fits16 (x : Int) : Bool := decide (-32768 ≤ x) && decide (x ≤ 32767)

/-- Coordinates gathered from positions of a map; void copies as void (R86). -/
def gatherCoords (v : MapV) (idx : List (Option Nat)) : List Coord :=
  idx.map fun
    | some i => coordAll v i
    | none => voidCoord

/-- Apply f to a coordinate that is not void (R86). -/
def onCoord (f : Coord → Coord) (c : Coord) : Coord := if c = voidCoord then c else f c

/-- The destination map of R85 and R86 from the reference map `v`, for a destination of `n` positions of width `ew`. DEDUCED, unsafe (log
entry 76). -/
def destMap (cls : MapClass) (v : MapV) (ew : Ew) (n : Nat) : MapOut :=
  let m := { v.m with ew := ew }
  let L := v.m.lw.toNat
  let W : Nat := 2 ^ L
  let ex (lw : BitVec 4) (xs : List Coord) : MapOut :=
    .fresh { CMap.nil with mode := .explicit, tag := v.m.tag, lw := lw, ew := ew } xs
  let all : List Nat := List.range n
  match v.m.mode with
  | .none | .lost => .keep { CMap.nil with mode := v.m.mode, tag := v.m.tag, lw := v.m.lw, ew := ew }
  | .affine =>
    let m := { m with slot := 0 }
    match cls with
    | .keep | .filled _ => .keep m
    | .slice off => .keep { m with base := Q4.mk' fun d => m.base.get d + off.get d }
    | .perm p => .keep { m with
        base := Q4.mk' fun d => m.base.get (p.get d)
        rs := Q4.mk' fun d => m.rs.get (p.get d)
        qs := Q4.mk' fun d => m.qs.get (p.get d) }
    | .trans => .keep { m with lw := BitVec.ofNat 4 (n.log2 - L), rs := m.qs, qs := m.rs }
    | .reshape lw' =>
      let W' : Int := (2 ^ lw' : Nat)
      let ok := (List.range 4).all fun d =>
        decide ((m.rs.get d).toInt = (W : Int) * (m.qs.get d).toInt) && fits16 (W' * (m.qs.get d).toInt)
      if ok then .keep { m with
          lw := BitVec.ofNat 4 lw'
          rs := Q4.mk' fun d => BitVec.ofInt 16 (W' * (m.qs.get d).toInt) }
      else ex (BitVec.ofNat 4 lw') (gatherCoords v (all.map some))
    | .redQ => .keep { m with qs := .all 0 }
    | .redR => .keep { m with rs := .all 0 }
    | .bcastE y => .keep { m with base := coordAll v y, rs := .all 0, qs := .all 0 }
    | .bcastRow y => .keep { m with
        base := Q4.mk' fun d => m.base.get d + BitVec.ofInt 32 (y * (m.rs.get d).toInt), rs := .all 0 }
    | .bcastCol z => .keep { m with
        base := Q4.mk' fun d => m.base.get d + BitVec.ofInt 32 (z * (m.qs.get d).toInt), qs := .all 0 }
    | .gather idx => ex v.m.lw (gatherCoords v idx)
  | .explicit =>
    let share (lw : BitVec 4) : MapOut :=
      if v.own then .fresh { m with lw := lw, slot := 0 } (v.xs.take n) else .keep { m with lw := lw }
    match cls with
    | .keep => share v.m.lw
    | .filled xs => ex v.m.lw xs
    | .reshape lw' => share (BitVec.ofNat 4 lw')
    | .slice off => ex v.m.lw (all.map fun j => onCoord (fun c => Q4.mk' fun d => c.get d + off.get d) (coordAll v j))
    | .perm p => ex v.m.lw (all.map fun j => onCoord (fun c => Q4.mk' fun d => c.get (p.get d)) (coordAll v j))
    | .trans =>
      let L' := n.log2 - L
      ex (BitVec.ofNat 4 L') (all.map fun j => coordAll v ((j % 2 ^ L') * W + j / 2 ^ L'))
    | .redQ => ex v.m.lw (all.map fun j => coordAll v (j / W * W))
    | .redR => ex v.m.lw (all.map fun j => coordAll v (j % W))
    | .bcastE y => ex v.m.lw (all.map fun _ => coordAll v y)
    | .bcastRow y => ex v.m.lw (all.map fun j => coordAll v (y * W + j % W))
    | .bcastCol z => ex v.m.lw (all.map fun j => coordAll v (j / W * W + z))
    | .gather idx => ex v.m.lw (gatherCoords v idx)

-- Map images -----------------------------------------------------------------------------------------------------

/-- The nine words of a map image (R77, R213). -/
def imageOf (m : CMap) : List Nat :=
  let modeN := match m.mode with
    | .none => 0 | .affine => 1 | .explicit => 2 | .lost => 3
  let ewN := match m.ew with
    | .w32 => 0 | .w16 => 1 | .w8 => 2
  let slotN := if m.mode = .explicit then m.slot.toNat else 0
  let w0 := m.tag.toNat + m.lw.toNat * 2 ^ 16 + modeN * 2 ^ 20 + slotN * 2 ^ 22 + ewN * 2 ^ 25
  if m.mode = .affine then
    w0 :: ((List.range 4).map fun d => (m.base.get d).toNat)
      ++ (List.range 4).map fun d => (m.qs.get d).toNat * 2 ^ 16 + (m.rs.get d).toNat
  else [w0, 0, 0, 0, 0, 0, 0, 0, 0]

/-- The map an image gives, and whether the image was invalid (R77): `n` is the count of the holder class, with
`wide` for a w register or a tile. DEDUCED, unsafe (log entry 76). -/
def ofImage (w : List Nat) (wide : Option Nat) : CMap × Bool :=
  let w0 := w.getD 0 0
  let tag := BitVec.ofNat 16 w0
  let lw := field w0 16 4
  let ewN := field w0 25 2
  let ew : Ew := if ewN = 1 then .w16 else if ewN = 2 then .w8 else .w32
  let n := match wide with
    | some k => k
    | none => 2048 / ew.bits
  let modeN := field w0 20 2
  let valid := modeN != 2 && ewN != 3 && field w0 27 5 == 0 && decide (lw ≤ 8) && decide (2 ^ lw ≤ n)
    && (wide.isNone || ewN == 0)
  if !valid then ({ CMap.nil with mode := .lost, tag := tag }, true)
  else
    let mode : MapMode := if modeN = 1 then .affine else if modeN = 3 then .lost else .none
    let q (f : Nat → Nat) (k : Nat) : Q4 (BitVec k) := Q4.mk' fun d => BitVec.ofNat k (f d)
    ({ mode := mode, tag := tag, lw := BitVec.ofNat 4 lw, slot := 0, ew := ew
       base := q (fun d => w.getD (1 + d) 0) 32
       rs := q (fun d => w.getD (5 + d) 0 % 2 ^ 16) 16
       qs := q (fun d => w.getD (5 + d) 0 / 2 ^ 16) 16 }, false)

-- Functions of coordinates ------------------------------------------------------------------------------------------

/-- One turn of the mixer's loop (R91), the six words being x0, x1, x2, x3, k0, k1, k2. -/
def mixRound (s : Nat × Nat × Nat × Nat × Nat × Nat × Nat) : Nat × Nat × Nat × Nat × Nat × Nat × Nat :=
  match s with
  | (x0, x1, x2, x3, k0, k1, k2) =>
    let p := (x0 ^^^ k0) * 0xD2B74407
    let q := (x2 ^^^ k1) * 0xCA5A8263
    let rot := (k2 * 2 ^ 16) % 2 ^ 32 + k2 / 2 ^ 16
    ((q / 2 ^ 32) ^^^ x1 ^^^ k2, q % 2 ^ 32, (p / 2 ^ 32) ^^^ x3 ^^^ rot, p % 2 ^ 32,
      (k0 + 0x9E3779B9) % 2 ^ 32, (k1 + 0xBB67AE85) % 2 ^ 32, (k2 + 0x3C6EF372) % 2 ^ 32)

/-- `vhash` of R91. -/
def vhash (seed tag c0 c1 c2 c3 step : Nat) : Nat :=
  let r := mixRound (mixRound (mixRound (mixRound (c0, c1, c2, c3, seed, step, 0xA5C30000 ||| tag))))
  r.1 ^^^ r.2.1 ^^^ r.2.2.1 ^^^ r.2.2.2.1

/-- `vhash` of a position's coordinates under a map's tag (R53, R92). -/
def hashAt (seed step : Nat) (tag : BitVec 16) (c : Coord) : Nat :=
  vhash seed tag.toNat c.c0.toNat c.c1.toNat c.c2.toNat c.c3.toNat step

/-- The noise key: SEED and STEP of a 64-bit key word (R54). -/
def keySeed (key : Word) : Nat := key.toNat % 2 ^ 32
def keyStep (key : Word) : Nat := key.toNat / 2 ^ 32

/-- The noise word of element e under the destination map (R53); none is the trap MAP_LOST. -/
def noiseAt (key : Word) (v : MapV) (e : Nat) : Option Nat :=
  if v.known then some (hashAt (keySeed key) (keyStep key) v.m.tag (coordAll v e)) else none

/-- `twid` of R93, with the flags of its two conversions: (cosine, sine, flags). -/
def twid (a b : Int) (N : Nat) (f : Fmt) : Nat × Nat × Nat :=
  if N = 0 then (nanCode f, nanCode f, fNV)
  else
    let k := ((a * b) % (N : Int)).toNat
    let sc := sinCosPi (2 * k) N
    let co := convert f sc.2 .rne false 0
    let si := convert f sc.1 .rne false 0
    (co.1, si.1, co.2 ||| si.2)

/-- The six relations of R94 and R214; none for a reserved code. -/
def relHolds (rel : Nat) (s : Int) : Option Bool :=
  match rel with
  | 0 => some (decide (s < 0))
  | 1 => some (decide (s ≤ 0))
  | 2 => some (decide (s = 0))
  | 3 => some (decide (s ≠ 0))
  | 4 => some (decide (s ≥ 0))
  | 5 => some (decide (s > 0))
  | _ => none

/-- The sum of `coord_rel` (R94); none where an axis with a nonzero coefficient has no coordinate. -/
def coordSum (v : MapV) (e w : Nat) (al : Q4 Int) (imm : Int) : Option Int :=
  (List.range 4).foldl (fun acc d =>
    match acc with
    | none => none
    | some s => if al.get d = 0 then some s
      else match coordAt v e w d with
        | some c => some (s + al.get d * c)
        | none => none) (some imm)

/-- Two maps agree over n positions of width w: equal tags and equal coordinates (R87). Both are known. -/
def mapsAgree (a b : MapV) (n w : Nat) : Bool :=
  a.m.tag == b.m.tag && (List.range n).all fun e => (List.range 4).all fun d => coordAt a e w d == coordAt b e w d

end Sys2Proof.Machine
end

