-- ==== Sys2Proof/Machine/State.lean ====
section
/-! DEFINITION. The state of the machine: a pod of modules as plain data. Tables of units are sparse maps with a default,
so that every register of every unit that the spec names has a value. -/

namespace Sys2Proof.Machine

open Sys2Proof

-- Traps and sequencers -------------------------------------------------------------------------------------------------

/-- A trap about to be taken: its code (R314), and what it puts into ADDR and INFO (R313). DEDUCED, unsafe (log entry 18). -/
structure Trap where
  code : Nat
  addr : Nat := 0
  info : Nat := 0
deriving DecidableEq, Repr

/-- Where a sequencer stands (R121 to R124, R315). -/
inductive Pos where
  /-- continue at the next own slot after address `a` (R123) -/
  | next (a : Nat)
  /-- fetch the branch target `a`, named by the branch at `src` (R124) -/
  | target (a src : Nat)
  /-- resume at exactly the slot `a` (R315) -/
  | resume (a : Nat)
  /-- the slot at `a` is fetched and about to issue -/
  | at (a : Nat)
  /-- the stream has ended (R121) -/
  | ended
deriving DecidableEq, Repr

/-- What a stream is doing about a pre-emption (R321 to R324). -/
inductive Phase where
  | run
  /-- its save sequence runs up to address `stop`; it resumes at `res`, after a restore sequence from `back` up to `fin` -/
  | save (stop : Nat) (res : Pos) (back fin : Nat)
  /-- it has finished its save sequence -/
  | saved (res : Pos) (back fin : Nat)
  /-- its restore sequence runs up to address `stop` -/
  | restore (stop : Nat) (res : Pos)
deriving DecidableEq, Repr

/-- The mode of a core or quad control core (R316, R320). -/
inductive Mode where
  | normal
  | handler
  /-- stopped with no handler, waiting for the host -/
  | stopped
deriving DecidableEq, Repr

/-- The trap frame (R313). MQN is computed; field 9 is kept as its word. -/
structure Frame where
  cause : Word
  kpc   : Word
  lpc   : Word
  xpc   : Word
  spc   : Word
  addr  : Word
  info  : Word
  xl    : Word
  xr    : Word
  eng   : Word
  enga  : Word
  ksav  : Word
  tvec  : Word
  scr   : Word
  step  : Word
deriving DecidableEq, Repr

def Frame.zero : Frame :=
  { cause := 0, kpc := 0, lpc := 0, xpc := 0, spc := 0, addr := 0, info := 0, xl := 0, xr := 0, eng := 0, enga := 0
    ksav := 0, tvec := 0, scr := 0, step := 0 }

/-- One engine fault record (R313 fields 10 and 11, R319). -/
structure EngRec where
  num   : Nat
  barge : Nat
  kind  : Nat
  code  : Nat
  addr  : Nat
deriving DecidableEq, Repr

/-- A control sequencer K, QF or QU, with what its core or quad control core holds as a whole (R25, R143, R155, R313,
R316, R319, R320, R327). DESIGN CHOICE, safe (log entry 4). -/
structure Ctl where
  k      : SMap Word
  pos    : Pos
  phase  : Phase
  xst    : BitVec 32
  /-- the clock at group start, moved on by the time spent in SAVED (R155) -/
  cycBase : Nat
  frame  : Frame
  mode   : Mode
  /-- the stream that ERET resumed alone (R320): 0 K, 1 L, 2 X, 3 S -/
  only   : Option Nat
  /-- the stepped stream has retired its instruction -/
  stepDone : Bool
  /-- breakpoint n stands at the slot address; 0 is clear (R327) -/
  brk    : SMap Nat
  /-- streams (0 K, 1 L, 2 X, 3 S) whose instruction at this breakpoint issues once without stopping (R327) -/
  brkPass : SMap Nat
  /-- the clock of the last stop for a trap, where K stood, and the count of log records before the TRAP event of that stop, where one was posted: a
  trap of another stream in the same cycle joins it (R313, R346). DEDUCED, unsafe (log entry 81). -/
  joint  : Option (Nat × Pos × Option Nat)
  faults : List EngRec
  /-- a further record was lost (R319) -/
  faultLost : Bool
  /-- pre-emption request (R321) -/
  req    : Bool
  /-- the instruction now issuing stands at the unit that answers it: a semaphore's waiters, a barrier's held arrivals, or the
  page unit. DEDUCED, unsafe (log entry 50). -/
  wait   : Bool
deriving DecidableEq, Repr

/-- Every field as at group start (R351): registers and frame zero, no stream running. DESIGN CHOICE, unsafe (log entry 2). -/
def Ctl.init : Ctl :=
  { k := [], pos := .ended, phase := .run, xst := 0, cycBase := 0, frame := .zero, mode := .normal, only := none
    stepDone := false, brk := [], brkPass := [], joint := none, faults := [], faultLost := false, req := false, wait := false }

-- The core ---------------------------------------------------------------------------------------------------------------

/-- A fibre cursor (R182 to R184). -/
structure Fibre where
  /-- 0 CLOSED, 1 OPEN, 2 ENDED -/
  st   : Nat
  desc : Nat
  idx  : Nat
  val  : Nat
  cnt  : Nat
  fa   : Nat
  o    : Q4 (BitVec 32)
  pos  : Nat
deriving DecidableEq, Repr

def Fibre.closed : Fibre := { st := 0, desc := 0, idx := 0, val := 0, cnt := 0, fa := 0, o := .all 0, pos := 0 }

/-- A load-queue entry (R19, R176). `plan` gives for every element position its address, or none where the fill value
stands; its values are read when the entry becomes present. -/
structure LEntry where
  id      : Nat
  pc      : Nat
  present : Bool
  val     : Vec
  map     : MapV
  width   : Nat
  plan    : List (Option Nat)
  fill    : Nat
  /-- the elements that have arrived, by position (R176) -/
  got     : SMap Nat
  /-- those among them whose location a later load of L has read since (R289). DEDUCED, unsafe (log entry 19). -/
  firm    : List Nat := []
  /-- the sluice that PA pushes once the entry is present -/
  pa      : Option Nat
deriving DecidableEq, Repr

/-- The open half of a gauge record, or a partial (R98, R102). `amax` is an f32 code. -/
structure GHalf where
  amax : Nat
  z    : Nat
  n    : Nat
  i    : Nat
  e    : Nat
  bins : SMap Nat
deriving DecidableEq, Repr

def GHalf.zero : GHalf := { amax := 0, z := 0, n := 0, i := 0, e := 0, bins := [] }

/-- An issued S instruction that has yet to perform at core scope (R187, R189): its stores stand in `transit` under `ids`.
DESIGN CHOICE, safe (log entry 4). -/
structure SPend where
  pc    : Nat
  ids   : List Nat
  pa    : Option Nat
  /-- it is an SMARK, of this id -/
  mark  : Option Nat
  /-- a semaphore add that PUTSIG delivers: quad, number, amount -/
  sem   : Option (Nat × Nat × Nat)
  /-- the gauge partial it sends once performed: gauge id and contribution (R187) -/
  gauge : Option (Nat × GHalf)
  /-- payload of the semaphore add that has performed at core scope: the add waits for it at every scope (R189) -/
  pay   : List Nat
deriving DecidableEq, Repr

/-- The register an X instruction writes. -/
inductive XDst where
  | v (n : Nat)
  | w (n : Nat)
  | p (n : Nat)
  | e (n : Nat)
  | none
deriving DecidableEq, Repr

/-- The value an X instruction writes: a vector, a wide accumulator, a predicate or a scalar, as a number. -/
abbrev XVal := Nat

/-- What a VQNT keeps so that it can run again (R113): carrier, source codes, gauge id, exponents and word. -/
structure QntSave where
  gid   : Nat
  s1    : Int
  /-- SCALE, when the handler has set SV -/
  ov    : Option Int
  x     : XArgs
  srcA  : Nat
  srcC  : Nat
  noise : List (Option Nat)
deriving DecidableEq, Repr

/-- An X instruction issued and not yet written (R27, R312). -/
structure XPend where
  id     : Nat
  pc     : Nat
  /-- the cycle in which it writes -/
  cyc    : Nat
  dst    : XDst
  val    : XVal
  map    : Option MapOut
  /-- the destination keeps its value: CMSET -/
  keep   : Bool
  flags  : Nat
  /-- the image it writes was invalid: cmst.IMG (R77) -/
  img    : Bool
  /-- the shadow slot of its captured reference map (R78) -/
  ref    : Option Nat
  /-- a second result: e[S] of VQNT -/
  e2     : Option (Nat × Nat)
  sq     : Bool
  rerun  : Option QntSave
deriving DecidableEq, Repr

/-- A chain slot (R31): its content, and the producer that has yet to write it. -/
structure ChSlot where
  val  : Vec
  map  : CMap
  prod : Option Nat
deriving DecidableEq, Repr

def ChSlot.nil : ChSlot := { val := 0, map := .nil, prod := none }

/-- The hardware loop of X (R222): place counts the body instructions issued in the present kernel iteration. -/
structure XLoop where
  act   : Bool
  n     : Nat
  k     : Nat
  q     : Nat
  turn  : Nat
  ns    : Nat
  sl    : Nat
  rsc   : Nat
  place : Nat
  /-- address of the XLOOP slot -/
  head  : Nat
  /-- N = 0: the body and the XLEND are being passed over -/
  skip  : Bool
  /-- N − Q kept for the resumed XLOOP after a pre-emption (R321) -/
  again : Option Nat
deriving DecidableEq, Repr

def XLoop.closed : XLoop :=
  { act := false, n := 0, k := 0, q := 0, turn := 0, ns := 0, sl := 0, rsc := 0, place := 0, head := 0, skip := false, again := none }

/-- A ring of the matrix engine (R231, R233); CAP 0 is undefined. `esz` is the entry-size code. The counts are kept whole, since R233 counts
entries from the definition; MRING.RD shows them modulo 2^32. -/
structure Ring where
  base : Nat
  cap  : Nat
  esz  : Nat
  tr   : Bool
  head : Nat
  tail : Nat
deriving DecidableEq, Repr

def Ring.undef : Ring := { base := 0, cap := 0, esz := 0, tr := false, head := 0, tail := 0 }

/-- An accumulator tile (R228): its elements are f32 codes at index 64·i + j. -/
structure Tile where
  val  : SMap Nat
  map  : CMap
  mv   : Nat
  nv   : Nat
  sc   : Nat
  wop  : Nat
  key  : Word
  keyv : Bool
deriving DecidableEq, Repr

def Tile.init : Tile := { val := [], map := .nil, mv := 0, nv := 0, sc := 0, wop := 0, key := 0, keyv := false }

/-- A step of a nest that is not wholly masked (R239): its tile, the indices of its M, N and K tiles, its extents and the
offsets it reads in each ring. -/
structure MStep where
  t  : Nat
  mt : Nat
  nt : Nat
  kt : Nat
  mv : Nat
  nv : Nat
  kv : Nat
  oa : Nat
  ob : Nat
deriving DecidableEq, Repr

/-- What a queued matrix operation does, with all that it captured at enqueue (R238, R245, R246). -/
inductive MxKind where
  | go (steps : List MStep) (tpb : List Word) (prf : Nat)
  | drain (t : Nat) (desc : List Word) (rm : Nat) (ovf rel za : Bool) (key : Option Word) (nkey : Word)
  | zero (mask : Nat)
  | scale (src dst : Nat) (sfmt : Nat) (addr rm prf : Nat) (nkey : Word)
deriving DecidableEq, Repr

/-- An element that the running MGO has touched (R240): the value c before its first term, and the terms since, as pairs of
codes, latest first. -/
structure MxElem where
  c     : Nat
  terms : List (Nat × Nat)
deriving DecidableEq, Repr

/-- A queued or running matrix operation (R229, R248). -/
structure MxOp where
  num  : Nat
  kind : MxKind
  /-- its place in the order of arrival at the range checkers -/
  order : Nat
  /-- an operation before it faulted or was cancelled, and no MWAIT completed before its enqueue has reported that one -/
  doomed : Bool
  running : Bool
  /-- steps of the nest that have ended -/
  step : Nat
  /-- per tile: steps ended whose results are not yet visible, and whether one of them restarted the tile -/
  hidden : SMap (Nat × Bool)
  /-- element (i, j) of tile t at 2048·t + 64·i + j -/
  elems : SMap MxElem
  /-- per tile, the extents, map, writer and key that become visible with the next visible value -/
  next : SMap Tile
  flags : Nat
deriving DecidableEq, Repr

/-- Numbers of the faulted or cancelled operations that no wait has reported. -/
abbrev Unrep := List Nat

/-- The matrix engine (R228). -/
structure Matrix where
  nest  : List Word
  tpb   : List Word
  rings : SMap Ring
  tiles : SMap Tile
  queue : List MxOp
  moc   : Nat
  last  : Nat
  bad   : Unrep
deriving DecidableEq, Repr

def Matrix.init : Matrix := { nest := [], tpb := [], rings := [], tiles := [], queue := [], moc := 0, last := 0, bad := [] }

/-- A queued or running walk of the index engine (R249 to R253); `sel` is its selection once it runs. -/
structure Walk where
  num   : Nat
  desc  : List Word
  list  : Nat
  count : Nat
  rel   : Bool
  order : Nat
  doomed : Bool
  sel   : Option (List (Int × Int))
deriving DecidableEq, Repr

/-- The index engine (R249). -/
structure Index where
  desc  : List Word
  queue : List Walk
  ioc   : Nat
  last  : Nat
  bad   : Unrep
deriving DecidableEq, Repr

def Index.init : Index := { desc := [], queue := [], ioc := 0, last := 0, bad := [] }

/-- The L, X and S sequencers of a core and everything the core holds beside K (R25). -/
structure Core where
  la    : SMap Word
  sa    : SMap Word
  fb    : SMap Fibre
  lpos  : Pos
  xpos  : Pos
  spos  : Pos
  lphase : Phase
  xphase : Phase
  sphase : Phase
  v     : SMap (Vec × CMap)
  w     : SMap (Wide × CMap)
  p     : SMap Pred
  e     : SMap (BitVec 32)
  ch    : SMap ChSlot
  shadow : SMap (List Coord)
  nkey  : Word
  cmst  : BitVec 32
  /-- the tokens of each sluice, the oldest first: for each, the stores of which its push tells (R22, R301, R303). DEDUCED, unsafe (log entry 82). -/
  slu   : SMap (List (List Nat))
  lq    : List LEntry
  /-- a load in flight that has faulted (R401): its entry, its slot address, and where L goes on once it is done (R178, R318). DEDUCED, unsafe (log entry 19). -/
  lheld : Option (Nat × Nat × Pos)
  sq    : List (Vec × MapV)
  /-- X cycles before this one have their writes made. DESIGN CHOICE, safe (log entry 72). -/
  xnow  : Nat
  /-- the earliest cycle in which X may issue (R29) -/
  xnext : Nat
  /-- the cycle in which the last instruction to issue retires (R320) -/
  xret  : Nat
  /-- the tick at which X last popped a token, its core last returned from a trap, or its group started: X is ordered after the gauge closes
  before it (R108, R110, R436). DEDUCED, unsafe (log entry 83). -/
  xsync : Nat
  pend  : List XPend
  loop  : XLoop
  /-- SMARKs completed, for each the stores of which it tells (R303), and LMARKs completed, by id (R190). DEDUCED, unsafe (log entry 82). -/
  smark : SMap (List (List Nat))
  lmark : SMap Nat
  spend : List SPend
  mx    : Matrix
  ix    : Index
deriving DecidableEq, Repr

/-- DESIGN CHOICE, unsafe (log entry 2). -/
def Core.init : Core :=
  { la := [], sa := [], fb := [], lpos := .ended, xpos := .ended, spos := .ended, lphase := .run, xphase := .run
    sphase := .run, v := [], w := [], p := [], e := [], ch := [], shadow := [], nkey := 0, cmst := 0, slu := [], lq := [], lheld := none
    sq := [], xnow := 0, xnext := 0, xret := 0, xsync := 0, pend := [], loop := .closed, smark := [], lmark := [], spend := [], mx := .init, ix := .init }

-- The quad ---------------------------------------------------------------------------------------------------------------

/-- A SEMWAIT that has joined a semaphore's waiters (R377). -/
structure SemWaiter where
  q      : SeqId
  d      : BitVec 5
  amount : Nat
  peek   : Bool
deriving DecidableEq, Repr

/-- An arrival that waits for the generation to complete (R369). -/
structure Held where
  q      : SeqId
  d      : BitVec 5
  member : Nat
deriving DecidableEq, Repr

/-- A barrier (R367): sets of members are numbers, bit i for member i. `held` are the held arrivals in the order they came. -/
structure Barrier where
  gen   : Nat
  arr   : Nat
  mask  : Nat
  pmask : Option Nat
  abgen : Option Nat
  held  : List Held
  /-- the stores of which the arrivals of the present generation tell, and of which those of the complete ones told (R302, R303).
  DEDUCED, unsafe (log entry 82). -/
  rel   : List Nat := []
  told  : List Nat := []
deriving DecidableEq, Repr

def Barrier.init (mask : Nat) : Barrier := { gen := 0, arr := 0, mask := mask, pmask := none, abgen := none, held := [] }

/-- A tile nest of the loop sequencer (R356): the levels' counts and axes, outermost first. -/
abbrev Nest := List (Nat × Nat)

/-- A continuation record (R338). -/
abbrev ContRec := List Byte

/-- A quad: its semaphore file, deques, loop sequencer and quad barriers, and the group that holds it. -/
structure Quad where
  /-- the group id, 0 when the quad is free -/
  grp     : Nat
  sem     : SMap Nat
  waiters : SMap (List SemWaiter)
  /-- the deque of core c, top first -/
  deque   : SMap (List ContRec)
  nest    : Option Nest
  pass    : Nat
  passNest : Nest
  cur     : SMap Nat
  hi      : SMap Nat
  bars    : SMap Barrier
  /-- the stores that precede the LSQGO of the present pass (R360). DEDUCED, unsafe (log entry 82). -/
  passRel : List Nat := []
  /-- the stores that fences have placed before the operations on each semaphore: whose operation, which store, and the fence's scope
  (R303, R304). DEDUCED, unsafe (log entry 82). -/
  semRel  : SMap (List (SeqId × Nat × Nat)) := []
deriving DecidableEq, Repr

/-- DESIGN CHOICE, unsafe (log entry 2). -/
def Quad.init : Quad :=
  { grp := 0, sem := [], waiters := [], deque := [], nest := none, pass := 0, passNest := [], cur := [], hi := [], bars := [] }

-- Contexts ---------------------------------------------------------------------------------------------------------------

/-- The states of a context (R311), in the coding of CTXSTAT. -/
inductive CtxState where
  | free | building | ready | running | yielding | saved | killing | dead
deriving DecidableEq, Repr

/-- A page of an address space (R380, R391). -/
structure Page where
  va    : Nat
  /-- 0 64 KiB, 1 2 MiB, 2 512 MiB -/
  sz    : Nat
  /-- 0 HBM, 1 deep tier, 2 host memory, 3 PEER -/
  tier  : Nat
  r     : Bool
  w     : Bool
  x     : Bool
  hv    : Bool
  ap    : Nat
  sa    : Bool
  /-- poison policy FILL -/
  pp    : Bool
  hq    : Nat
  peer  : Nat
  fw    : Bool
  sealed : Bool
  poisoned : Bool
  retired  : Bool
  /-- the exact in-flight count (R384) -/
  inf   : Nat
  bus   : Nat
  /-- addresses of the bad lines (R392); beyond sixteen every line counts as bad -/
  bad   : List Nat
  /-- the sequencers whose TLBINV has taken it out of translation and waits for its count (R389). DEDUCED, unsafe (log entry 43). -/
  gone  : List SeqId
  /-- the parameter group of which it is a state page (R416) -/
  basin : Option Nat
  /-- lines that a basin has moved to a sound frame: they are good whatever `bad` says (R425, R426). DEDUCED, unsafe (log entry 66). -/
  moved : List Nat := []
deriving DecidableEq, Repr

/-- A gauge record (R98 to R100, R115). `st`: 0 FREE, 1 OPEN, 2 POISONED. -/
structure Gauge where
  st    : Nat
  half  : GHalf
  camax : Nat
  gen   : Nat
  ccnt  : Nat
  sx    : List Int
  cflg  : Nat
  ovcnt : Nat
  margin : Nat
  ovm   : Bool
  /-- earlier generations, the latest first: the tick of the close that took each one's place, its GEN, its exponents and its OVM (R110).
  DEDUCED, unsafe (log entry 83). -/
  past  : List (Nat × Nat × List Int × Bool) := []
deriving DecidableEq, Repr

/-- Every field at its reset value (R98, R115), free. -/
def Gauge.free : Gauge :=
  { st := 0, half := .zero, camax := 0, gen := 0, ccnt := 0, sx := List.replicate 28 0, cflg := 1, ovcnt := 0, margin := 0, ovm := false }

/-- A partial on its way to the home unit (R103 to R105): from which stream, to which record, and what it adds; `ov` is
an OVCNT message (R111). -/
structure GPart where
  id   : Nat
  src  : SeqId
  gid  : Nat
  half : GHalf
  ov   : Nat
deriving DecidableEq, Repr

/-- The states of a barge command (R337). -/
inductive CmdState where
  | queued
  /-- running: the 8-byte pieces of its source that are read, in the order of its rows -/
  | reading (got : List (List (Option Byte)))
  /-- running: the bytes of its destination that are not yet written, by address, and the lines that drop theirs -/
  | writing (left : List (Nat × Byte)) (lost : List Nat)
  | done
  /-- faulted, with its trap code: its granules are not returned -/
  | faulted (code : Nat)
deriving DecidableEq, Repr

/-- QUEUED or RUNNING (R337). -/
def CmdState.live : CmdState → Bool
  | .queued | .reading _ | .writing _ _ => true
  | .done | .faulted _ => false

/-- RUNNING (R337). -/
def CmdState.running : CmdState → Bool
  | .reading _ | .writing _ _ => true
  | .queued | .done | .faulted _ => false

/-- A translated barge command (R160, R163). -/
structure BCmd where
  seq  : Nat
  enq  : SeqId
  src  : Nat
  dst  : Nat
  rows : Nat
  len  : Nat
  sstr : Int
  dstr : Int
  aw   : Bool
  aop  : Nat
  es   : Nat
  xp   : Bool
  rel  : Bool
  ds   : Bool
  ss   : Bool
  opnd : Nat
  cmpv : Nat
  /-- the destination descriptor's gauge id, format code and fill pattern, captured at enqueue (R106, R163) -/
  desc : Option (Nat × Nat × Nat)
  nkey : Word
  /-- the pinned pages, by module and first address -/
  pins : List (Nat × Nat)
  st   : CmdState
  /-- its place in the order of arrival at the range checkers -/
  order : Nat
deriving DecidableEq, Repr

/-- The chain of one barge in one context (R33, R164, R337): the sequence number reached, the last one given out, and
the commands not yet retired, in chain order. -/
structure Chain where
  seq  : Nat
  last : Nat
  cmds : List BCmd
deriving DecidableEq, Repr

def Chain.init : Chain := { seq := 0, last := 0, cmds := [] }

/-- A collective session at one participant (R402, R406); the participants of one session share `inst`. `st`: 0 JOINING,
1 RUNNING, 2 DONE, 3 ABORTED. -/
structure Session where
  q     : SeqId
  asid  : Nat
  inst  : Nat
  desc  : List Word
  table : List Nat
  st    : Nat
  cause : Nat
  /-- the clock at which its time-out began to run -/
  since : Nat
  /-- the bytes its destination is to receive, known once it runs -/
  out   : List Byte
  flags : Nat
  order : Nat
  /-- an abort message with this cause is on its way to the participant -/
  msg   : Option Nat
  /-- the generation of its pod barrier that the session has aborted -/
  bz    : Option Nat
  /-- a read of a source has met a fault: the session holds -/
  held  : Bool
  /-- the clock since which the context of some participant has been away: the time-out stands still (R323, R406) -/
  pause : Option Nat := none
deriving DecidableEq, Repr

/-- An aborted session whose remaining ranks have yet to join it (R404, R406): its context, SID and cause, the sequencers of those ranks,
and the barrier generation that it has aborted. DEDUCED, unsafe (log entry 61). -/
structure Aborted where
  asid  : Nat
  sid   : Nat
  inst  : Nat
  cause : Nat
  ranks : List SeqId
  bz    : Option Nat
deriving DecidableEq, Repr

/-- A started record of a host command queue (R330): its queue and the binding under which it started, its own number, EVT,
UTAG and context. -/
structure Rec where
  q     : Nat
  epoch : Nat
  id    : Nat
  evt   : Bool
  utag  : Nat
  asid  : Option Nat
deriving DecidableEq, Repr

/-- The states of a kernel (R274). -/
inductive KState where
  | loading | loaded | active | refused | unloading | unloaded
deriving DecidableEq, Repr

/-- One record of a stream section, placed: its slot address in the image (R258, R269). -/
structure Yield where
  stream : Nat
  /-- slot addresses of the loop, of the first save and restore records, and the address where the restore sequence ends -/
  loop   : Nat
  save   : Nat
  restore : Nat
  fin    : Nat
deriving DecidableEq, Repr

/-- A data image (R268). -/
structure DataImage where
  off  : Nat
  tgt  : Nat
  fill : Bool
  size : Nat
  rank : Nat
  bytes : List Byte
deriving DecidableEq, Repr

/-- A kernel with the tables the loader keeps (R274). -/
structure Kernel where
  st    : KState
  base  : Nat
  lines : Nat
  qmin  : Nat
  qmax  : Nat
  strm  : Nat
  groups : Nat
  descs : List (List Word × Bool)
  rings : List (Nat × Nat)
  nests : List (Nat × List Word)
  yields : List Yield
  datas : List DataImage
  /-- first address of the sequence region of each stream section (R322), by stream -/
  region : SMap Nat
  /-- the KUNLOAD records that complete once it is UNLOADED (R274) -/
  unload : List Rec
  /-- while LOADING, its KLOAD record with the address and size of its object (R274) -/
  load   : Option (Rec × Nat × Nat)
deriving DecidableEq, Repr

def Kernel.none : Kernel :=
  { st := .unloaded, base := 0, lines := 0, qmin := 1, qmax := 1, strm := 0, groups := 0, descs := [], rings := [], nests := []
    yields := [], datas := [], region := [], unload := [], load := .none }

/-- Where a launch came from (R335, R361). -/
inductive Source where
  | host (r : Rec)
  | table (e : Nat)
  | group (q : SeqId)
deriving DecidableEq, Repr

/-- The states of a group (R361). -/
inductive GState where
  | pending | starting | running | retired | refused
deriving DecidableEq, Repr

/-- A group (R349 to R363). -/
structure Group where
  md     : Nat
  asid   : Nat
  handle : Nat
  kernel : Nat
  kw     : Nat
  qb     : Nat
  nq     : Nat
  args   : List Word
  st     : GState
  desc   : SMap (List Word)
  ndesc  : Nat
  src    : Source
  level  : Nat
deriving DecidableEq, Repr

def Group.none : Group :=
  { md := 0, asid := 0, handle := 0, kernel := 0, kw := 0, qb := 0, nq := 0, args := [], st := .retired, desc := [], ndesc := 0
    src := .table 0, level := 0 }

/-- A store that comes before another: the widest scope at which it performs first (R289, R294 to R299, R303), and the widest at which it
counts as kept before the other for a stream that observes that one (R303, R304). -/
structure Earlier where
  id   : Nat
  ord  : Nat
  kept : Nat
deriving DecidableEq, Repr

/-- A store or flag write that has not performed at every scope (R287, R290), in coherence order. `lvl`: 0 lane, 1 core,
2 quad, 3 die, 4 package; at pod its bytes are in memory. DESIGN CHOICE, safe (log entry 4). -/
structure Store where
  id    : Nat
  who   : SeqId
  cells : List (Nat × Byte)
  lvl   : Nat
  /-- the stores in flight that came before it when it was issued -/
  pre   : List Earlier := []
  /-- its own stream, and the streams that have observed it (R302), each with the widest fence that it has completed since (R304).
  DEDUCED, unsafe (log entry 82). -/
  seen  : List (SeqId × Nat) := []
deriving DecidableEq, Repr

/-- What one quad's slot of the save area keeps (R322): the layout is not architected, so the parts are kept as they are.
DEDUCED, unsafe (log entry 48). -/
structure SavedQuad where
  qn     : Nat
  quad   : Quad
  cores  : SMap Core
  ctls   : SMap Ctl
  cells  : List Host.Cell
  engine : SMap Bool
  latent : List Nat
  bad    : List Nat
  /-- stores of the quad's streams that had not performed at core scope: a forced save holds them -/
  stores : List Store
  clock  : Nat
deriving DecidableEq, Repr

/-- A context on one module (R310, R311). -/
structure Ctx where
  st     : CtxState
  gtab   : Nat
  gtsz   : Nat
  save   : Nat
  saveq  : Nat
  req    : Bool
  saves  : Nat
  why    : Nat
  kcode  : Nat
  /-- a RESUME waits for a busy quad -/
  held   : Bool
  /-- the clock at which a pre-emption's time limit passes; 0 for none -/
  limit  : Nat
  pages  : List Page
  gauges : SMap Gauge
  stray  : Nat
  parts  : List GPart
  chains : SMap Chain
  kernels : SMap Kernel
  nextKernel : Nat
  handles : Nat
  /-- status of the handles given out: the group ids -/
  byHandle : SMap Nat
  /-- DEDUCED, unsafe (log entry 48). -/
  slots  : List SavedQuad
  /-- records that complete once the context is SAVED, RUNNING or DEAD -/
  waiting : List (Rec × CtxState)
deriving DecidableEq, Repr

def Ctx.init : Ctx :=
  { st := .free, gtab := 0, gtsz := 4, save := 0, saveq := 0, req := false, saves := 0, why := 0, kcode := 0, held := false, limit := 0
    pages := [], gauges := [], stray := 0, parts := [], chains := [], kernels := [], nextKernel := 1, handles := 0, byHandle := []
    slots := [], waiting := [] }

-- The hub ----------------------------------------------------------------------------------------------------------------

/-- A record appended and not yet started: its address, and its pinned page where CQAPP appended it (R348). -/
structure QRec where
  addr : Nat
  pins : List (Nat × Nat)
deriving DecidableEq, Repr

/-- A host command queue (R329 to R334). `st`: 0 UNBOUND, 1 bound, 4 STOPPED; a bound queue shows IDLE, ACTIVE or BLOCKED.
DESIGN CHOICE, safe (log entry 4). -/
structure HostQ where
  st    : Nat
  pri   : Nat
  wtm1  : Nat
  asid  : Nat
  err   : Nat
  pcode : Nat
  app   : Nat
  started : Nat
  done  : Nat
  /-- the unstarted records, oldest first -/
  recs  : List QRec
  /-- the started records that have not completed, by number -/
  pend  : List Nat
  /-- counts the times its counters became zero: a record of an earlier binding counts nowhere -/
  epoch : Nat
  /-- the last read of the head WAITV found that its condition does not hold -/
  polled : Bool
deriving DecidableEq, Repr

def HostQ.init : HostQ :=
  { st := 0, pri := 0, wtm1 := 0, asid := 0, err := 0, pcode := 0, app := 0, started := 0, done := 0, recs := [], pend := [], epoch := 0
    polled := false }

/-- A launch that a slot has made due (R343): the entry's words and owner as the slot found them, and the slot. -/
structure Due where
  words : List Word
  owner : Nat
  slot  : Nat
deriving DecidableEq, Repr

/-- An entry of the launch table (R342 to R344). -/
structure TTEntry where
  words : List Word
  /-- OWNER while OV is 1 -/
  owner : Option Nat
  /-- OWNER as it reads (R344) -/
  ownerId : Nat
  launched : Nat
  skipped : Nat
  late  : Nat
  /-- the group it last launched; 0 for none -/
  group : Nat
  due   : Option Due
  /-- the next slot to decide -/
  slot  : Nat
  /-- the spans of device time that forward steps have passed over (R341). DEDUCED, unsafe (log entry 57). -/
  steps : List (Nat × Nat)
deriving DecidableEq, Repr

def TTEntry.zero : TTEntry :=
  { words := [], owner := none, ownerId := 0, launched := 0, skipped := 0, late := 0, group := 0, due := none, slot := 0, steps := [] }

/-- An event as posted (R345), before the arbiter writes it. -/
structure Event where
  kind : Nat
  asid : Option Nat
  src  : Nat
  code : Nat
  payload : Nat
  /-- the REFUSED kernel id that is free once the host has read this event (R274) -/
  frees : Option Nat := none
deriving DecidableEq, Repr

/-- A Towpath port (R397, R398, R412). `st`: 0 OFF, 1 TRAINING, 2 UP2, 3 UP1, 4 FAILED. -/
structure Port where
  st    : Nat
  l0    : Bool
  l1    : Bool
  pmod  : Nat
  pport : Nat
  lfail : Nat
  retry : Nat
  /-- the clock at which training began -/
  since : Nat
deriving DecidableEq, Repr

def Port.init : Port := { st := 0, l0 := false, l1 := false, pmod := 0, pport := 0, lfail := 0, retry := 0, since := 0 }

/-- The power and start states (R440), in the coding of STSTAT. -/
inductive Power where
  | off | waitfw | verify | repair | links | ready | failed
deriving DecidableEq, Repr

/-- A launch request that QF has handed to the scheduler (R353), under the group id it was given. -/
structure Launch where
  asid   : Nat
  kw     : Nat
  args   : List Word
  q      : SeqId
  level  : Nat
  gid    : Nat
deriving DecidableEq, Repr

/-- A launch by its place: the head of a host command queue, a due table entry, or a request of QF (R335). -/
inductive LRef where
  | queue (q : Nat)
  | table (e : Nat)
  | group (gid : Nat)
deriving DecidableEq, Repr

/-- What the hub last answered to a host request (R329, R383, R392, R441). -/
inductive Completion where
  | none
  | unsupported
  /-- with the EP bit set -/
  | poisoned
  | data (bytes : List Byte)
deriving DecidableEq, Repr

/-- The hub of a module and the module-wide registers (R42, R329, R335, R342 to R347, R400, R439 to R443). DESIGN CHOICE, safe (log entry 4). -/
structure Hub where
  power  : Power
  cause  : Nat
  fwaddr : Nat
  fwsize : Nat
  /-- address and size of the image that VERIFY reads (R440) -/
  fwimg  : Nat × Nat
  fwdigest : List Byte
  keys   : List (List Byte)
  mbrsp  : Nat
  mbst   : Nat
  mbcmd  : Option Nat
  mbopnd : Nat
  queues : SMap HostQ
  /-- at each level, the queue whose turn it is and the records it has started in it (R335) -/
  rr     : SMap (Nat × Nat)
  /-- the launch that holds the scheduler until enough quads are free (R336) -/
  held   : Option LRef
  pending : List Launch
  tt     : SMap TTEntry
  evbase : Nat
  evsize : Nat
  evwr   : Nat
  evrd   : Nat
  evint  : Nat
  msix   : Nat
  seqNo  : Nat
  /-- DEDUCED, safe (log entry 58). -/
  evheld : List Event
  dropped : Nat
  /-- events in the log whose reading frees a kernel id (R274): records written with them, context and id -/
  noted  : List (Nat × Nat × Nat)
  /-- device time is the clock plus this offset (R341). DESIGN CHOICE, unsafe (log entry 3). -/
  toff   : Int
  /-- a correction that is being applied by slewing, and the clock at which it began (R341) -/
  slew   : Int
  slewAt : Nat
  master : Nat
  ports  : SMap Port
  width  : Nat
  rate   : Nat
  counts : SMap Nat
  /-- corrections since the last ECCCOR and the clock of that event, per source (R392) -/
  ecc    : SMap (Nat × Nat)
  /-- core units that have failed since the start (R442). DEDUCED, unsafe (log entry 69). -/
  broken : List Nat
  /-- the compute dies have no power (R439) -/
  dark   : Bool
  /-- bytes of RETIRED frames by tier: they never return to the pool (R391) -/
  spent  : SMap Nat
  hot    : Bool
  hotSince : Nat
  /-- PRESUMED, unsafe (log entry 44). -/
  cpl    : Completion
deriving DecidableEq, Repr

/-- A module without power (R440). DESIGN CHOICE, unsafe (log entries 2, 3). -/
def Hub.init : Hub :=
  { power := .off, cause := 0, fwaddr := 0, fwsize := 0, fwimg := (0, 0), fwdigest := [], keys := [], mbrsp := 0, mbst := 0, mbcmd := none, mbopnd := 0
    queues := [], rr := [], held := none, pending := [], tt := [], evbase := 0, evsize := 8, evwr := 0, evrd := 0, evint := 1, msix := 0
    seqNo := 0, evheld := [], dropped := 0, noted := [], toff := 0, slew := 0, slewAt := 0, master := 0, ports := [], width := 16, rate := 16, counts := [], ecc := []
    broken := [], dark := false, spent := [], hot := false, hotSince := 0, cpl := .none }

-- Basins -----------------------------------------------------------------------------------------------------------------

/-- A kept contribution (R421): its index, NF and payload. -/
structure Contrib where
  ci  : Nat
  nf  : Bool
  pay : List Byte
deriving DecidableEq, Repr

/-- What a group keeps for one block at one step (R421, R422). -/
structure Blk where
  nc   : Nat
  got  : List Contrib
deriving DecidableEq, Repr

/-- A publication as a subscription is to receive it (R429): the step, its outcome, the exponents of the generation that it
closed, if it closed one, and `w` of the subscribed blocks. -/
structure Publication where
  step : Nat
  out  : Nat
  sx   : Option (List Int)
  w    : List Byte
deriving DecidableEq, Repr

/-- A subscription (R429, R433). -/
structure Sub where
  q    : SeqId
  ofmt : Nat
  b0   : Nat
  nb   : Nat
  dst  : Nat
  stw  : Nat
  /-- the delivery that waits -/
  due  : Option Publication
  lag  : Nat
  /-- the BSUB that completes with the first delivery, by its D (R436) -/
  wait : Option (BitVec 5)
deriving DecidableEq, Repr

/-- A published step that the buddy has yet to run (R426). -/
structure MirrorJob where
  step : Nat
  out  : Nat
  hyp  : List Nat
  blks : SMap Blk
deriving DecidableEq, Repr

/-- A parameter group (R415, R421 to R434). `st`: 1 OPEN, 2 CLOSED, 3 READY, 4 COMMIT, 5 HALTED. -/
structure PGroup where
  asid  : Nat
  /-- the words of its group record -/
  words : List Word
  st    : Nat
  prim  : Nat
  buddy : Option Nat
  hyp   : List Nat
  /-- HYP that the next decision brings in -/
  hypNext : Option (List Nat)
  cur   : Nat
  last  : Nat
  now   : SMap Blk
  next  : SMap Blk
  /-- the clock from which TMO runs in the current step -/
  first : Option Nat
  abandoned : Bool
  /-- the outcome that the decision of the current step gives (R424) -/
  decided : Option Nat
  job   : Option MirrorJob
  /-- the buddy has acknowledged the last published step -/
  acked : Bool
  counts : SMap Nat
  flg   : Nat
  /-- blocks whose home is a spare frame (R425) -/
  spare : List Nat
  subs  : SMap Sub
  /-- the exponents of the generation that the last publication closed -/
  sx    : Option (List Int)
  /-- the basin, primary or buddy, whose module has lost power: what it held is gone even if power comes back (R427, R440) -/
  lost  : Option Nat := none
  /-- the failed primary, while its buddy acts for it and has not yet published a step (R427). DEDUCED, unsafe (log entry 66). -/
  takeover : Option Nat := none
deriving DecidableEq, Repr

-- The machine ------------------------------------------------------------------------------------------------------------

/-- The state of the pod. -/
structure State where
  /-- DESIGN CHOICE, unsafe (log entry 1). -/
  agenda : List Turn
  tick   : Nat
  /-- DESIGN CHOICE, safe (log entry 72). -/
  clock  : Nat
  cur    : SeqId
  ev     : EvArgs
  ids    : Nat
  mem    : List Host.Cell
  /-- scratchpad words and memory lines whose error no read has found (R392), by key -/
  latent : List Nat
  /-- scratchpad words known to be bad, by address (R392) -/
  bad    : List Nat
  /-- DESIGN CHOICE, unsafe (log entry 30). -/
  transit : List Store
  /-- granules that are ENGINE, by granule number; an unlisted granule is STREAM (R34) -/
  engine : SMap Bool
  ctls   : SMap Ctl
  cores  : SMap Core
  quads  : SMap Quad
  hubs   : SMap Hub
  ctxs   : SMap Ctx
  groups : SMap Group
  /-- barriers that have left their initial state (R367): of a group and C-die, of a group, and of a context -/
  dieBars : SMap Barrier
  pkgBars : SMap Barrier
  /-- DEDUCED, unsafe (log entry 60). -/
  podBars : SMap Barrier
  sessions : List Session
  aborted : List Aborted
  basin  : SMap PGroup
deriving DecidableEq, Repr

/-- A memory byte that nothing has written reads 0: frames and scratchpads start zero-filled (R268, R386); for host
memory this is the model's choice. DESIGN CHOICE, unsafe (log entry 2). -/
def unlisted : Byte := 0

/-- The canonical form of memory: addresses strictly rising, no entry equal to what an unlisted address reads as. -/
def Memory.wf : List Host.Cell → Bool
  | [] => true
  | [(_, b)] => b != unlisted
  | (a, b) :: (a', b') :: m => b != unlisted && decide (a < a') && Memory.wf ((a', b') :: m)

/-- The pod before power is applied: every module OFF (R440), nothing stored, every register of every unit at its value
at group start (R351). DESIGN CHOICE, unsafe (log entries 2, 3, 4). -/
def State.reset : State :=
  { agenda := [], tick := 0, clock := 0, cur := { unit := 0, kind := .k }, ev := .nil, ids := 1, mem := [], latent := [], bad := []
    transit := [], engine := [], ctls := [], cores := [], quads := [], hubs := [], ctxs := [], groups := [], dieBars := [], pkgBars := [], podBars := []
    sessions := [], aborted := [], basin := [] }

/-- The reasons the machine stops. -/
inductive Fault where
  /-- Raised by `step` when the agenda names as an event an instruction that has an encoding: no agent of the spec does
  that. Safe: no run of the hardware is shut out. -/
  | notAnEvent
deriving DecidableEq, Repr

/-- The reasons an instruction has no meaning. -/
inductive Refusal where
  /-- Raised by `exec` for an instruction whose meaning is not yet written. Safe: nothing is proved of it. -/
  | notModelled (mnemonic : String)
deriving DecidableEq, Repr

end Sys2Proof.Machine
end

