-- ==== Sys2Proof/Machine/Ops.lean ====
section
/-! DEFINITION. The operations on the machine's tables: registers, sequencers, units, routes, owner bits, memory and the
visibility of stores (spec 01, 06, 12), events (14), and the checks of a scratchpad access (R151). -/

namespace Sys2Proof.Machine

open Sys2Proof

-- Names of units (R151) ------------------------------------------------------------------------------------------------

/-- Trap codes (R314). -/
def tcIllegalInst : Nat := 1
def tcIllegalLine : Nat := 2
def tcAddr : Nat := 3
def tcOwner : Nat := 4
def tcPoison : Nat := 5
def tcOpnd : Nat := 6
def tcPage : Nat := 7
def tcWin : Nat := 8
def tcOverlap : Nat := 9
def tcMapLost : Nat := 10
def tcMismatch : Nat := 11
def tcGaugeId : Nat := 12
def tcGaugePoison : Nat := 13
def tcGaugeOverflow : Nat := 14
def tcGaugeState : Nat := 15
def tcFibre : Nat := 16
def tcSwtrap : Nat := 17
def tcBreak : Nat := 18
def tcStep : Nat := 19
def tcEngine : Nat := 20

def quadOf (u : Nat) : Nat := u / 8
def dieOf (u : Nat) : Nat := u / 512
def modOf (u : Nat) : Nat := u / 4096
/-- The quad number die·64 + quad of a unit (R263). -/
def qnOf (u : Nat) : Nat := u / 8 % 512
/-- The C-die number of a unit within its module. -/
def dieNo (u : Nat) : Nat := u / 512 % 8
/-- The first scratchpad address of a unit. -/
def unitBase (u : Nat) : Nat := u * 2 ^ 20
/-- The quad index of quad number `qn` of module `md`. -/
def quadIx (md qn : Nat) : Nat := md * 512 + qn

/-- The stream number of a frame field (R313). -/
def strmNo : SeqKind → Nat
  | .l => 1
  | .x => 2
  | .s => 3
  | _ => 0

/-- The sequencers that run the K instruction set (R142). -/
def isCtl : SeqKind → Bool
  | .k | .qf | .qu => true
  | _ => false

/-- The key of the control sequencer that stands for a core or is a quad control core. -/
def ctlKey (q : SeqId) : Nat :=
  match q.kind with
  | .qf => q.unit * 4 + 1
  | .qu => q.unit * 4 + 2
  | _ => q.unit * 4

def State.ctl (s : State) (q : SeqId) : Ctl := sget .init s.ctls (ctlKey q)
def State.setCtl (s : State) (q : SeqId) (c : Ctl) : State := { s with ctls := sset s.ctls (ctlKey q) c }
def State.core (s : State) (u : Nat) : Core := sget .init s.cores u
def State.setCore (s : State) (u : Nat) (c : Core) : State := { s with cores := sset s.cores u c }
def State.quad (s : State) (n : Nat) : Quad := sget .init s.quads n
def State.setQuad (s : State) (n : Nat) (c : Quad) : State := { s with quads := sset s.quads n c }
def State.hub (s : State) (m : Nat) : Hub := sget .init s.hubs m
def State.setHub (s : State) (m : Nat) (h : Hub) : State := { s with hubs := sset s.hubs m h }
def ctxKey (md asid : Nat) : Nat := md * 2048 + asid
def State.ctx (s : State) (md asid : Nat) : Ctx := sget .init s.ctxs (ctxKey md asid)
def State.setCtx (s : State) (md asid : Nat) (c : Ctx) : State := { s with ctxs := sset s.ctxs (ctxKey md asid) c }
def State.group (s : State) (g : Nat) : Group := sget .none s.groups g
def State.setGroup (s : State) (g : Nat) (x : Group) : State := { s with groups := sset s.groups g x }

/-- The group that holds a sequencer's quad; 0 is no group. -/
def State.gidOf (s : State) (q : SeqId) : Nat := (s.quad (quadOf q.unit)).grp
def State.grpOf (s : State) (q : SeqId) : Group := s.group (s.gidOf q)
def State.asidOf (s : State) (q : SeqId) : Nat := (s.grpOf q).asid
/-- The context of a sequencer on its own module. -/
def State.ctxOf (s : State) (q : SeqId) : Ctx := s.ctx (modOf q.unit) (s.asidOf q)
def State.setCtxOf (s : State) (q : SeqId) (c : Ctx) : State := s.setCtx (modOf q.unit) (s.asidOf q) c
/-- The kernel a sequencer runs. -/
def State.kernelOf (s : State) (q : SeqId) : Kernel := sget .none (s.ctxOf q).kernels (s.grpOf q).kernel

/-- A fresh identifier. -/
def State.fresh (s : State) : Nat × State := (s.ids, { s with ids := s.ids + 1 })

/-- The logical index of a core or quad control core (R350). -/
def State.logical (s : State) (q : SeqId) : Nat :=
  let lq := qnOf q.unit - (s.grpOf q).qb
  if q.kind = .qf ∨ q.kind = .qu then lq else 4 * lq + q.unit % 8

/-- The unit of logical core `i` of a group (R263, R350). -/
def Group.coreUnit (g : Group) (i : Nat) : Nat := quadIx g.md (g.qb + i / 4) * 8 + i % 4

-- Registers ------------------------------------------------------------------------------------------------------------------

/-- k[n]; k0 reads zero (R25). -/
def State.getK (s : State) (q : SeqId) (n : BitVec 5) : Word := if n = 0 then 0 else sget 0 (s.ctl q).k n.toNat

/-- k[n] ← v; a write of k0 is discarded (R25, R143). -/
def State.setK (s : State) (q : SeqId) (n : BitVec 5) (v : Word) : State :=
  if n = 0 then s else
    let c := s.ctl q
    s.setCtl q { c with k := sset c.k n.toNat v }

/-- The address register file of L or S. -/
def State.getA (s : State) (q : SeqId) (n : Nat) : Word :=
  let c := s.core q.unit
  sget 0 (if q.kind = .s then c.sa else c.la) (n % 16)

def State.setA (s : State) (q : SeqId) (n : BitVec 4) (v : Word) : State :=
  let c := s.core q.unit
  s.setCore q.unit (if q.kind = .s then { c with sa := sset c.sa n.toNat v } else { c with la := sset c.la n.toNat v })

def Core.posOf (c : Core) : SeqKind → Pos
  | .l => c.lpos
  | .x => c.xpos
  | _ => c.spos

def Core.setPos (c : Core) (kd : SeqKind) (p : Pos) : Core :=
  match kd with
  | .l => { c with lpos := p }
  | .x => { c with xpos := p }
  | _ => { c with spos := p }

def Core.phaseOf (c : Core) : SeqKind → Phase
  | .l => c.lphase
  | .x => c.xphase
  | _ => c.sphase

def Core.setPhase (c : Core) (kd : SeqKind) (p : Phase) : Core :=
  match kd with
  | .l => { c with lphase := p }
  | .x => { c with xphase := p }
  | _ => { c with sphase := p }

def State.pos (s : State) (q : SeqId) : Pos :=
  if isCtl q.kind then (s.ctl q).pos else (s.core q.unit).posOf q.kind

def State.setPos (s : State) (q : SeqId) (p : Pos) : State :=
  if isCtl q.kind then s.setCtl q { s.ctl q with pos := p }
  else s.setCore q.unit ((s.core q.unit).setPos q.kind p)

def State.phase (s : State) (q : SeqId) : Phase :=
  if isCtl q.kind then (s.ctl q).phase else (s.core q.unit).phaseOf q.kind

def State.setPhase (s : State) (q : SeqId) (p : Phase) : State :=
  if isCtl q.kind then s.setCtl q { s.ctl q with phase := p }
  else s.setCore q.unit ((s.core q.unit).setPhase q.kind p)

/-- The address a position stands at. -/
def Pos.addr : Pos → Nat
  | .next a | .target a _ | .resume a | .at a => a
  | .ended => 0

/-- The slot address of the instruction a sequencer executes. -/
def State.pc (s : State) (q : SeqId) : Nat := (s.pos q).addr

/-- The resume address of a stream (R315, R317): bit 0 is AFTER. A stream that stands at a branch target it has not fetched resumes there.
DEDUCED, unsafe (log entry 80). -/
def Pos.resumeWord : Pos → Word
  | .next a => BitVec.ofNat 64 (a ||| 1)
  | .target a _ | .resume a | .at a => BitVec.ofNat 64 a
  | .ended => 0

/-- The position a resume address names (R315, R317). -/
def posOfResume (w : Word) : Pos :=
  if w = 0 then .ended else if w.toNat % 2 = 1 then .next (w.toNat - 1) else .resume w.toNat

/-- Stream n has the right to pass the breakpoint at a slot once (R327). -/
def Ctl.mayPass (c : Ctl) (n pc : Nat) : Bool := c.mode == .normal && sfind c.brkPass n == some pc

/-- Stream n has issued the instruction of a slot: a stepped stream has retired it (R320), and a breakpoint that it may pass once is passed
(R327). -/
def Ctl.issued (c : Ctl) (n pc : Nat) : Ctl :=
  { c with stepDone := c.stepDone || decide (c.only = some n), brkPass := if c.mayPass n pc then sdel c.brkPass n else c.brkPass }

/-- The stream issues the instruction at which it stands. -/
def State.retire (s : State) (q : SeqId) : State :=
  let c := s.ctl q
  let n := strmNo q.kind
  if c.only = some n ∨ c.mayPass n (s.pc q) then s.setCtl q (c.issued n (s.pc q)) else s

/-- Completion at position `p`: the stream goes on there. -/
def State.goto (s : State) (q : SeqId) (p : Pos) : State := (s.retire q).setPos q p

/-- Completion without a branch (R123). -/
def State.fin (s : State) (q : SeqId) : State := s.goto q (.next (s.pc q))

/-- The target of a branch (R124). -/
def branchTarget (pc : Nat) (slot : BitVec 3) (line : BitVec 13) : Nat :=
  wrapNat 52 (((pc / 32 * 32 : Nat) : Int) + signed 13 line.toNat * 32 + (slot.toNat * 4 : Nat))

-- Routes (R400, R401) ------------------------------------------------------------------------------------------------------

def Port.up (p : Port) : Bool := p.st == 2 || p.st == 3

/-- Module m takes part in the pod. -/
def State.present (s : State) (m : Nat) : Bool := (s.hub m).power == .ready

/-- The modules one hop away from m over ports that are up at both ends. DEDUCED, unsafe (log entry 62). -/
def State.neighbours (s : State) (m : Nat) : List Nat :=
  (s.hub m).ports.filterMap fun (_, p) =>
    if p.up && (sget .init (s.hub p.pmod).ports p.pport).up then some p.pmod else none

/-- Hops from any module of `front` to n, among modules not yet seen. -/
def State.hopsFrom (s : State) (n : Nat) : Nat → List Nat → List Nat → Option Nat
  | 0, _, _ => none
  | fuel + 1, seen, front =>
    if front.contains n then some 0
    else
      let seen' := seen ++ front
      let front' := ((front.flatMap s.neighbours).filter fun x => !seen'.contains x).eraseDups
      if front'.isEmpty then none else (s.hopsFrom n fuel seen' front').map (· + 1)

/-- The route from module m to n: hops and first-hop port, on a shortest path, ties to the lower port (R400). DEDUCED, unsafe (log entry 62). -/
def State.route (s : State) (m n : Nat) : Option (Nat × Nat) :=
  if m = n then some (0, 0)
  else
    (s.hub m).ports.foldl (fun best (port, p) =>
      if p.up && (sget .init (s.hub p.pmod).ports p.pport).up then
        match s.hopsFrom n 1024 [] [p.pmod], best with
        | some h, some (h0, p0) => if h + 1 < h0 then some (h + 1, port) else some (h0, p0)
        | some h, none => some (h + 1, port)
        | none, b => b
      else best) none

def State.reachable (s : State) (m n : Nat) : Bool := m == n || (s.route m n).isSome

-- Checks of a scratchpad access (R151) -------------------------------------------------------------------------------------

/-- Cause 4 of R151: the unit is on no present and reachable module, or on a quad that the sequencer's context does not hold. -/
def State.absent (s : State) (q : SeqId) (u : Nat) : Bool :=
  !s.present (modOf u) || !s.reachable (modOf q.unit) (modOf u) || (s.quad (quadOf u)).grp == 0
    || (s.group (s.quad (quadOf u)).grp).asid != s.asidOf q

/-- Causes 1 to 4 of R151 for one address. -/
def State.cause14 (s : State) (q : SeqId) (ea : Nat) : Option Nat :=
  let u := ea / 2 ^ 20
  if ea ≥ 2 ^ 42 then some 1
  else if u % 8 ≥ 5 then some 2
  else if u % 8 < 4 ∧ ea % 2 ^ 20 ≥ 0x80000 then some 3
  else if s.absent q u then some 4
  else none

/-- The quad and number that a semaphore word names (R189, R375). -/
def State.semWord (s : State) (q : SeqId) (ea : Nat) : Except Trap (Nat × Nat) :=
  let qd := ea / 2 ^ 23
  if ea ≥ 2 ^ 42 ∨ field ea 5 18 ≠ 0 then .error { code := tcAddr, addr := ea, info := 1 }
  else if s.absent q (qd * 8 + 4) then .error { code := tcAddr, addr := ea, info := 4 }
  else .ok (qd, ea % 32)

/-- Causes 1 to 5 of R151 for an access of `size` bytes. -/
def State.cause15 (s : State) (q : SeqId) (ea size : Nat) : Option Nat :=
  match s.cause14 q ea with
  | some c => some c
  | none => if ea % size ≠ 0 then some 5 else none

/-- The owner bit of the granule that holds an address (R34): ENGINE. -/
def State.isEngine (s : State) (ga : Nat) : Bool := sget false s.engine (ga / 4096)

/-- Set the owner bit of `cnt` granules from the one that holds `ga`. -/
def State.setOwner (s : State) (ga cnt : Nat) (eng : Bool) : State :=
  { s with engine := (span (ga / 4096) cnt).foldl (fun m g => if eng then sset m g true else sdel m g) s.engine }

/-- The granules of a byte range. -/
def granules (ga len : Nat) : List Nat := if len = 0 then [] else span (ga / 4096) ((ga + len - 1) / 4096 - ga / 4096 + 1)

def State.anyEngine (s : State) (ga len : Nat) : Bool := (granules ga len).any fun g => sget false s.engine g

-- Memory -------------------------------------------------------------------------------------------------------------------

/-- Memory keys: a scratchpad byte is its global address; a byte of a page is tagged with its module and context; a byte
of host memory with its module. DEDUCED, safe (log entry 42). -/
def pageKey (md asid va : Nat) : Nat := 2 ^ 90 + (md * 2048 + asid) * 2 ^ 52 + va
def hostKey (md bus : Nat) : Nat := 2 ^ 91 + md * 2 ^ 64 + bus % 2 ^ 64

/-- One byte of memory as it has performed everywhere. -/
def memGet (m : List Host.Cell) (a : Nat) : Byte := sget unlisted m a

/-- Memory with one byte replaced, in canonical form: writing the value an unlisted address reads as removes the entry. -/
def memSet (m : List Host.Cell) (a : Nat) (b : Byte) : List Host.Cell := if b = unlisted then sdel m a else sset m a b

/-- Memory with the byte entries of a list written in order. -/
def memWrite (m : List Host.Cell) (cells : List (Nat × Byte)) : List Host.Cell :=
  cells.foldl (fun m c => memSet m c.1 c.2) m

/-- The cells of consecutive bytes. -/
def cellsOf (a : Nat) : List Byte → List (Nat × Byte)
  | [] => []
  | b :: bs => (a, b) :: cellsOf (a + 1) bs

/-- The common scope of two sequencers' places (R286): 1 core, 2 quad, 3 die, 4 package, 5 pod. -/
def commonScope (p q : SeqId) : Nat :=
  if p.unit = q.unit ∧ p.unit % 8 < 4 then 1
  else if quadOf p.unit = quadOf q.unit then 2
  else if dieOf p.unit = dieOf q.unit then 3
  else if modOf p.unit = modOf q.unit then 4
  else 5

/-- A store is visible to a sequencer (R287, R289). -/
def Store.visible (st : Store) (q : SeqId) : Bool := decide (st.who = q) || decide (st.lvl ≥ commonScope st.who q)

/-- The byte that the last matching cell of a list gives. -/
def lastCell (cells : List (Nat × Byte)) (a : Nat) : Option Byte :=
  cells.foldl (fun r c => if c.1 = a then some c.2 else r) none

/-- One byte as a sequencer's load performing now reads it: the newest visible store in coherence order (R287, R289). -/
def State.byte (s : State) (q : SeqId) (a : Nat) : Byte :=
  let r := s.transit.foldl (fun r st =>
    if st.visible q then (match lastCell st.cells a with
      | some b => some b
      | none => r) else r) none
  r.getD (memGet s.mem a)

/-- The bytes of a read by a sequencer. -/
def State.bytes (s : State) (q : SeqId) (a n : Nat) : List Byte := (span a n).map (s.byte q)

/-- The number in n bytes, little-endian (R43). -/
def State.read (s : State) (q : SeqId) (a n : Nat) : Nat := leNat (s.bytes q a n)

/-- The words of a record of n 8-byte words. -/
def State.words (s : State) (q : SeqId) (a n : Nat) : List Word :=
  (List.range n).map fun i => BitVec.ofNat 64 (s.read q (a + 8 * i) 8)

/-- Bytes at the memory, below every store that is still in transit. -/
def memBytes (m : List Host.Cell) (a n : Nat) : List Byte := (span a n).map (memGet m)
def memNat (m : List Host.Cell) (a n : Nat) : Nat := leNat (memBytes m a n)

/-- Drop from the stores in transit the bytes that a later write has overtaken in coherence order. -/
def dropCells (cells : List (Nat × Byte)) (l : List Store) : List Store :=
  l.map fun st => { st with cells := st.cells.filter fun c => !(cells.any fun d => d.1 == c.1) }

/-- A write that performs at every scope at once (R287: an engine's or the hub's, at `.pod`). -/
def State.write (s : State) (cells : List (Nat × Byte)) : State :=
  { s with mem := memWrite s.mem cells, transit := dropCells cells s.transit }

-- Stores in flight (R287 to R290) --------------------------------------------------------------------------------------------

/-- Cells of one scratchpad unit stand in both lists. -/
def sameUnit (x y : List (Nat × Byte)) : Bool := x.any fun c => y.any fun d => c.1 / 2 ^ 20 == d.1 / 2 ^ 20

/-- Cells of one location stand in both lists. -/
def sameByte (x y : List (Nat × Byte)) : Bool := x.any fun c => y.any fun d => c.1 == d.1

/-- The widest fence that a stream has completed since it made or observed the store; none where it has done neither. -/
def Store.fenceBy (x : Store) (q : SeqId) : Option Nat := (x.seen.find? fun e => e.1 == q).map Prod.snd

/-- How store x stands to a store of `q` with these cells that is issued now: in program order with one of its own (R289, R294 to R299;
`sg` marks the signal of a PUTSIG, for which only its payload and a fence count), or before it because `q` has observed it (R292, R303). -/
def Store.earlier (x : Store) (q : SeqId) (cells : List (Nat × Byte)) (sg : Bool) : Option Earlier :=
  match x.fenceBy q with
  | none => none
  | some f =>
    if x.who = q then
      let k := max f (if sameByte x.cells cells then 5 else if sg then 0 else if sameUnit x.cells cells then 3 else 1)
      if k = 0 then none else some { id := x.id, ord := k, kept := k }
    else some { id := x.id, ord := 5, kept := f }

/-- Two stores of different streams reach one location, and neither has performed where both streams see it: their places in the
location's coherence order are still open (R289). DEDUCED, unsafe (log entry 30). -/
def Store.open (x y : Store) : Bool := x.who != y.who && sameByte x.cells y.cells && decide (x.lvl < commonScope x.who y.who)

/-- A store joins the list at the scope it has performed at: it precedes those with which its order was open and is so no longer, and follows
those of its locations whose order before it is settled. DEDUCED, unsafe (log entry 30). -/
def Store.enter (y : Store) : List Store → List Store
  | [] => [y]
  | x :: l =>
    if x.open y && decide (commonScope x.who y.who ≤ y.lvl) && (x :: l).all (fun z => z.open y || !sameByte z.cells y.cells) then y :: x :: l
    else x :: y.enter l

/-- A stream's store, performed so far at `lvl` (R150, R287). -/
def State.store (s : State) (q : SeqId) (lvl : Nat) (cells : List (Nat × Byte)) : Nat × State :=
  let st : Store := { id := s.ids, who := q, cells := cells, lvl := lvl, pre := s.transit.filterMap fun x => x.earlier q cells false, seen := [(q, 0)] }
  (s.ids, { s with ids := s.ids + 1, transit := st.enter s.transit })

/-- The elements of one access, each by itself (R288). -/
def State.storeAll (s : State) (q : SeqId) (els : List (List (Nat × Byte))) : List Nat × State :=
  (span s.ids els.length, { s with ids := s.ids + els.length, transit := s.transit ++ els.mapIdx fun i cs =>
    { id := s.ids + i, who := q, cells := cs, lvl := 0, pre := s.transit.filterMap fun x => x.earlier q cs false, seen := [(q, 0)] } })

/-- The flag write of a PUTSIG, after its payload `pay` at every scope (R189). -/
def State.storeFlag (s : State) (q : SeqId) (cells : List (Nat × Byte)) (pay : List Nat) : Nat × State :=
  let st : Store := { id := s.ids, who := q, cells := cells, lvl := 0, seen := [(q, 0)]
                      pre := (s.transit.filterMap fun x => x.earlier q cells true) ++ pay.map fun i => { id := i, ord := 5, kept := 5 } }
  (s.ids, { s with ids := s.ids + 1, transit := s.transit ++ [st] })

/-- The scope that x must have reached when y performs at scope n; `first` says that x precedes y in the list (R289, R294 to R299,
R303). -/
def Store.owes (x : Store) (first : Bool) (y : Store) (n : Nat) : Nat :=
  if first && x.who != y.who && sameByte x.cells y.cells && !x.open y then n
  else y.pre.foldl (fun k e => if e.id = x.id then max k (min n e.ord) else k) 0

/-- A store in flight performs at a wider scope; at `.pod` its bytes go to memory. -/
def State.perform (s : State) (id lvl : Nat) : State :=
  match s.transit.span fun x => x.id != id with
  | (before, y :: after) =>
    let y := { y with lvl := max y.lvl lvl }
    if y.lvl < 5 then { s with transit := y.enter before ++ after }
    else
      { s with mem := memWrite s.mem y.cells
               transit := before.map (fun x => if x.open y then x else { x with cells := x.cells.filter fun c => !(y.cells.any fun d => d.1 == c.1) })
                 ++ after }
  | _ => s

/-- One pass of the scopes that stores must reach before others do. -/
def spreadScopes (l : List Store) (lv : List Nat) : List Nat :=
  l.mapIdx fun i x => ((l.zip lv).mapIdx fun j y => if y.2 > y.1.lvl ∧ i ≠ j then x.owes (decide (i < j)) y.1 y.2 else 0).foldl max (lv.getD i 0)

/-- The scope that each store in flight reaches when those that `f` picks perform everywhere. -/
def State.landScopes (s : State) (f : Store → Bool) : List Nat :=
  (List.range s.transit.length).foldl (fun lv _ => spreadScopes s.transit lv) (s.transit.map fun x => if f x then 5 else 0)

/-- The stores that `f` picks perform everywhere, and before them what has to (R289, R294 to R299, R303). -/
def State.land (s : State) (f : Store → Bool) : State :=
  (s.transit.zip (s.landScopes f)).foldl (fun s x => if x.2 > x.1.lvl then s.perform x.1.id x.2 else s) s

-- Observing (R302 to R304) ---------------------------------------------------------------------------------------------------

/-- A stream has observed the stores of a list. DEDUCED, unsafe (log entry 82). -/
def State.mark (s : State) (q : SeqId) (ids : List Nat) : State :=
  { s with transit := s.transit.map fun st =>
      if ids.contains st.id && (st.fenceBy q).isNone then { st with seen := st.seen ++ [(q, 0)] } else st }

/-- The stores that a stream observes with those of a list: the ones that are kept before them where both streams see them (R303). -/
def State.keptBefore (s : State) (q : SeqId) (ids : List Nat) : List Nat :=
  (List.range s.transit.length).foldl (fun ids _ => ids ++ (s.transit.filter fun st => ids.contains st.id).flatMap fun h =>
    (h.pre.filter fun e => decide (e.kept ≥ commonScope h.who q) && !ids.contains e.id).map (·.id)) ids

/-- A load of a stream returns what visible stores of others that `p` picks wrote (R302). DEDUCED, unsafe (log entry 82). -/
def State.observe (s : State) (q : SeqId) (p : Store → Bool) : State :=
  s.mark q (s.keptBefore q ((s.transit.filter fun st => st.visible q && st.who != q && p st).map (·.id)))

/-- A stream has completed a fence of a scope (R304). -/
def State.fenced (s : State) (q : SeqId) (lvl : Nat) : State :=
  { s with transit := s.transit.map fun st => { st with seen := st.seen.map fun e => if e.1 = q then (q, max e.2 lvl) else e } }

/-- The stores of which a token, a marker or an arrival of a stream tells at a scope (R301, R303): its own that have performed there, and
those that it observed before a fence; X tells of whatever it has been told. DEDUCED, unsafe (log entry 82). -/
def State.tells (s : State) (q : SeqId) (lvl : Nat) : List Nat :=
  (s.transit.filter fun st => match st.fenceBy q with
    | none => false
    | some f => if st.who = q then decide (st.lvl ≥ lvl) else q.kind == .x || decide (f ≥ lvl)).map (·.id)

/-- A store has a byte in a range. -/
def Store.inRange (st : Store) (a n : Nat) : Bool := st.cells.any fun c => decide (a ≤ c.1) && decide (c.1 < a + n)

/-- A store of the stream itself to a byte of a range has yet to perform everywhere: a load of its stream waits for it, since that store
performs at every scope first (R289, R294 to R299, note 2). DEDUCED, unsafe (log entry 86). -/
def State.ownOpen (s : State) (q : SeqId) (a n : Nat) : Bool := s.transit.any fun st => st.who == q && st.inRange a n

/-- The stores a fence of scope `lvl` waits for: the stream's own, and every store its stream has observed (R158, R191, R304). -/
def State.fenceOpen (s : State) (q : SeqId) (lvl : Nat) : Bool :=
  s.transit.any fun st => (st.fenceBy q).isSome && decide (st.lvl < lvl)

/-- What a stream has observed performs everywhere before its next signal or semaphore operation does (R292, R303). -/
def State.acquire (s : State) (q : SeqId) : State := s.land fun st => st.who != q && (st.fenceBy q).isSome

-- Events (R345 to R347) ------------------------------------------------------------------------------------------------------

/-- Source fields (R446). -/
def srcOf (q : SeqId) : Nat :=
  if q.kind = .qf then 2 ^ 14 + 2 * qnOf q.unit
  else if q.kind = .qu then 2 ^ 14 + 2 * qnOf q.unit + 1
  else dieNo q.unit * 256 + (q.unit / 8 % 64) * 4 + q.unit % 8

def srcHub (n : Nat) : Nat := 2 * 2 ^ 14 + n
def srcQueue (n : Nat) : Nat := 3 * 2 ^ 14 + n

/-- The part of a slewed correction that is applied after n nanoseconds, at 200 parts per million (R341). DEDUCED, unsafe (log entry 63). -/
def slewed (slew : Int) (n : Nat) : Int :=
  let d : Int := (min slew.natAbs (n / 5000) : Nat)
  if slew < 0 then -d else d

/-- Device time of a module (R341). DESIGN CHOICE, unsafe (log entry 3). -/
def State.devTime (s : State) (md : Nat) : Nat :=
  let h := s.hub md
  wrapNat 64 ((s.clock : Int) + h.toff + slewed h.slew (s.clock - h.slewAt))

/-- The 32 bytes of an event record (R345). -/
def Event.record (e : Event) (seq time : Nat) : List Byte :=
  leBytes 8 seq ++ leBytes 8 time ++ leBytes 8 (e.kind + (e.asid.getD 0) * 2 ^ 16 + (if e.asid.isSome then 2 ^ 27 else 0)
    + e.src * 2 ^ 32 + e.code % 2 ^ 16 * 2 ^ 48) ++ leBytes 8 e.payload

/-- The arbiter writes one record to the log (R345, R347), and signals MSI-X when the log reaches EVINT (R408). -/
def State.logEvent (s : State) (md : Nat) (e : Event) : State :=
  let h := s.hub md
  let a := h.evbase + 32 * (h.evwr % 2 ^ h.evsize)
  let s := s.write (cellsOf (hostKey md a) (e.record h.seqNo (s.devTime md)))
  let h' := { h with seqNo := h.seqNo + 1, evwr := h.evwr + 1
                     noted := (e.frees.map fun k => (h.evwr + 1, e.asid.getD 0, k)).toList ++ h.noted
                     msix := if h.evwr + 1 - h.evrd = h.evint then h.msix + 1 else h.msix }
  s.setHub md h'

/-- The log takes no record: it is full, or has not started (R347, R440). -/
def Hub.logFull (h : Hub) : Bool := decide (h.evwr - h.evrd ≥ 2 ^ h.evsize) || h.power != .ready

/-- The arbiter receives an event: it writes it, holds it, or drops and counts it (R347). DEDUCED, safe (log entry 58). -/
def State.arbiter (s : State) (md : Nat) (e : Event) : State :=
  let h := s.hub md
  if !h.logFull && h.evheld.isEmpty && h.dropped == 0 then s.logEvent md e
  else if h.evheld.length < 1024 then s.setHub md { h with evheld := h.evheld ++ [e] }
  else s.setHub md { h with dropped := h.dropped + 1 }

/-- An event is posted. -/
def State.post (s : State) (md kind : Nat) (asid : Option Nat) (src code payload : Nat) : State :=
  s.arbiter md { kind := kind, asid := asid, src := src, code := code, payload := payload % 2 ^ 64 }

/-- The trap of an earlier stream has joined the stop of a core in the cycle of the stop: it gives its code to the TRAP event that the stop posted when
the log had `n` records, be it held or written (R313, R346). DEDUCED, unsafe (log entry 81). -/
def State.recode (s : State) (md src n code : Nat) : State :=
  let h := s.hub md
  match (List.range h.evheld.length).reverse.find? fun i => (h.evheld[i]?).any fun e => e.kind == 0x11 && e.src == src with
  | some i => s.setHub md { h with evheld := h.evheld.modify i fun e => { e with code := code } }
  | none =>
    let at' (i : Nat) : Nat := hostKey md (h.evbase + 32 * (i % 2 ^ h.evsize))
    match (span n (h.evwr - n)).reverse.find? fun i => memNat s.mem (at' i + 16) 2 == 0x11 && memNat s.mem (at' i + 20) 2 == src with
    | some i => s.write (cellsOf (at' i + 22) (leBytes 2 code))
    | none => s

/-- Room has appeared: where events were dropped, the next record is EVLOST; then the held ones follow in order (R347).
DEDUCED, safe (log entry 58). -/
def State.drainEvents (s : State) (md : Nat) : Nat → State
  | 0 => s
  | n + 1 =>
    let h := s.hub md
    if h.logFull then s
    else if h.dropped ≠ 0 then
      ((s.setHub md { h with dropped := 0 }).logEvent md
        { kind := 0x31, asid := none, src := srcHub 2, code := 0, payload := h.dropped }).drainEvents md n
    else match h.evheld with
      | e :: es => ((s.setHub md { h with evheld := es }).logEvent md e).drainEvents md n
      | [] => s

/-- Raise a saturating counter of the error log (R443). -/
def State.count (s : State) (md n k : Nat) : State :=
  let h := s.hub md
  s.setHub md { h with counts := sset h.counts n (min (sget 0 h.counts n + k) (2 ^ 64 - 1)) }

-- Errors of scratchpad words (R392) ------------------------------------------------------------------------------------------

/-- The addresses of the 8-byte words that a range touches. -/
def wordsIn (a n : Nat) : List Nat := if n = 0 then [] else (span (a / 8) ((a + n - 1) / 8 - a / 8 + 1)).map (· * 8)

/-- Find the errors that a read of words meets: a word not yet known becomes bad, is counted and posts one ECCUNC. -/
def State.findBad (s : State) (words : List Nat) : State :=
  words.foldl (fun s w =>
    if s.latent.contains w then
      let s := { s with latent := s.latent.filter (· != w), bad := w :: s.bad }
      let md := modOf (w / 2 ^ 20)
      let g := s.group (s.quad (quadOf (w / 2 ^ 20))).grp
      (s.count md 4 1).post md 0x102 (some g.asid) (srcHub 5) 0 w
    else s) s

def State.errIn (s : State) (words : List Nat) : Bool := words.any fun w => s.latent.contains w || s.bad.contains w

/-- The words of a range that a write covers only in part. -/
def partWords (a n : Nat) : List Nat := (wordsIn a n).filter fun w => decide (w < a) || decide (w + 8 > a + n)

/-- Words that a write covers whole become good, found or not (R392). -/
def State.healWords (s : State) (a n : Nat) : State :=
  let full := (wordsIn a n).filter fun w => decide (a ≤ w) && decide (w + 8 ≤ a + n)
  if full.isEmpty || (s.latent.isEmpty && s.bad.isEmpty) then s
  else { s with latent := s.latent.filter (!full.contains ·), bad := s.bad.filter (!full.contains ·) }

/-- The checks of a read of `n` bytes as one access of size `size` (R151, R36, R392). DEDUCED, unsafe (log entry 41). -/
def State.readCheck (s : State) (q : SeqId) (ea n size : Nat) : Option Trap :=
  match s.cause15 q ea size with
  | some c => some { code := tcAddr, addr := ea, info := c }
  | none =>
    if s.anyEngine ea n then some { code := tcOwner, addr := ea }
    else if s.errIn (wordsIn ea n) then some { code := tcPoison, addr := ea }
    else none

/-- The checks of a write: a bad word fails only where it is covered in part (R173, R392). -/
def State.writeCheck (s : State) (q : SeqId) (ea n size : Nat) : Option Trap :=
  match s.cause15 q ea size with
  | some c => some { code := tcAddr, addr := ea, info := c }
  | none =>
    if s.anyEngine ea n then some { code := tcOwner, addr := ea }
    else if s.errIn (partWords ea n) then some { code := tcPoison, addr := ea }
    else none

/-- The check of a record of n bytes read as K reads memory: every 8-byte word of it, in address order (R150, R151). -/
def State.recCheck (s : State) (q : SeqId) (ea n : Nat) : Option Trap :=
  match s.cause15 q ea 8 with
  | some c => some { code := tcAddr, addr := ea, info := c }
  | none => firstSome (fun i => s.readCheck q (ea + 8 * i) 8 8) (List.range (n / 8))

/-- The checks of a record of n bytes that stand before its read (R353, R371): the causes of every word's address, then the owner of every
granule. -/
def State.placeCheck (s : State) (q : SeqId) (ea n : Nat) : Option Trap :=
  let words := (List.range (n / 8)).map fun i => ea + 8 * i
  match firstSome (fun a => (s.cause15 q a 8).map fun c => ({ code := tcAddr, addr := a, info := c } : Trap)) words with
  | some t => some t
  | none => (words.find? fun a => s.anyEngine a 8).map fun a => { code := tcOwner, addr := a }

/-- The check of a record of n bytes that K writes: every 8-byte word of it, in address order. -/
def State.recWriteCheck (s : State) (q : SeqId) (ea n : Nat) : Option Trap :=
  match s.cause15 q ea 8 with
  | some c => some { code := tcAddr, addr := ea, info := c }
  | none => firstSome (fun i => s.writeCheck q (ea + 8 * i) 8 8) (List.range (n / 8))

/-- The words whose error a failing record read has found. -/
def State.foundBy (s : State) (t : Trap) (ea n : Nat) : State :=
  if t.code = tcPoison then s.findBad ((wordsIn ea n).filter fun w => decide (w ≤ t.addr)) else s

-- Sluices (R21 to R23) ---------------------------------------------------------------------------------------------------------

/-- Sluice numbers in the order of SLU (R257). -/
def slKL : Nat := 0
def slKX : Nat := 1
def slKS : Nat := 2
def slLK : Nat := 3
def slLX : Nat := 4
def slXL : Nat := 5
def slXK : Nat := 6
def slXS : Nat := 7
def slSX : Nat := 8
def slSK : Nat := 9

def Core.tokens (c : Core) (n : Nat) : Nat := (sget [] c.slu n).length
/-- Push a token that tells of the stores of `rel`. -/
def Core.pushTok (c : Core) (n : Nat) (rel : List Nat) : Core := { c with slu := sset c.slu n (sget [] c.slu n ++ [rel]) }
def Core.popTok (c : Core) (n : Nat) : Core := { c with slu := sset c.slu n (sget [] c.slu n).tail }

/-- Push a token where a PA names a sluice. -/
def Core.pushOpt (c : Core) (o : Option Nat) (rel : List Nat) : Core :=
  match o with
  | some n => c.pushTok n rel
  | none => c

/-- SMARKs of an id that are complete (R190). -/
def Core.smarks (c : Core) (m : Nat) : Nat := (sget [] c.smark m).length

-- Completion of L and S work in flight ---------------------------------------------------------------------------------------------

/-- The value of a load-queue entry: each element as it arrived, or read now at its planned address, or the fill value (R176, R180). -/
def State.entryVal (s : State) (q : SeqId) (e : LEntry) : Vec :=
  let n := e.width / 8
  BitVec.ofNat 2048 ((e.plan.mapIdx fun i p => (match p with
      | some a => (sfind e.got i).getD (s.read q a n) % 2 ^ e.width
      | none => e.fill % 2 ^ e.width)).reverse.foldl (fun acc v => acc * 2 ^ e.width + v) 0)

/-- An entry in flight has yet to read a byte of a range. -/
def LEntry.owes (e : LEntry) (a n : Nat) : Bool :=
  !e.present && (e.plan.mapIdx fun i p => match p with
    | some b => (sfind e.got i).isNone && decide (a < b + e.width / 8) && decide (b < a + n)
    | none => false).contains true

/-- An entry among `l` has yet to read a byte of a range: a later load of L reads none of it first (R289, R294). -/
def owedIn (l : List LEntry) (a n : Nat) : Bool := l.any fun e => e.owes a n

/-- The elements of an entry that have not arrived may be read: no entry before it in `l` has yet to read a location of theirs (R289,
R294 to R299, R303). -/
def LEntry.ready (e : LEntry) (l : List LEntry) : Bool :=
  let open' := l.filter fun x => !x.present
  open'.isEmpty || (e.plan.mapIdx fun i p => match p with
    | some a => (sfind e.got i).isSome || !owedIn open' a (e.width / 8)
    | none => true).all (· == true)

/-- The elements of an entry that lie in a range, and have arrived, keep their values: a later load of L has read the location (R289).
DEDUCED, unsafe (log entry 19). -/
def LEntry.fix (e : LEntry) (a n : Nat) : LEntry :=
  if e.present then e
  else { e with firm := e.firm ++ ((e.plan.mapIdx fun i p => (i, p)).filter fun x => (match x.2 with
    | some b => (sfind e.got x.1).isSome && decide (a < b + e.width / 8) && decide (b < a + n) && !e.firm.contains x.1
    | none => false)).map Prod.fst }

/-- A load of L reads ranges; the first `j` entries of the load queue come before it. -/
def Core.fixLoads (c : Core) (j : Nat) (rs : List (Nat × Nat)) : Core :=
  { c with lq := c.lq.mapIdx fun i e => if i < j then rs.foldl (fun e r => e.fix r.1 r.2) e else e }

/-- The ranges that an entry reads. -/
def LEntry.ranges (e : LEntry) : List (Nat × Nat) := e.plan.filterMap fun p => p.map fun a => (a, e.width / 8)

/-- L has observed the stores that an entry reads. -/
def State.observeEntry (s : State) (u : Nat) (e : LEntry) : State :=
  if s.transit.isEmpty then s
  else s.observe { unit := u, kind := .l } fun st => e.plan.any fun p => match p with
    | some a => st.inRange a (e.width / 8)
    | none => false

/-- The entry of the load queue with this id becomes present, and its PA token is pushed (R176). -/
def State.fillEntry (s : State) (u id : Nat) : State :=
  let c := s.core u
  match c.lq.find? (fun e => e.id == id && !e.present) with
  | none => s
  | some e =>
    let v := s.entryVal { unit := u, kind := .l } e
    let c := c.fixLoads (c.lq.findIdx fun x => x.id == id) e.ranges
    let lq := c.lq.map fun x => if x.id = id then { x with present := true, val := v } else x
    (s.observeEntry u e).setCore u ({ c with lq := lq }.pushOpt e.pa (s.tells { unit := u, kind := .l } 1))

/-- An element of the entry lies on a module that the core no longer reaches (R401). -/
def State.entryLost (s : State) (u : Nat) (e : LEntry) : Bool :=
  e.plan.any fun p => match p with
    | some a => !s.present (modOf (a / 2 ^ 20)) || !s.reachable (modOf u) (modOf (a / 2 ^ 20))
    | none => false

/-- Stores perform at a scope. DEDUCED, unsafe (log entry 16). -/
def State.raise (s : State) (ids : List Nat) (lvl : Nat) : State := ids.foldl (fun s i => s.perform i lvl) s

/-- A unit answers an instruction that waits at it: the instruction completes. -/
def State.answer (s : State) (q : SeqId) (d : BitVec 5) (v : Nat) : State :=
  ((s.setCtl q { s.ctl q with wait := false }).setK q d (BitVec.ofNat 64 v)).fin q

/-- What a semaphore tells of to a stream (R302, R303). -/
def semTells (rel : List (SeqId × Nat × Nat)) (q : SeqId) : List Nat :=
  (rel.filter fun e => decide (e.2.2 ≥ commonScope e.1 q)).map fun e => e.2.1

/-- A stream is to act on a semaphore: the stores that its fences have placed before the act (R303, R304). DEDUCED, unsafe (log entry 82). -/
def State.noteSem (s : State) (q : SeqId) (qd n : Nat) : State :=
  let x := s.quad qd
  let old := (sget [] x.semRel n).filter fun e => s.transit.any fun st => st.id == e.2.1
  let rel := old ++ s.transit.filterMap fun st => if st.who = q then (match st.fenceBy q with
    | some f => if f = 0 then none else some (q, st.id, f)
    | none => none) else none
  s.setQuad qd { x with semRel := if rel.isEmpty then sdel x.semRel n else sset x.semRel n rel }

/-- Semaphore waiters in joining order (R377): each whose condition now holds is satisfied, its subtraction applied before
the next is tested. Answers the value left and the waiters that stay. -/
def State.serveWaiters (rel : List (SeqId × Nat × Nat)) (s : State) : Nat → List SemWaiter → State × Nat × List SemWaiter
  | v, [] => (s, v, [])
  | v, w :: ws =>
    if v ≥ w.amount then
      State.serveWaiters rel ((s.mark w.q (semTells rel w.q)).answer w.q w.d v) (if w.peek then v else v - w.amount) ws
    else
      let r := State.serveWaiters rel s v ws
      (r.1, r.2.1, w :: r.2.2)

/-- The arbiter sets a semaphore and runs through its waiters (R376, R377). -/
def State.setSem (s : State) (qd n v : Nat) : State :=
  let r := State.serveWaiters (sget [] (s.quad qd).semRel n) s v (sget [] (s.quad qd).waiters n)
  let q := r.1.quad qd
  r.1.setQuad qd { q with sem := sset q.sem n r.2.1, waiters := sset q.waiters n r.2.2 }

/-- SEMADD's action (R376). -/
def State.semAdd (s : State) (qd n amount : Nat) : State :=
  s.setSem qd n (min (sget 0 (s.quad qd).sem n + amount) 0xFFFFFFFF)

/-- Send a partial to its home unit. -/
def State.sendPart (s : State) (q : SeqId) (md asid gid : Nat) (h : GHalf) (ov : Nat) : State :=
  let c := s.ctx md asid
  let s' : State := { s with ids := s.ids + 1 }
  s'.setCtx md asid { c with parts := c.parts ++ [{ id := s.ids, src := q, gid := gid, half := h, ov := ov }] }

/-- The oldest issued S instruction performs at core scope (R187, R189): its stores, its gauge partial, its marker and its PA
token. A semaphore add of PUTSIG goes last: its payload, and what S has observed, perform at every scope before it is made (R303).
DEDUCED, unsafe (log entry 32). -/
def State.performS (s : State) (u : Nat) : State :=
  let q : SeqId := { unit := u, kind := .s }
  match (s.core u).spend with
  | [] => s
  | p :: rest =>
    let s := s.raise p.ids 1
    let s := match p.gauge with
      | some (g, h) => s.sendPart q (modOf u) (s.asidOf q) g h 0
      | none => s
    match p.sem with
    | some (qd, n, a) =>
      if p.ids.isEmpty then
        let s := (s.land fun st => p.pay.contains st.id).acquire q
        ((s.setCore u ({ s.core u with spend := rest }.pushOpt p.pa (s.tells q 1))).noteSem q qd n).semAdd qd n a
      else s.setCore u { s.core u with spend := { p with ids := [], gauge := none, pay := p.ids } :: rest }
    | none =>
      let c := { s.core u with spend := rest }.pushOpt p.pa (s.tells q 1)
      s.setCore u (match p.mark with
        | some m => { c with smark := sset c.smark m (sget [] c.smark m ++ [s.tells q 1]) }
        | none => c)

/-- The semaphore add at the head of S waits for its payload (R189). DEDUCED, unsafe (log entry 32). -/
def State.signalWaits (s : State) (u : Nat) : Bool :=
  match (s.core u).spend with
  | p :: _ => p.sem.isSome && p.ids.isEmpty && s.transit.any fun st => p.pay.contains st.id
  | [] => false

-- Taking a trap (R312, R313, R315, R316) -------------------------------------------------------------------------------------------

/-- Earlier instructions of a trapping L or S stream complete (R178); a load from a module out of reach stays for a trap of its own (R401).
DEDUCED, unsafe (log entries 19, 22). -/
def State.finishOwn (s : State) (q : SeqId) : State :=
  match q.kind with
  | .l => (s.core q.unit).lq.foldl (fun s e => if e.present || s.entryLost q.unit e then s else s.fillEntry q.unit e.id) s
  | .s => (s.core q.unit).spend.foldl (fun s _ => (s.performS q.unit).performS q.unit) s
  | _ => s

/-- Fields 8 and 9 of the frame (R313): the loop, and the issue delay that remains at the stop (R312). -/
def Core.loopWords (c : Core) : Word × Word :=
  let l := c.loop
  if l.act then
    (BitVec.ofNat 64 (l.n * 2 ^ 32 + l.k),
     BitVec.ofNat 64 (l.rsc * 2 ^ 58 + (c.xnext - c.xnow) % 2 ^ 14 * 2 ^ 44 + 2 ^ 43 + (l.sl - 1) * 2 ^ 39 + (l.ns - 1) * 2 ^ 37
       + l.turn * 2 ^ 32 + l.q))
  else (0, BitVec.ofNat 64 ((c.xnext - c.xnow) % 2 ^ 14 * 2 ^ 44))

/-- The oldest engine fault record leaves the queue into fields 10 and 11 (R319); none leaves them zero. -/
def Ctl.takeFault (c : Ctl) : Word × Word × List EngRec :=
  match c.faults with
  | [] => (0, 0, [])
  | r :: rs =>
    (BitVec.ofNat 64 (r.num % 2 ^ 40 * 2 ^ 24 + r.barge % 16 * 2 ^ 20 + r.kind % 16 * 2 ^ 16 + r.code % 2 ^ 16),
      BitVec.ofNat 64 r.addr, rs)

/-- The waiters of a sequencer leave a quad's semaphores. -/
def Quad.dropWaiter (x : Quad) (f : SeqId → Bool) : Quad := { x with waiters := x.waiters.map fun y => (y.1, y.2.filter fun w => !f w.q) }

/-- Those of the quads that a context has in its save area, which a waiter of another quad outlives (R322, R377). -/
def Ctx.dropWaiter (c : Ctx) (f : SeqId → Bool) : Ctx := { c with slots := c.slots.map fun x => { x with quad := x.quad.dropWaiter f } }

/-- A control sequencer that stops leaves the unit at which its instruction waits: the instruction has not issued. DEDUCED, unsafe (log entry 50). -/
def State.withdraw (s : State) (q : SeqId) : State :=
  if (s.ctl q).wait then
    let bars (m : SMap Barrier) : SMap Barrier := m.map fun x => (x.1, { x.2 with held := x.2.held.filter fun h => h.q != q })
    { s.setCtl q { s.ctl q with wait := false } with
      quads := s.quads.map fun x => (x.1, { x.2.dropWaiter (· == q) with bars := bars x.2.bars })
      ctxs := s.ctxs.map fun x => (x.1, x.2.dropWaiter (· == q))
      dieBars := bars s.dieBars, pkgBars := bars s.pkgBars, podBars := bars s.podBars
      basin := s.basin.map fun x => (x.1, { x.2 with subs := x.2.subs.filter fun y => !(y.2.q == q && y.2.wait.isSome) }) }
  else s

/-- Stop for a trap of sequencer `q`, whose own resume address is `res`: the core, or the quad control core alone, stops; the
frame records it; K enters the handler at TVEC, or the core waits for the host and a TRAP event is posted. DEDUCED, unsafe (log entry 17). -/
def State.stopAt (s : State) (q : SeqId) (t : Trap) (res : Word) : State :=
  let isCore := q.unit % 8 < 4
  let kq : SeqId := if isCore then { q with kind := .k } else q
  let s := s.withdraw kq
  let c := s.ctl q
  let own := strmNo q.kind
  let k := s.core q.unit
  let nested := c.mode != .normal
  let f := c.frame
  let lw := if isCore then k.loopWords else (0, 0)
  let fl := c.takeFault
  let pcOf (n : Nat) (p : Pos) (old : Word) : Word :=
    if own = n then res else if nested then old else p.resumeWord
  let f : Frame := { f with
    cause := BitVec.ofNat 64 (t.code * 2 ^ (16 * own))
    kpc := pcOf 0 c.pos f.kpc
    lpc := if isCore then pcOf 1 k.lpos f.lpc else 0
    xpc := if isCore then pcOf 2 k.xpos f.xpc else 0
    spc := if isCore then pcOf 3 k.spos f.spc else 0
    addr := BitVec.ofNat 64 t.addr
    info := BitVec.ofNat 64 t.info
    xl := if nested then f.xl else lw.1
    xr := if nested then f.xr else lw.2
    eng := fl.1, enga := fl.2.1, step := 0 }
  let hub := s.hub (modOf q.unit)
  let kept := f.tvec == 0 && (!hub.logFull || decide (hub.evheld.length < 1024))
  -- a stream that is stepped alone stops alone (R320)
  let c := { c with faults := fl.2.2, only := none, stepDone := false
                    joint := if isCore && !nested && c.only.isNone then some (s.clock, c.pos, if kept then some hub.evwr else none) else none
                    brkPass := if t.code = tcBreak then sset c.brkPass own res.toNat else c.brkPass }
  let k31 := sget 0 c.k 31
  let c := if nested then { c with frame := f }
    else { c with frame := { f with ksav := k31 }, k := sset c.k 31 f.scr }
  if !nested && f.tvec != 0 then s.setCtl q { c with mode := .handler, pos := posOfResume f.tvec }
  else
    (s.setCtl q { c with mode := .stopped }).post (modOf q.unit) 0x11 (some (s.asidOf q)) (srcOf kq) t.code (s.logical kq)

/-- Take a trap at sequencer `q`, whose own resume address is `res`, once its earlier instructions are complete.
DEDUCED, unsafe (log entries 17, 18). -/
def State.trapAt (s : State) (q : SeqId) (t : Trap) (res : Word) : State := (s.finishOwn q).stopAt q t res

/-- Take a precise trap: the faulting instruction re-issues (AFTER = 0, R315). DEDUCED, unsafe (log entry 17). -/
def State.trap (s : State) (q : SeqId) (t : Trap) : State := s.trapAt q t (BitVec.ofNat 64 (s.pc q))

/-- ILLEGAL_INST (R135, R136). -/
def State.illegal (s : State) (q : SeqId) : State := s.trap q { code := tcIllegalInst }

/-- A trap that a record or list read raises; the errors it found are recorded (R392). DEDUCED, unsafe (log entry 19). -/
def State.trapRead (s : State) (q : SeqId) (t : Trap) (ea n : Nat) : State := (s.foundBy t ea n).trap q t

/-- The held VQNT of the trap now left takes SCALE from the handler's `govf` when SV is set (R113): it is the latest entry that
re-executes. Where K or L has trapped in the same cycle, INFO holds that trap's word and no `govf` (R313), and SV counts as 0.
DESIGN CHOICE, safe (log entry 8). DEDUCED, unsafe (log entries 25, 88). -/
def rerunWith (govf : Nat) (pend : List XPend) : List XPend :=
  let last := pend.foldl (fun a p => if p.rerun.isSome then p.id else a) 0
  pend.map fun p => match p.rerun with
    | some r => if p.id = last ∧ bitAt govf 3 then { p with rerun := some { r with ov := some (signed 8 (field govf 4 8)) } } else p
    | none => p

/-- The resume addresses of the frame by stream number (R313). -/
def Frame.pcOf (f : Frame) (n : Nat) : Word := if n = 0 then f.kpc else if n = 1 then f.lpc else if n = 2 then f.xpc else f.spc

/-- A stream that stopped at a breakpoint passes it once, if it resumes there (R327). -/
def Frame.passes (f : Frame) (m : SMap Nat) : SMap Nat := m.filter fun x => (f.pcOf x.1).toNat == x.2

/-- A load that is issued again reads memory afresh (R178, R318), but for a location that a later load of L has read: it is not to return
a newer value than that one (R289, R294). DEDUCED, unsafe (log entry 19). -/
def LEntry.again (e : LEntry) : LEntry := if e.present then e else { e with got := e.got.filter fun x => e.firm.contains x.1 }

/-- L goes on at the resume address `res` of the frame. Where a load in flight had faulted, its entry is read afresh; a handler
that names another address drops it (R178, R315, R318). DEDUCED, unsafe (log entry 19). -/
def Core.resumeL (k : Core) (res : Word) : Core :=
  match k.lheld with
  | none => { k with lpos := posOfResume res }
  | some (id, pc, pos) =>
    if res = BitVec.ofNat 64 pc then { k with lpos := pos, lheld := none }
    else { k with lheld := none, lq := k.lq.filter fun e => e.id != id
                  lpos := if res = BitVec.ofNat 64 (pc ||| 1) then pos else posOfResume res }

/-- A handler that makes X resume after the body instruction at which it stood skips it: the loop has met that place (R222, R224, R315).
DEDUCED, unsafe (log entry 95). -/
def Core.skipPlace (k : Core) (res : Word) : XLoop :=
  match k.xpos with
  | .at a => if k.loop.act ∧ k.loop.place < k.loop.ns * k.loop.sl ∧ res = BitVec.ofNat 64 (a ||| 1) then { k.loop with place := k.loop.place + 1 } else k.loop
  | _ => k.loop

/-- The return from a trap (R315, R317, R318, R320): k31 ← KSAV, every stream resumes at its frame address, and a STEP mask
lets one stream run alone. Work in flight is re-injected by going on where it stood, since X time has not moved. -/
def State.resume (s : State) (q : SeqId) : State :=
  let c := s.ctl q
  let f := c.frame
  let isCore := q.unit % 8 < 4
  let k := s.core q.unit
  let only : Option Nat := if f.step = 1 then some 0 else if f.step = 2 then some 1 else if f.step = 4 then some 2
    else if f.step = 8 then some 3 else none
  let ended (n : Nat) : Bool := f.pcOf n == 0
  let c := { c with
    k := sset c.k 31 f.ksav, mode := .normal, pos := posOfResume f.kpc, only := only, brkPass := f.passes c.brkPass, joint := none
    stepDone := match only with
      | some n => ended n
      | none => false }
  let s := s.setCtl q c
  if isCore then
    let k := { k with lq := k.lq.map LEntry.again }.resumeL f.lpc
    s.setCore q.unit { k with xsync := s.tick, loop := k.skipPlace f.xpc
                              pend := if field f.cause.toNat 32 16 = tcGaugeOverflow ∧ field f.cause.toNat 0 32 = 0 then rerunWith f.info.toNat k.pend else k.pend
                              xpos := posOfResume f.xpc, spos := posOfResume f.spc }
  else s

end Sys2Proof.Machine
end

