-- ==== Sys2Proof/Machine/Kint.lean ====
section
/-! DEFINITION. The arithmetic, immediate and control-transfer instructions of K, QF and QU (spec 06, R146 to R153). -/

namespace Sys2Proof.Machine

open Sys2Proof

/-- The outcome of a step of the machine. -/
abbrev Out := Host.Outcome State Fault Refusal

/-- The instruction is one of K, QF and QU; another sequencer that issues it traps (R135). -/
def onK (s : State) (f : SeqId → State) : Out :=
  .next (if isCtl s.cur.kind then f s.cur else s.illegal s.cur)

/-- An instruction that only a core's K issues (R131). -/
def onCoreK (s : State) (f : SeqId → State) : Out :=
  .next (if s.cur.kind = .k then f s.cur else s.illegal s.cur)

/-- k[d] ← v, and the stream goes on (R142). -/
def State.finK (s : State) (q : SeqId) (d : BitVec 5) (v : Word) : State := (s.setK q d v).fin q

/-- A two-source operation (R146). -/
def aluK (s : State) (d a b : BitVec 5) (f : Word → Word → Word) : Out :=
  onK s fun q => s.finK q d (f (s.getK q a) (s.getK q b))

/-- A one-source operation. -/
def immK (s : State) (d a : BitVec 5) (f : Word → Word) : Out :=
  onK s fun q => s.finK q d (f (s.getK q a))

def ofBool (b : Bool) : Word := if b then 1 else 0

/-- The signed quotient, truncated toward zero, with the borderline cases of R147. -/
def divK (a b : Word) : Word := if b = 0 then BitVec.allOnes 64 else toWord (a.toInt.tdiv b.toInt)
def divuK (a b : Word) : Word := if b = 0 then BitVec.allOnes 64 else BitVec.ofNat 64 (a.toNat / b.toNat)
def remK (a b : Word) : Word := if b = 0 then a else toWord (a.toInt.tmod b.toInt)
def remuK (a b : Word) : Word := if b = 0 then a else BitVec.ofNat 64 (a.toNat % b.toNat)
/-- Bits [127:64] of the signed and of the unsigned product (R146). -/
def mulhK (a b : Word) : Word := toWord (a.toInt * b.toInt / (2 ^ 64 : Int))
def mulhuK (a b : Word) : Word := BitVec.ofNat 64 (a.toNat * b.toNat / 2 ^ 64)
/-- The low six bits of a shift amount (R146). -/
def amt (b : Word) : Nat := b.toNat % 64

def execAdd (d a b : BitVec 5) (s : State) : Out := aluK s d a b (· + ·)
def execSub (d a b : BitVec 5) (s : State) : Out := aluK s d a b (· - ·)
def execAnd (d a b : BitVec 5) (s : State) : Out := aluK s d a b (· &&& ·)
def execOr (d a b : BitVec 5) (s : State) : Out := aluK s d a b (· ||| ·)
def execXor (d a b : BitVec 5) (s : State) : Out := aluK s d a b (· ^^^ ·)
def execShl (d a b : BitVec 5) (s : State) : Out := aluK s d a b fun x y => x <<< amt y
def execShr (d a b : BitVec 5) (s : State) : Out := aluK s d a b fun x y => x >>> amt y
def execSra (d a b : BitVec 5) (s : State) : Out := aluK s d a b fun x y => x.sshiftRight (amt y)
def execMul (d a b : BitVec 5) (s : State) : Out := aluK s d a b (· * ·)
def execMulh (d a b : BitVec 5) (s : State) : Out := aluK s d a b mulhK
def execMulhu (d a b : BitVec 5) (s : State) : Out := aluK s d a b mulhuK
def execDiv (d a b : BitVec 5) (s : State) : Out := aluK s d a b divK
def execDivu (d a b : BitVec 5) (s : State) : Out := aluK s d a b divuK
def execRem (d a b : BitVec 5) (s : State) : Out := aluK s d a b remK
def execRemu (d a b : BitVec 5) (s : State) : Out := aluK s d a b remuK
def execMin (d a b : BitVec 5) (s : State) : Out := aluK s d a b fun x y => if x.toInt ≤ y.toInt then x else y
def execMax (d a b : BitVec 5) (s : State) : Out := aluK s d a b fun x y => if x.toInt ≤ y.toInt then y else x
def execMinu (d a b : BitVec 5) (s : State) : Out := aluK s d a b fun x y => if x.toNat ≤ y.toNat then x else y
def execMaxu (d a b : BitVec 5) (s : State) : Out := aluK s d a b fun x y => if x.toNat ≤ y.toNat then y else x

def execCeq (d a b : BitVec 5) (s : State) : Out := aluK s d a b fun x y => ofBool (x == y)
def execCne (d a b : BitVec 5) (s : State) : Out := aluK s d a b fun x y => ofBool (x != y)
def execClt (d a b : BitVec 5) (s : State) : Out := aluK s d a b fun x y => ofBool (decide (x.toInt < y.toInt))
def execCltu (d a b : BitVec 5) (s : State) : Out := aluK s d a b fun x y => ofBool (decide (x.toNat < y.toNat))
def execCge (d a b : BitVec 5) (s : State) : Out := aluK s d a b fun x y => ofBool (decide (x.toInt ≥ y.toInt))
def execCgeu (d a b : BitVec 5) (s : State) : Out := aluK s d a b fun x y => ofBool (decide (x.toNat ≥ y.toNat))

/-- SEL (R148). -/
def execSel (d a b cr : BitVec 5) (s : State) : Out :=
  onK s fun q => s.finK q d (if s.getK q cr ≠ 0 then s.getK q a else s.getK q b)

-- Immediate forms (R149)
def execAddi (d a : BitVec 5) (imm : BitVec 16) (s : State) : Out := immK s d a (· + sext16 imm)
def execAndi (d a : BitVec 5) (imm : BitVec 16) (s : State) : Out := immK s d a (· &&& zext16 imm)
def execOri (d a : BitVec 5) (imm : BitVec 16) (s : State) : Out := immK s d a (· ||| zext16 imm)
def execXori (d a : BitVec 5) (imm : BitVec 16) (s : State) : Out := immK s d a (· ^^^ zext16 imm)
def execShli (d a : BitVec 5) (n : BitVec 6) (s : State) : Out := immK s d a (· <<< n.toNat)
def execShri (d a : BitVec 5) (n : BitVec 6) (s : State) : Out := immK s d a (· >>> n.toNat)
def execSrai (d a : BitVec 5) (n : BitVec 6) (s : State) : Out := immK s d a fun x => x.sshiftRight n.toNat
def execLi (d : BitVec 5) (imm : BitVec 16) (s : State) : Out := immK s d 0 fun _ => zext16 imm
def execOrs16 (d a : BitVec 5) (imm : BitVec 16) (s : State) : Out := immK s d a (· ||| zext16 imm <<< 16)
def execOrs32 (d a : BitVec 5) (imm : BitVec 16) (s : State) : Out := immK s d a (· ||| zext16 imm <<< 32)
def execOrs48 (d a : BitVec 5) (imm : BitVec 16) (s : State) : Out := immK s d a (· ||| zext16 imm <<< 48)
def execSlti (d a : BitVec 5) (imm : BitVec 16) (s : State) : Out :=
  immK s d a fun x => ofBool (decide (x.toInt < (sext16 imm).toInt))

-- Control transfers (R153)

/-- A conditional branch. -/
def branchK (s : State) (a b : BitVec 5) (slot : BitVec 3) (line : BitVec 13) (c : Word → Word → Bool) : Out :=
  onK s fun q =>
    let pc := s.pc q
    if c (s.getK q a) (s.getK q b) then s.goto q (.target (branchTarget pc slot line) pc) else s.fin q

def execBeq (a b : BitVec 5) (slot : BitVec 3) (line : BitVec 13) (s : State) : Out :=
  branchK s a b slot line (· == ·)
def execBne (a b : BitVec 5) (slot : BitVec 3) (line : BitVec 13) (s : State) : Out :=
  branchK s a b slot line (· != ·)
def execBlt (a b : BitVec 5) (slot : BitVec 3) (line : BitVec 13) (s : State) : Out :=
  branchK s a b slot line fun x y => decide (x.toInt < y.toInt)
def execBge (a b : BitVec 5) (slot : BitVec 3) (line : BitVec 13) (s : State) : Out :=
  branchK s a b slot line fun x y => decide (x.toInt ≥ y.toInt)
def execBltu (a b : BitVec 5) (slot : BitVec 3) (line : BitVec 13) (s : State) : Out :=
  branchK s a b slot line fun x y => decide (x.toNat < y.toNat)
def execBgeu (a b : BitVec 5) (slot : BitVec 3) (line : BitVec 13) (s : State) : Out :=
  branchK s a b slot line fun x y => decide (x.toNat ≥ y.toNat)

def execCall (a : BitVec 5) (slot : BitVec 3) (line : BitVec 13) (s : State) : Out :=
  onK s fun q =>
    let pc := s.pc q
    (s.setK q a (BitVec.ofNat 64 pc)).goto q (.target (branchTarget pc slot line) pc)

/-- The yield entry of a loop, by stream number and slot address (R267). -/
def Kernel.yieldAt (k : Kernel) (stream pc : Nat) : Option Yield := k.yields.find? fun y => y.stream == stream && y.loop == pc

/-- A stream that is asked to yield runs its save sequence; `res` is where it resumes (R321, R322). -/
def State.yieldTo (s : State) (q : SeqId) (y : Yield) (res : Pos) : State :=
  let s := s.retire q
  if y.save < y.restore then (s.setPhase q (.save y.restore res y.restore y.fin)).setPos q (.next (y.save - 4))
  else s.setPhase q (.saved res y.restore y.fin)

/-- A taken iteration of a counted loop: the stream goes to the loop's target, or yields there when its core is asked to
and the loop is a yield point (R321). -/
def State.loopTaken (s : State) (q : SeqId) (pc tgt : Nat) : State :=
  let c := s.ctl q
  match (s.kernelOf q).yieldAt (strmNo q.kind) pc with
  | some y => if c.req && s.phase q == .run && c.mode == .normal then s.yieldTo q y (.target tgt pc) else s.goto q (.target tgt pc)
  | none => s.goto q (.target tgt pc)

def execKloop (a : BitVec 5) (slot : BitVec 3) (line : BitVec 13) (s : State) : Out :=
  onK s fun q =>
    let pc := s.pc q
    let v := s.getK q a - 1
    if a = 0 then s.illegal q
    else if v ≠ 0 then (s.setK q a v).loopTaken q pc (branchTarget pc slot line)
    else (s.setK q a v).fin q

def execJr (a : BitVec 5) (s : State) : Out :=
  onK s fun q => s.goto q (.target (s.getK q a).toNat (s.pc q))

/-- JR.RET: the next slot of the stream after address k[A] (R153). -/
def execJrRet (a : BitVec 5) (s : State) : Out :=
  onK s fun q =>
    let t := (s.getK q a).toNat
    if t % 4 ≠ 0 ∨ t / 4 % 8 = 0 then s.goto q (.target t (s.pc q)) else s.goto q (.next t)

end Sys2Proof.Machine
end

