-- ==== Sys2Proof/Machine/Gauge.lean ====
section
/-! DEFINITION. Gauge records: partials, merges, closes and quantising (spec 04, R95 to R115), and the instructions of K
that act on them (spec 06, R167 to R169). -/

namespace Sys2Proof.Machine

open Sys2Proof

def sat32 (x : Nat) : Nat := min x 0xFFFFFFFF
def sat64 (x : Nat) : Nat := min x (2 ^ 64 - 1)

/-- floor(log2 |x|) of a finite nonzero value. -/
def Val.ilog : Val → Int
  | .num _ m e _ => (m.log2 : Int) + e
  | _ => 0

/-- The bin of an exponent (R102). -/
def binOf (b : Int) : Nat := if b ≤ -24 then 0 else if b ≥ 15 then 39 else (b + 24).toNat

/-- |x| as an f32 code, rounded toward +∞ where it is not exact (R102). -/
def magCode (x : Val) : Nat :=
  match x with
  | .num _ m e _ =>
    if m.log2 ≥ 24 then
      let k := m.log2 - 23
      (convert .f32 (.num false (ceilDiv m (2 ^ k)) (e + k) false) .rne false 0).1
    else (convert .f32 (.num false m e false) .rne false 0).1
  | _ => 0

/-- What one stored element adds (R102). -/
def GHalf.elem (h : GHalf) (f : Fmt) (code : Nat) : GHalf :=
  let h := { h with e := sat64 (h.e + 1) }
  let v : Val := if f.isInt then .ofInt (intVal f code) else decode f code
  match v with
  | .nan _ => { h with n := sat32 (h.n + 1) }
  | .inf _ => { h with i := sat32 (h.i + 1) }
  | .num _ m _ _ =>
    if m = 0 then { h with z := sat32 (h.z + 1) }
    else
      let b := binOf v.ilog
      { h with amax := max h.amax (magCode v), bins := sset h.bins b (sat32 (sget 0 h.bins b + 1)) }

/-- The partial of a write's final values (R102). -/
def partialOf (f : Fmt) (codes : List Nat) : GHalf := codes.foldl (fun h c => h.elem f c) .zero

/-- Merging: maximum and saturating sums (R103). -/
def GHalf.merge (a b : GHalf) : GHalf :=
  { amax := max a.amax b.amax, z := sat32 (a.z + b.z), n := sat32 (a.n + b.n), i := sat32 (a.i + b.i), e := sat64 (a.e + b.e)
    bins := b.bins.foldl (fun m kv => sset m kv.1 (sat32 (sget 0 m kv.1 + kv.2))) a.bins }

/-- The binary8 format of an index (R99). -/
def fmtOfIndex (j : Nat) : Fmt := .b8 (j / 4 + 1) (bitAt j 1) (bitAt j 0)

/-- c·2^s ≤ max finite of a format, c an f32 code. -/
def fitsScaled (c : Nat) (s : Int) (f : Fmt) : Bool :=
  match decode .f32 c with
  | .num _ m e _ =>
    let mx := maxFinMag f
    !magLt mx.1 mx.2 m (e + s)
  | _ => false

/-- The largest s with c·2^s ≤ maxfin (R107): the exponents' difference, or one less. -/
def scaleFor (c : Nat) (f : Fmt) : Int :=
  match decode .f32 c with
  | .num _ m e _ =>
    let mx := maxFinMag f
    let s := ((mx.1.log2 : Int) + mx.2) - ((m.log2 : Int) + e)
    if fitsScaled c s f then s else s - 1
  | _ => 0

/-- The generations that a quantisation may use which is ordered after the closes before tick `sync` (R110): GEN and exponents, the latest
first, each with its OVM. DEDUCED, unsafe (log entry 83). -/
def Gauge.choices (g : Gauge) (sync : Nat) : List (Nat × List Int × Bool) :=
  (g.gen, g.sx, g.ovm) :: (g.past.takeWhile fun x => decide (x.1 > sync)).map Prod.snd

/-- The one that it uses. DEDUCED, unsafe (log entry 83). -/
def Gauge.chosen (g : Gauge) (sync tick : Nat) : Nat × List Int × Bool :=
  let l := g.choices sync
  l.getD (Config.generation tick % l.length) (g.gen, g.sx, g.ovm)

/-- The close of a generation (R107) at a tick, with a new configuration or the old one. -/
def Gauge.close (g : Gauge) (cfg : Option (Nat × Bool)) (now : Nat) : Gauge :=
  let h := g.half
  let margin : Nat := match cfg with
    | some c => c.1
    | none => g.margin
  let ovm : Bool := match cfg with
    | some c => c.2
    | none => g.ovm
  let raw : List Int := (List.range 28).map fun j => if h.amax = 0 then (0 : Int) else scaleFor h.amax (fmtOfIndex j) - Int.ofNat margin
  let clamped := raw.any fun s => decide (s < -128) || decide (s > 127)
  let full := h.z == 0xFFFFFFFF || h.n == 0xFFFFFFFF || h.i == 0xFFFFFFFF || h.bins.any (fun b => b.2 == 0xFFFFFFFF)
    || h.e == 2 ^ 64 - 1
  { g with
    half := .zero, camax := h.amax, ccnt := h.e, gen := (g.gen + 1) % 2 ^ 32
    sx := raw.map fun s => max (-128) (min 127 s)
    cflg := (if h.amax = 0 then 1 else 0) + (if h.n ≠ 0 then 2 else 0) + (if h.i ≠ 0 then 4 else 0) + (if full then 8 else 0)
      + (if clamped then 16 else 0)
    margin := margin, ovm := ovm, past := (now, g.gen, g.sx, g.ovm) :: g.past }

/-- The 2048 bits of a record (R98). -/
def Gauge.bits (g : Gauge) : Nat :=
  let h := g.half
  let bins := (List.range 40).foldl (fun a i => a + sget 0 h.bins i * 2 ^ (192 + 32 * i)) 0
  let sx := (List.range 28).foldl (fun a j => a + wrapNat 8 (g.sx.getD j 0) * 2 ^ (1664 + 8 * j)) 0
  h.amax + h.z * 2 ^ 32 + h.n * 2 ^ 64 + h.i * 2 ^ 96 + h.e * 2 ^ 128 + bins + g.camax * 2 ^ 1536 + g.gen * 2 ^ 1568
    + g.ccnt * 2 ^ 1600 + sx + g.cflg * 2 ^ 1888 + g.ovcnt * 2 ^ 1920 + (g.margin * 16 + (if g.ovm then 1 else 0)) * 2 ^ 1952

def Ctx.gauge (c : Ctx) (g : Nat) : Gauge := sget .free c.gauges g
def Ctx.setGauge (c : Ctx) (g : Nat) (x : Gauge) : Ctx := { c with gauges := sset c.gauges g x }

/-- The home unit applies a partial or an OVCNT message (R103, R104, R111). -/
def Ctx.applyPart (c : Ctx) (p : GPart) : Ctx :=
  let g := c.gauge p.gid
  if g.st = 0 then { c with stray := sat32 (c.stray + 1) }
  else if g.st = 1 then c.setGauge p.gid { g with half := g.half.merge p.half, ovcnt := sat32 (g.ovcnt + p.ov) }
  else c

/-- An engine's partial is applied before its completion is seen (R105). -/
def State.mergeNow (s : State) (md asid gid : Nat) (h : GHalf) : State :=
  let c := s.ctx md asid
  s.setCtx md asid (c.applyPart { id := 0, src := default, gid := gid, half := h, ov := 0 })

/-- GAUGE_MERGE (R103): the partial at position ev.i of the context's partials in flight reaches its home unit. -/
def execGaugeMerge (s : State) : Out :=
  let c := s.ctx s.ev.md s.ev.asid
  match c.parts[s.ev.i]? with
  | some p => .next (s.setCtx s.ev.md s.ev.asid { c.applyPart p with parts := c.parts.eraseIdx s.ev.i })
  | none => .next s

/-- GPOISON (R115, R445): an uncorrectable error in record ev.i. -/
def execGpoison (s : State) : Out :=
  let c := s.ctx s.ev.md s.ev.asid
  let g := c.gauge s.ev.i
  if g.st = 1 then
    .next (((s.setCtx s.ev.md s.ev.asid (c.setGauge s.ev.i { g with st := 2 })).count s.ev.md 5 1).post s.ev.md 0x140
      (some s.ev.asid) (srcHub (0x10 + s.ev.i % 8)) 0 s.ev.i)
  else .next s

/-- The id a gauge instruction names, where it is in range (R97, R167). -/
def State.gidCheck (s : State) (q : SeqId) (v : Word) : Option Nat :=
  if v.toNat = 0 ∨ v.toNat ≥ 2 ^ (s.ctxOf q).gtsz then none else some v.toNat

def execGalloc (a b : BitVec 5) (s : State) : Out :=
  onK s fun q =>
    match s.gidCheck q (s.getK q a) with
    | none => s.trap q { code := tcGaugeId }
    | some g =>
      let c := s.ctxOf q
      let w := (s.getK q b).toNat
      if (c.gauge g).st ≠ 0 then s.trap q { code := tcGaugeState }
      else (s.setCtxOf q (c.setGauge g { Gauge.free with st := 1, margin := field w 4 4, ovm := bitAt w 0 })).fin q

def execGallocRel (a : BitVec 5) (s : State) : Out :=
  onK s fun q =>
    match s.gidCheck q (s.getK q a) with
    | none => s.trap q { code := tcGaugeId }
    | some g =>
      let c := s.ctxOf q
      if (c.gauge g).st = 0 then s.trap q { code := tcGaugeState }
      else (s.setCtxOf q (c.setGauge g .free)).fin q

/-- The words of a descriptor of the group (R170). -/
def Group.descWords (g : Group) (n : Nat) : List Word := sget [] g.desc n

/-- GBIND (R168): where neither number is in range, the gauge id is reported. DEDUCED, unsafe (log entry 89). -/
def execGbind (d a b : BitVec 5) (s : State) : Out :=
  onK s fun q =>
    let n := (s.getK q a).toNat
    let v := (s.getK q b).toNat
    let g := s.grpOf q
    if v ≥ 2 ^ (s.ctxOf q).gtsz then s.trap q { code := tcGaugeId }
    else if n ≥ g.ndesc then s.trap q { code := tcOpnd }
    else
      let ws := g.descWords n
      let w5 := (ws.getD 5 0).toNat
      let old := field w5 16 20
      let w5' := BitVec.ofNat 64 (w5 - old * 2 ^ 16 + v * 2 ^ 16)
      (s.setGroup (s.gidOf q) { g with desc := sset g.desc n (ws.set 5 w5') }).finK q d (BitVec.ofNat 64 old)

/-- GCLOSE and GCLOSE.CFG (R169): partials ordered before it are applied already (R108). -/
def closeK (d a : BitVec 5) (cfg : Word → Option (Nat × Bool)) (b : BitVec 5) (s : State) : Out :=
  onK s fun q =>
    match s.gidCheck q (s.getK q a) with
    | none => s.trap q { code := tcGaugeId }
    | some g =>
      let c := s.ctxOf q
      let r := c.gauge g
      if r.st = 0 then s.trap q { code := tcGaugeId }
      else if r.st = 2 then s.trap q { code := tcGaugePoison }
      else
        let r' := r.close (cfg (s.getK q b)) s.tick
        (s.setCtxOf q (c.setGauge g r')).finK q d (BitVec.ofNat 64 r'.gen)

def execGclose (d a : BitVec 5) (s : State) : Out := closeK d a (fun _ => none) 0 s
def execGcloseCfg (d a b : BitVec 5) (s : State) : Out :=
  closeK d a (fun w => some (field w.toNat 4 4, bitAt w.toNat 0)) b s

-- Quantising (R110, R111) --------------------------------------------------------------------------------------------------

/-- One quantised element: its code, its flags, whether it overflowed, and whether it needed a noise word it lacks. -/
def quantElem (f : Fmt) (code : Nat) (sc : Int) (mode : Rm) (ovf : Bool) (u : Option Nat) : Nat × Nat × Bool × Bool :=
  let x := (decode .f32 code).scale sc
  let fin := match x with
    | .num _ _ _ _ => true
    | _ => false
  let r := convert f x mode (ovf && !fin) (u.getD 0)
  (r.1, r.2, fin && decide (r.2 / fOF % 2 = 1), needsNoise f x mode && u.isNone)

/-- What a quantisation of 256 elements gives: the register, the flags, how many overflowed, and whether a noise word
was missing. -/
structure Quant where
  val   : Nat
  flags : Nat
  exceed : Nat
  lost  : Bool
deriving DecidableEq, Repr

/-- DEDUCED, unsafe (log entry 25). -/
def quantAll (f : Fmt) (srcA srcC : Nat) (sc : Int) (mode : Rm) (ovf : Bool) (noise : List (Option Nat)) : Quant :=
  (List.range 256).foldl (fun (r : Quant) j =>
    let code := if j < 128 then field srcA (32 * j) 32 else field srcC (32 * (j - 128)) 32
    let y := quantElem f code sc mode ovf (noise.getD j none)
    { val := r.val + y.1 * 2 ^ (8 * j), flags := r.flags ||| y.2.1, exceed := r.exceed + (if y.2.2.1 then 1 else 0)
      lost := r.lost || y.2.2.2 }) { val := 0, flags := 0, exceed := 0, lost := false }

end Sys2Proof.Machine
end

