-- ==== Sys2Proof/WellFormed.lean ====
section
/-! DEFINITION. The well-formed instructions: what the format and the entry of each demand of its fields (spec 05, R127
to R135; 08, R196 to R201; and the entries). An encoding that fails is ILLEGAL_INST (R135). -/

namespace Sys2Proof

open Sys2Proof.Machine

-- Operand classes (R128, R196) ------------------------------------------------------------------------------------

def codeIsV (n : Nat) : Bool := decide (n < 64) || (decide (72 ≤ n) && decide (n ≤ 76))
def codeIsW (n : Nat) : Bool := decide (64 ≤ n) && decide (n < 72)
def codeIsE (n : Nat) : Bool := decide (80 ≤ n) && decide (n < 96)
def codeIsCd (n : Nat) : Bool := decide (96 ≤ n) && decide (n ≤ 101)
def codeIsK (n : Nat) : Bool := n == 112 || n == 113 || n == 127

/-- The operand classes a source field accepts (R196, R201). -/
inductive OpCls where
  | unused          -- must be zero
  | any             -- laid out by the entry itself
  | val             -- V, E, CD and K
  | v | w | vw | e
  | eZero           -- E or 0x70
  | eZeroOne        -- E, 0x70 or 0x71
  | eConst          -- E, 0x70, 0x71 or 0x7F
  | vZero           -- V or 0x70
  | pred            -- a predicate in the low four bits
  | srcFmt          -- a source format code, the top bit zero
deriving DecidableEq, Repr

def OpCls.accepts (c : OpCls) (n : Nat) : Bool :=
  match c with
  | .unused => n == 0
  | .any => true
  | .val => codeIsV n || codeIsE n || codeIsCd n || codeIsK n
  | .v => codeIsV n
  | .w => codeIsW n
  | .vw => codeIsV n || codeIsW n
  | .e => codeIsE n
  | .eZero => codeIsE n || n == 112
  | .eZeroOne => codeIsE n || n == 112 || n == 113
  | .eConst => codeIsE n || n == 112 || n == 113 || n == 127
  | .vZero => codeIsV n || n == 112
  | .pred => decide (n < 16)
  | .srcFmt => decide (n < 64)

/-- Does a field of this class hold an operand code of R128 at all. -/
def OpCls.isOperand : OpCls → Bool
  | .unused | .any | .pred | .srcFmt => false
  | _ => true

/-- The third source of an instruction (R130, R201). -/
inductive CSpec where
  | absent
  | required (c : OpCls)
  | optional (c : OpCls)
deriving DecidableEq, Repr

/-- What an instruction does with a kind-0x2 word beyond operand 0x7F (R200). -/
inductive ImmSpec where
  | operandOnly
  | layoutOpt (ok : Bool)
  | layoutReq (ok : Bool)
deriving DecidableEq, Repr

/-- One row of R201, made for a given instruction word. -/
structure XSpec where
  a    : OpCls
  b    : OpCls
  c    : CSpec
  /-- the format is accepted; none when the instruction is untyped -/
  fmt  : Option Bool
  /-- a kind-0x1 word is accepted (R200) -/
  oper : Bool := true
  /-- RM values accepted -/
  rm   : List Nat := [0]
  /-- the destination format is binary8 -/
  ovf  : Bool := false
  sat  : Bool := false
  imm  : ImmSpec := .operandOnly
  prf  : Bool := false
  /-- MC values the entry forbids beyond R200 -/
  mcNo : List Nat := []
  /-- it writes in a later cycle, until which it holds its reference map (R78) -/
  holds : Bool := true
  /-- what else the entry demands -/
  more : Bool := true
deriving DecidableEq, Repr

/-- The format of an X instruction: T, or FMT when FV = 1, T then being 0b00 (R129, R197). -/
def XArgs.fmt (x : XArgs) : Option Fmt :=
  let byT : Option Fmt := match x.t.toNat with
    | 0 => some .f32
    | 1 => some .bf16
    | 2 => some .f16
    | _ => some .i32
  match x.oper with
  | some o => if o.fv then (if x.t = 0 then fmtOfCode o.fmt.toNat else none) else byT
  | none => byT

/-- The format, f32 where it is reserved (such a word is not well formed). -/
def XArgs.fmtD (x : XArgs) : Fmt := x.fmt.getD .f32

/-- IMM16 of the kind-0x2 word, 0 when absent. -/
def XArgs.immN (x : XArgs) : Nat :=
  match x.imm with
  | some i => i.toNat
  | none => 0

/-- The C operand code, when there is a third source. -/
def XArgs.cN (x : XArgs) : Option Nat := x.oper.map fun o => o.c.toNat

def XArgs.rmN (x : XArgs) : Nat := match x.oper with
  | some o => o.rm.toNat
  | none => 0

def XArgs.mcN (x : XArgs) : Nat := match x.oper with
  | some o => o.mc.toNat
  | none => 0

/-- The rounding mode (R51, R130). -/
def XArgs.mode (x : XArgs) : Rm := (rmOf x.rmN).getD .rne

def XArgs.ovfB (x : XArgs) : Bool := match x.oper with
  | some o => o.ovf
  | none => false

def XArgs.satB (x : XArgs) : Bool := match x.oper with
  | some o => o.sat
  | none => false

def XArgs.mchkB (x : XArgs) : Bool := match x.oper with
  | some o => o.mchk
  | none => false

/-- Does a kind-0x4 word name sluices that exist: `nb` alternates for PB, `na` for PA (R23, R135). -/
def sluOk (pb pa : Bool) (slu : Option (BitVec 2 × BitVec 2)) (nb na : Nat) : Bool :=
  match slu with
  | none => true
  | some (r, a) =>
    decide (r.toNat ≤ nb) && decide (a.toNat ≤ na) && (pb || r == 0) && (pa || a == 0)

/-- An X word against its row (R127 to R130, R135, R196, R200). -/
def xOk (sp : XSpec) (x : XArgs) : Bool :=
  let a := x.a.toNat
  let b := x.b.toNat
  let hasC := match sp.c with
    | .absent => false
    | _ => x.oper.isSome
  let cOk := match sp.c, x.oper with
    | .absent, some o => o.c == 0
    | .absent, none => true
    | .required c, some o => c.accepts o.c.toNat
    | .required _, none => false
    | .optional c, some o => c.accepts o.c.toNat
    | .optional _, none => true
  let cCls : OpCls := match sp.c with
    | .absent => .unused
    | .required c => c
    | .optional c => c
  let named (n : Nat) : Bool :=
    (sp.a.isOperand && a == n) || (sp.b.isOperand && b == n) || (hasC && cCls.isOperand && x.cN == some n)
  let bears (c : OpCls) (n : Nat) : Bool := c.isOperand && (codeIsV n || codeIsW n)
  let bearing := bears sp.a a || bears sp.b b || (hasC && bears cCls (x.cN.getD 0))
  let fmtOk := match sp.fmt with
    | some ok => ok
    | none => x.t == 0 && (match x.oper with
      | some o => !o.fv
      | none => true)
  let operOk := match x.oper with
    | none => true
    | some o =>
      sp.oper && (fmtOfCode o.fmt.toNat).isSome && sp.rm.contains o.rm.toNat && (sp.ovf || !o.ovf) && (sp.sat || !o.sat)
        && (match o.mc.toNat with
          | 0 => true
          | 1 => bearing && sp.b.isOperand && !sp.mcNo.contains 1
          | 2 => bearing && hasC && !sp.mcNo.contains 2
          | _ => false)
  let immOk := match sp.imm with
    | .operandOnly => named 127 == x.imm.isSome
    | .layoutOpt ok => !named 127 && (x.imm.isNone || ok)
    | .layoutReq ok => !named 127 && x.imm.isSome && ok
  let prfOk := match x.prf with
    | some p => sp.prf && decide (p.toNat ≤ 6)
    | none => !sp.prf
  sp.a.accepts a && sp.b.accepts b && cOk && fmtOk && operOk && immOk && prfOk
    && sluOk x.pb x.pa x.slu 2 2 && sp.more

/-- The RM values of an instruction that rounds to a float format, and of one that does not (R51, R200). -/
def rmFloat (f : Fmt) : List Nat := if f.isFloat then [0, 1, 2] else [0]

/-- Row width of a lane movement: LW in IMM16[3:0], at most log2 n (R217). -/
def lwOk (x : XArgs) : Bool := decide (field x.immN 0 4 ≤ x.fmtD.count.log2)

/-- The row of R201 for each X instruction, with the limits of its entry; none for the instructions of other streams. -/
def xSpec (i : Instr) : Option (XSpec × XArgs) :=
  let arith (x : XArgs) (c : CSpec) (ok : Fmt → Bool) (rms : Fmt → List Nat) : Option (XSpec × XArgs) :=
    let f := x.fmtD
    some ({ a := .val, b := .val, c := c, fmt := some (x.fmt.isSome && ok f), rm := rms f, ovf := f.isB8 }, x)
  let unary (x : XArgs) (ok : Fmt → Bool) : Option (XSpec × XArgs) :=
    let f := x.fmtD
    some ({ a := .val, b := .unused, c := .absent, fmt := some (x.fmt.isSome && ok f), rm := rmFloat f, ovf := f.isB8 }, x)
  let num (f : Fmt) : Bool := f.isFloat || f.isInt
  let rne (_ : Fmt) : List Nat := [0]
  let cmp (x : XArgs) (ok : Fmt → Bool) : Option (XSpec × XArgs) :=
    some ({ a := .val, b := .val, c := .absent, fmt := some (x.fmt.isSome && ok x.fmtD), more := decide (x.d.toNat < 16) }, x)
  let lane (x : XArgs) (c : CSpec) (imm : ImmSpec) (rm : List Nat) (ok : Fmt → Bool) : Option (XSpec × XArgs) :=
    some ({ a := .v, b := .unused, c := c, fmt := some (x.fmt.isSome && ok x.fmtD), rm := rm, ovf := x.fmtD.isB8, imm := imm }, x)
  let any (_ : Fmt) : Bool := true
  let im (x : XArgs) : Nat := x.immN
  match i with
  | .vadd x | .vsub x | .vmul x => arith x .absent num rmFloat
  | .vfma x | .vfms x | .vfnma x => arith x (.required .val) Fmt.isFloat rmFloat
  | .vdiv x => arith x .absent Fmt.isFloat rmFloat
  | .vmin x | .vmax x | .vminp x | .vmaxp x => arith x .absent num rne
  | .vabs x | .vneg x => unary x num
  | .vceq x | .vcne x | .vclt x | .vcle x => cmp x num
  | .vcun x => cmp x Fmt.isFloat
  | .vsel x =>
    some ({ a := .val, b := .val, c := .required .pred, fmt := some (x.fmt.isSome && x.fmtD != .e8m0)
            ovf := x.fmtD.isB8, mcNo := [2] }, x)
  | .vand x | .vor x | .vxor x | .vandn x | .vshl x | .vshr x | .vadds x | .vsubs x => arith x .absent Fmt.isInt rne
  | .vsra x => arith x .absent Fmt.isSignedInt rne
  | .vcvt x =>
    let d := x.fmtD
    let sf := fmtOfCode x.b.toNat
    let s := sf.getD .f32
    let narrow := s.width == 2 * d.width
    let ok := sf.isSome && x.fmt.isSome && s != .e8m0 && d != .e8m0 && s.width != 4 * d.width
    let p := im x
    let pOk := if s.width < d.width then decide (p < d.width / s.width) else p == 0
    some ({ a := .v, b := .srcFmt, c := if narrow then .required .v else .absent, fmt := some ok
            rm := if d.isFloat then [0, 1, 2] else [0, 1], ovf := d.isB8, sat := s.isInt && d.isInt
            imm := .layoutOpt pOk }, x)
  | .vsqrt x | .vrcp x | .vrsq x | .vexp2 x | .vlog2 x | .vsinp x | .vcosp x => unary x Fmt.isFloat
  | .vcmul x =>
    some ({ a := .v, b := .v, c := .optional .vZero, fmt := some (x.fmt.isSome && x.fmtD.isIeee), rm := [0, 1, 2]
            imm := .layoutOpt (decide (im x ≤ 1)) }, x)
  | .vmov x =>
    some ({ a := .val, b := .unused, c := .absent, fmt := some x.fmt.isSome, ovf := x.fmtD.isB8 }, x)
  | .vmovE x =>
    some ({ a := .val, b := .any, c := .absent, fmt := none, more := decide (x.d.toNat < 16) && decide (x.b.toNat < 64) }, x)
  | .vscal x =>
    let f := x.fmtD
    some ({ a := .v, b := .v, c := .required .v
            fmt := some (x.fmt.isSome && x.t == 0 && (f.isFloat || f == .e8m0))
            rm := [0, 1, 2], imm := .layoutOpt (decide (im x ≤ 6)), prf := true }, x)
  | .vdq x =>
    let d := x.fmtD
    let sf := fmtOfCode x.b.toNat
    some ({ a := .v, b := .srcFmt, c := .required .e
            fmt := some (x.fmt.isSome && d.isIeee && (sf.map Fmt.isB8).getD false)
            rm := [0, 1, 2], imm := .layoutOpt (decide (im x < d.width / 8)) }, x)
  | .cmset x => some ({ a := .v, b := .unused, c := .absent, fmt := none }, x)
  | .cmget x => some ({ a := .vw, b := .unused, c := .absent, fmt := none }, x)
  | .cmslice x => some ({ a := .v, b := .v, c := .absent, fmt := none, mcNo := [1] }, x)
  | .cmperm x =>
    some ({ a := .v, b := .unused, c := .absent, fmt := none, imm := .layoutReq (decide (im x < 256)) }, x)
  | .cmchk x => some ({ a := .vw, b := .vw, c := .optional .vw, fmt := none, holds := false, more := x.d == 0 }, x)
  | .pcrd x =>
    some ({ a := .vw, b := .eZeroOne, c := .absent, fmt := some x.fmt.isSome
            imm := .layoutReq (decide (im x < 2 ^ 15) && decide (field (im x) 12 3 ≤ 5))
            more := decide (x.d.toNat < 16) }, x)
  | .vhash x =>
    some ({ a := .vw, b := .eZero, c := .optional .eZero, fmt := some (x.t == 3 && x.fmt == some .i32) }, x)
  | .vtwid x =>
    some ({ a := .vw, b := .e, c := .absent, fmt := some (x.fmt.isSome && x.fmtD.isIeee)
            imm := .layoutReq (decide (im x < 32)) }, x)
  | .vperm x =>
    some ({ a := .v, b := .v, c := .absent, fmt := some x.fmt.isSome, ovf := x.fmtD.isB8 }, x)
  | .vxpose x => lane x .absent (.layoutReq (lwOk x && decide (im x < 16))) [0] any
  | .vreshp x =>
    lane x .absent (.layoutReq (lwOk x && decide (im x < 256) && decide (field (im x) 4 4 ≤ x.fmtD.count.log2))) [0] any
  | .vbce x => lane x .absent (.layoutReq (lwOk x && field (im x) 4 4 == 0 && decide (im x / 256 < x.fmtD.count))) [0] any
  | .vbcr x =>
    lane x .absent (.layoutReq (lwOk x && field (im x) 4 4 == 0
      && decide (im x / 256 < x.fmtD.count / 2 ^ field (im x) 0 4))) [0] any
  | .vbcc x =>
    lane x .absent (.layoutReq (lwOk x && field (im x) 4 4 == 0 && decide (im x / 256 < 2 ^ field (im x) 0 4))) [0] any
  | .vcompact x => lane x (.required .pred) .operandOnly [0] any
  | .vredq x | .vredr x =>
    lane x .absent (.layoutReq (lwOk x && decide (im x < 64) && decide (field (im x) 4 2 ≠ 3)))
      (if field (im x) 4 2 = 0 then rmFloat x.fmtD else [0]) num
  | .wacc x | .wfma x =>
    let f := x.fmtD
    let src := f == .bf16 || f == .f16 || f == .i16 || f == .i8 || f == .u8 || f.isB8
    let isFma := match i with
      | .wfma _ => true
      | _ => false
    some ({ a := .v, b := .unused, c := if isFma then .required .v else .absent, fmt := some (x.fmt.isSome && src)
            rm := rmFloat f, sat := f.isInt, imm := .layoutOpt (decide (im x < if f.width = 8 then 2 else 1))
            more := decide (x.d.toNat < 8) }, x)
  | .wnar x =>
    let f := x.fmtD
    some ({ a := .w, b := .unused, c := .absent, fmt := some (x.fmt.isSome && (f == .bf16 || f == .f16 || f == .i16))
            rm := if f == .i16 then [0] else [0, 1, 2], sat := f == .i16 }, x)
  | .wzero x => some ({ a := .unused, b := .unused, c := .absent, fmt := none, more := decide (x.d.toNat < 8) }, x)
  | .pand x | .por x | .pxor x =>
    some ({ a := .pred, b := .unused, c := .required .pred, fmt := none, more := decide (x.d.toNat < 16), mcNo := [1, 2] }, x)
  | .pnot x | .pmov x =>
    some ({ a := .pred, b := .unused, c := .absent, fmt := none, oper := false, more := decide (x.d.toNat < 16) }, x)
  | .pset x =>
    some ({ a := .unused, b := .unused, c := .absent, fmt := none, oper := false
            imm := .layoutReq (decide (im x ≤ 256)), more := decide (x.d.toNat < 16) }, x)
  | .xloop x => some ({ a := .eConst, b := .unused, c := .absent, fmt := some true, oper := false }, x)
  | .xlend x => some ({ a := .unused, b := .unused, c := .absent, fmt := none, oper := false, more := x.d == 0 }, x)
  | .xwait x => some ({ a := .any, b := .unused, c := .absent, fmt := none, oper := false }, x)
  | .xpush x => some ({ a := .v, b := .unused, c := .absent, fmt := none, oper := false, holds := false, more := x.d == 0 }, x)
  | .vqnt x =>
    some ({ a := .w, b := .unused, c := .required .w
            fmt := some (x.fmt.isSome && x.fmtD.isB8), rm := [0, 1, 2], ovf := true
            imm := .layoutReq (decide (im x < 256)) }, x)
  | .gread x | .gstat x => some ({ a := .e, b := .unused, c := .absent, fmt := none }, x)
  | _ => none

/-- A scope code that FENCE accepts: .core to .sys (R133). -/
def scopeOk (s : BitVec 3) : Bool := decide (s.toNat ≤ 5)

/-- SFMT of MSCALE: e8m0, f32, bf16, f16 or binary8 (R246). -/
def scaleFmtOk (c : BitVec 6) : Bool :=
  match fmtOfCode c.toNat with
  | some f => f.isFloat || f == .e8m0
  | none => false

/-- Token fields of L and S: one alternate sluice each way (R23, R135). -/
def Tok.ok (t : Tok) : Bool := sluOk t.pb t.pa t.ext 1 1

/-- An instruction that meets its format and its entry (R135). Events have no encoding and are not well formed words. -/
def Instr.wf (i : Instr) : Bool :=
  match xSpec i with
  | some (sp, x) => xOk sp x
  | none =>
    match i with
    | .beq _ _ s _ | .bne _ _ s _ | .blt _ _ s _ | .bge _ _ s _ | .bltu _ _ s _ | .bgeu _ _ s _ | .call _ s _ => s != 0
    | .kloop a s _ => s != 0 && a != 0
    | .tkpush sl | .tkpop sl => sl != 3
    | .winx _ _ _ acc => acc != 0
    | .mgo _ _ _ prf => decide (prf.toNat ≤ 6)
    | .mdrain _ _ b _ key _ _ rm _ => rm != 3 && (key || b == 0)
    | .mzero _ mask => mask != 0
    | .mscale _ _ _ f src dst prf => scaleFmtOk f && src != dst && decide (prf.toNat ≤ 6)
    | .fence s => scopeOk s
    | .ld t _ _ | .lds t _ _ _ | .ldi t _ _ _ _ | .lgb t _ _ _ | .lrrd t _ _ _ | .fbopen t _ _ _ | .fbnext t _ | .fbclose t _
    | .lmark t _ | .lOwne t _ _ | .lOwnx t _ _ | .laadd t _ _ _ | .laaddLo t _ _ _ | .laaddHi t _ _ _ | .lali t _ _
    | .lak t _ _ _ => t.ok
    | .fbend t _ s _ | .lbr t _ _ s _ | .lloop t _ s _ | .sbr t _ _ s _ | .sloop t _ s _ => t.ok && s != 0
    | .lFence t s | .sFence t s => t.ok && scopeOk s
    | .st t _ _ _ | .sts t _ _ _ _ | .sti t _ _ _ _ | .ssb t _ _ _ | .putsigFlag8 t _ _ _ _ | .putsigFlag4 t _ _ _ _
    | .putsigSemadd t _ _ _ _ | .smark t _ | .sOwne t _ _ | .sOwnx t _ _ | .saadd t _ _ _ | .saaddLo t _ _ _
    | .saaddHi t _ _ _ | .sali t _ _ | .sak t _ _ _ | .sdrop t => t.ok
    | i => !i.isEvent

end Sys2Proof
end

