-- ==== Sys2Proof/Machine/Flags.lean ====
section
/-! DEFINITION. The write cycles of X: results, maps, shadow slots and the flags of `xst` and `cmst` (spec 01, R27 to R31;
02, R59, R60; 03, R78 to R90; 04, R113). -/

namespace Sys2Proof.Machine

open Sys2Proof

/-- Set flags in a status word `xst`; a bit stays set until a CRWR clears it (R59). -/
def Ctl.orXst (c : Ctl) (fl : Nat) : Ctl := { c with xst := c.xst ||| BitVec.ofNat 32 fl }

/-- Set flags in the `xst` of a core. -/
def State.orXst (s : State) (u fl : Nat) : State :=
  let q : SeqId := { unit := u, kind := .k }
  s.setCtl q ((s.ctl q).orXst fl)

/-- The shadow slot a map names. -/
def CMap.slotOf (m : CMap) : List Nat := if m.mode = .explicit then [m.slot.toNat] else []

def MapOut.slotOf : MapOut → List Nat
  | .keep m => m.slotOf
  | .fresh _ _ => []

/-- The map of a holder with its coordinates. -/
def Core.mapV (c : Core) (m : CMap) : MapV := { m := m, xs := if m.mode = .explicit then sget [] c.shadow m.slot.toNat else [], own := false }

/-- A chain slot whose content changes in a cycle: its producer writes, or its producer is a held VQNT that issued in this
cycle and whose destination is written in it (R113, R31). -/
def Core.chChanged (c : Core) (t : Nat) (live : List XPend) (sl : ChSlot) : Bool :=
  match sl.prod with
  | none => false
  | some id => live.any (fun p => p.id == id)
    || c.pend.any (fun p => p.id == id && p.rerun.isSome && p.cyc == t + 3 && live.any (fun l => l.dst == p.dst))

/-- The slots in use after the releases of cycle `t` (R78, R79): the registers and chain slots that cycle leaves alone, the
captures that stay, and the shared slots that its writes pass on. A held VQNT that issued in this cycle captures only after
its writes. -/
def Core.slotsKept (c : Core) (t : Nat) (live rest : List XPend) (drop4 : Bool) : List Nat :=
  (c.v.flatMap fun kv => if live.any (fun p => p.dst == .v kv.1) then [] else kv.2.2.slotOf)
    ++ (c.w.flatMap fun kv => if live.any (fun p => p.dst == .w kv.1) then [] else kv.2.2.slotOf)
    ++ (c.ch.flatMap fun kv => if c.chChanged t live kv.2 || (drop4 && kv.1 == 4) then [] else kv.2.map.slotOf)
    ++ (rest.flatMap fun p => if p.rerun.isSome && p.cyc == t + 3 then [] else p.ref.toList)
    ++ (live.flatMap fun p => match p.map with
      | some m => m.slotOf
      | none => [])

/-- The slots in use between cycles: USE of `cmst` (R80). -/
def Core.slotsUsed (c : Core) : List Nat :=
  (c.v.flatMap fun kv => kv.2.2.slotOf) ++ (c.w.flatMap fun kv => kv.2.2.slotOf) ++ (c.ch.flatMap fun kv => kv.2.map.slotOf)
    ++ (c.pend.flatMap fun p => p.ref.toList)

/-- A core in the middle of a write cycle: the slots taken so far, and the flags its writes raise. -/
structure Landing where
  core : Core
  used : List Nat
  xst  : Nat
  cm   : Nat
deriving DecidableEq, Repr

/-- The map a write gives its destination: a slot of its own where it needs one, LOST where none is free (R79). DEDUCED, unsafe (log entry 76). -/
def Landing.place (l : Landing) : MapOut → CMap × Landing
  | .keep m => (m, l)
  | .fresh m xs =>
    match (List.range 8).find? fun i => !l.used.contains i with
    | some i => ({ m with slot := BitVec.ofNat 3 i }, { l with used := i :: l.used, core := { l.core with shadow := sset l.core.shadow i xs } })
    | none => ({ CMap.nil with mode := .lost, tag := m.tag, lw := m.lw, ew := m.ew }, { l with cm := l.cm ||| 1 })

/-- One write (R27, R30, R84): the value, the map, the second scalar, the chain slot it produces and its flags. -/
def Landing.write (l : Landing) (t : Nat) (p : XPend) : Landing :=
  let m := match p.map with
    | some o => l.place o
    | none => (CMap.nil, l)
  let l := m.2
  let c := l.core
  let c := match p.dst with
    | .v n =>
      let val : Vec := if p.keep then (sget (0, .nil) c.v n).1 else BitVec.ofNat 2048 p.val
      let ch := c.ch.map fun kv =>
        if kv.2.prod = some p.id then (kv.1, { val := val, map := m.1, prod := none })
        else match kv.2.prod with
          | some id => if c.pend.any (fun x => x.id == id && x.rerun.isSome && x.cyc == t + 3 && x.dst == p.dst) then
              (kv.1, { kv.2 with val := val, map := m.1 }) else kv
          | none => kv
      { c with v := sset c.v n (val, m.1), ch := ch }
    | .w n => { c with w := sset c.w n (BitVec.ofNat 4096 p.val, m.1) }
    | .p n => { c with p := sset c.p n (BitVec.ofNat 256 p.val) }
    | .e n => { c with e := sset c.e n (BitVec.ofNat 32 p.val) }
    | .none => c
  let c := match p.e2 with
    | some (n, v) => { c with e := sset c.e n (BitVec.ofNat 32 v) }
    | none => c
  { l with core := c, xst := l.xst ||| p.flags, cm := l.cm ||| (if p.img then 2 else 0) }

/-- The writes of one cycle: every release first, then slots and values in issue order (R30, R79). An entry with SQ set
only gives up its reference (R318). -/
def Core.landCycle (c : Core) (t : Nat) (drop4 : Bool) : Landing :=
  let due := c.pend.filter fun p => p.cyc == t
  let rest := c.pend.filter fun p => p.cyc != t
  let live := due.filter fun p => !p.sq
  let l0 : Landing := { core := c, used := c.slotsKept t live rest drop4, xst := 0, cm := 0 }
  let l : Landing := live.foldl (fun (l : Landing) p => l.write t p) l0
  { l with core := { l.core with pend := rest, cmst := l.core.cmst ||| BitVec.ofNat 32 l.cm } }

/-- The re-run of a held VQNT (R113): the handler's exponent, the present generation's, or the first issue's. It never
traps, and it counts its overflows. -/
def State.rerun (s : State) (u : Nat) (p : XPend) : State × XPend :=
  match p.rerun with
  | none => (s, p)
  | some r =>
    let q : SeqId := { unit := u, kind := .x }
    let f := r.x.fmtD
    let g := (s.ctxOf q).gauge r.gid
    let sc := match r.ov with
      | some v => v
      | none => if g.st = 1 then (g.chosen (s.core u).xsync s.tick).2.1.getD f.b8Index 0 else r.s1
    let noise := r.noise.mapIdx fun i n => match n with
      | some v => some v
      | none => some (Config.freeNoise r.srcA i % 2 ^ 32)
    let y := quantAll f r.srcA r.srcC sc r.x.mode r.x.ovfB noise
    (if y.exceed = 0 then s else s.sendPart q (modOf u) (s.asidOf q) r.gid .zero y.exceed,
      { p with val := y.val, flags := y.flags, rerun := none
               e2 := match p.e2 with
                 | some (n, _) => some (n, wrapNat 32 sc)
                 | none => none })

/-- The re-runs that write in cycle `t`. -/
def State.rerunDue (s : State) (u t : Nat) : State :=
  let c := s.core u
  if c.pend.any (fun p => p.cyc == t && p.rerun.isSome && !p.sq) then
    let r := c.pend.foldl (fun (r : State × List XPend) p =>
      if p.cyc = t ∧ !p.sq then
        let y := r.1.rerun u p
        (y.1, r.2 ++ [y.2])
      else (r.1, r.2 ++ [p])) (s, [])
    r.1.setCore u { r.1.core u with pend := r.2 }
  else s

/-- Make the X writes of every cycle below `lim`; `drop4` says that the instruction which issues in cycle lim − 1 shifts
`ch4` out and does not capture its map. -/
def State.landX (s : State) (u lim : Nat) (drop4 : Bool) : State :=
  let rec go : Nat → State → State
    | 0, s => s
    | n + 1, s =>
      let c := s.core u
      match (c.pend.filter fun p => decide (p.cyc < lim)).map (·.cyc) with
      | [] => s
      | t :: ts =>
        let t := ts.foldl min t
        let s := s.rerunDue u t
        let l := (s.core u).landCycle t (drop4 && t + 1 == lim)
        go n ((s.setCore u l.core).orXst u l.xst)
  let s := go (s.core u).pend.length s
  let c := s.core u
  s.setCore u { c with xnow := max c.xnow lim }

/-- The stream has finished its save sequence (R322). -/
def Phase.done : Phase → Bool
  | .saved _ _ _ => true
  | _ => false

/-- X_RESULT_WRITE (R27, R30, R60, R79, R84): the X time of core `ev.i` passes through one more cycle, and the results due in it
are written. X time stands still while X waits to issue, and while the core is stopped or another stream is stepped. -/
def execXResultWrite (s : State) : Out :=
  let u := s.ev.i
  let c := s.core u
  let k := s.ctl { unit := u, kind := .k }
  if k.mode != .normal || (k.only.isSome && k.only != some 2) || k.stepDone then .next s
  else if c.xnow < c.xnext || c.xpos == .ended || c.xphase.done then
    .next (s.landX u (c.xnow + 1) false)
  else .next s

/-- A trap of X itself (R199, R312): X time stops in the cycle in which the instruction would issue. -/
def State.xTrapAt (s : State) (q : SeqId) (t : Trap) (res : Word) : State :=
  (s.landX q.unit (s.core q.unit).xnext false).trapAt q t res

def State.xTrap (s : State) (q : SeqId) (t : Trap) : State := s.xTrapAt q t (BitVec.ofNat 64 (s.pc q))

/-- A trap that any stream takes at its own slot, X in its own cycle. -/
def State.ownTrap (s : State) (q : SeqId) (t : Trap) (res : Word) : State :=
  if q.kind = .x then s.xTrapAt q t res else s.trapAt q t res

end Sys2Proof.Machine
end

