-- ==== Sys2Proof/Machine/Kmem.lean ====
section
/-! DEFINITION. K's loads and stores, tokens, control registers, fences and the barge wait (spec 06, R150 to R158, R166; 12). -/

namespace Sys2Proof.Machine

open Sys2Proof

/-- The effective address of a K access (R150). -/
def State.kea (s : State) (q : SeqId) (a : BitVec 5) (imm : BitVec 16) : Nat := (s.getK q a + sext16 imm).toNat

/-- A load of n bytes, zero-extended (R150, R151); it waits for stores of its own stream to those bytes (R289, R294 to R299). -/
def loadK (s : State) (d a : BitVec 5) (imm : BitVec 16) (n : Nat) : Out :=
  onK s fun q =>
    let ea := s.kea q a imm
    match s.readCheck q ea n n with
    | some t => s.trapRead q t ea n
    | none => if s.ownOpen q ea n then s else s.finK q d (BitVec.ofNat 64 (s.read q ea n))

/-- A store of the low n bytes of k[D]; it performs at core scope at once (R150, R152). -/
def storeK (s : State) (d a : BitVec 5) (imm : BitVec 16) (n : Nat) : Out :=
  onK s fun q =>
    let ea := s.kea q a imm
    match s.writeCheck q ea n n with
    | some t => s.trapRead q t ea n
    | none => ((s.healWords ea n).store q 1 (cellsOf ea (leBytes n (s.getK q d).toNat))).2.fin q

def execKld (d a : BitVec 5) (imm : BitVec 16) (s : State) : Out := loadK s d a imm 8
def execKldw (d a : BitVec 5) (imm : BitVec 16) (s : State) : Out := loadK s d a imm 4
def execKst (d a : BitVec 5) (imm : BitVec 16) (s : State) : Out := storeK s d a imm 8
def execKstw (d a : BitVec 5) (imm : BitVec 16) (s : State) : Out := storeK s d a imm 4

/-- The sluices of TKPUSH and TKPOP by SL (R154). -/
def pushSluice (sl : BitVec 2) : Nat := if sl = 0 then slKL else if sl = 1 then slKX else slKS
def popSluice (sl : BitVec 2) : Nat := if sl = 0 then slLK else if sl = 1 then slXK else slSK

/-- TKPUSH (R154): what it waits for has happened, since K's stores, loads and commands take effect as they issue. -/
def execTkpush (sl : BitVec 2) (s : State) : Out :=
  onCoreK s fun q =>
    let c := s.core q.unit
    if c.tokens (pushSluice sl) ≥ 16 then s else (s.setCore q.unit (c.pushTok (pushSluice sl) (s.tells q 1))).fin q

def execTkpop (sl : BitVec 2) (s : State) : Out :=
  onCoreK s fun q =>
    let c := s.core q.unit
    if c.tokens (popSluice sl) = 0 then s else (s.setCore q.unit (c.popTok (popSluice sl))).fin q

/-- `slcnt` (R156). -/
def Core.slcnt (c : Core) : Nat := (List.range 10).foldl (fun a i => a + c.tokens i * 2 ^ (5 * i)) 0

/-- `cmst` as it reads (R80). -/
def Core.cmstWord (c : Core) : Nat :=
  c.cmst.toNat % 4 + (List.range 8).foldl (fun a i => a + if c.slotsUsed.contains i then 2 ^ (8 + i) else 0) 0

/-- `cyc` (R155): one cycle is one nanosecond of the clock (R7). DESIGN CHOICE, safe (log entry 72). -/
def State.cyc (s : State) (q : SeqId) : Nat := (s.clock - (s.ctl q).cycBase) % 2 ^ 64

/-- The content of control register `crn`; none where CRRD traps (R155). -/
def State.crRead (s : State) (q : SeqId) (crn : Nat) : Option Nat :=
  let isCore := q.kind = .k
  match crn with
  | 0 => some (s.ctl q).xst.toNat
  | 1 => if isCore then some (s.core q.unit).nkey.toNat else none
  | 2 => if isCore then some (s.core q.unit).cmstWord else none
  | 3 => some (s.cyc q)
  | 4 => some (s.ctxOf q).gtab
  | 5 => some (s.ctxOf q).gtsz
  | 6 => if isCore then some (s.core q.unit).slcnt else none
  | _ => none

def execCrrd (d : BitVec 5) (crn : BitVec 16) (s : State) : Out :=
  onK s fun q =>
    match s.crRead q crn.toNat with
    | some v => s.finK q d (BitVec.ofNat 64 v)
    | none => s.illegal q

def execCrwr (a : BitVec 5) (crn : BitVec 16) (s : State) : Out :=
  onK s fun q =>
    let v := s.getK q a
    let c := s.core q.unit
    match crn.toNat with
    | 0 => (s.setCtl q { s.ctl q with xst := v.setWidth 32 &&& 0x3F }).fin q
    | 1 => if q.kind = .k then (s.setCore q.unit { c with nkey := v }).fin q else s.illegal q
    | 2 => if q.kind = .k then (s.setCore q.unit { c with cmst := v.setWidth 32 &&& 3 }).fin q else s.illegal q
    | _ => s.illegal q

/-- FENCE (R158, R304): the stream stalls until its own stores, and those it can have observed, have performed at the scope. -/
def execFence (scope : BitVec 3) (s : State) : Out :=
  onK s fun q => if s.fenceOpen q (scope.toNat + 1) then s else s.fin q

/-- The chain of a barge on a sequencer's own C-die (R163). -/
def bargeKey (q : SeqId) (b : Nat) : Nat := dieNo q.unit * 16 + b
def Ctx.chain (c : Ctx) (n : Nat) : Chain := sget .init c.chains n
def Ctx.setChain (c : Ctx) (n : Nat) (x : Chain) : Ctx := { c with chains := sset c.chains n x }

def execSqwait (d a b : BitVec 5) (s : State) : Out :=
  onK s fun q =>
    let n := (s.getK q a).toNat
    if n ≥ 16 then s.trap q { code := tcOpnd }
    else
      let seq := ((s.ctxOf q).chain (bargeKey q n)).seq
      if seq ≥ (s.getK q b).toNat then s.finK q d (BitVec.ofNat 64 seq) else s

end Sys2Proof.Machine
end

