-- ==== Sys2Proof/Machine/Barrier.lean ====
section
/-! DEFINITION. The named barriers and their instructions (spec 16, R365 to R374). -/

namespace Sys2Proof.Machine

open Sys2Proof

/-- A barrier: of a quad, of a group and C-die, of a group, or of a context (R365). -/
inductive BarName where
  | quad (qd n : Nat)
  | die (gid die n : Nat)
  | pkg (gid n : Nat)
  | pod (asid n : Nat)
deriving DecidableEq, Repr

/-- The scope of a barrier's fence (R300). -/
def BarName.scope : BarName → Nat
  | .quad _ _ => 2
  | .die _ _ _ => 3
  | .pkg _ _ => 4
  | .pod _ _ => 5

/-- LVL and NUM of a barrier word; none where R366 refuses it. -/
def barWord (w : Word) : Option (Nat × Nat) :=
  let lvl := field w.toNat 8 2
  let n := field w.toNat 0 6
  if w.toNat ≥ 1024 ∨ field w.toNat 6 2 ≠ 0 ∨ (lvl = 0 ∧ n ≥ 16) ∨ (lvl = 3 ∧ n ≥ 32) then none else some (lvl, n)

/-- The barrier of a sequencer that a word names (R366). DEDUCED, unsafe (log entry 60). -/
def State.barName (s : State) (q : SeqId) (lvl n : Nat) : BarName :=
  match lvl with
  | 0 => .quad (quadOf q.unit) n
  | 1 => .die (s.gidOf q) (dieNo q.unit) n
  | 2 => .pkg (s.gidOf q) n
  | _ => .pod (s.asidOf q) n

/-- The initial mask of a quad barrier: who runs of the group's kernel (R367). -/
def quadMask (strm : Nat) : Nat := (if bitAt strm 0 then 15 else 0) + (if bitAt strm 4 then 16 else 0) + (if bitAt strm 5 then 32 else 0)

/-- The logical quads of a group on a C-die. -/
def Group.dieMask (g : Group) (die : Nat) : Nat :=
  (List.range g.nq).foldl (fun a i => if (g.qb + i) / 64 = die then a + 2 ^ i else a) 0

/-- The stream mask of a group's kernel. -/
def Group.strm (s : State) (g : Group) : Nat := (sget .none (s.ctx g.md g.asid).kernels g.kernel).strm

/-- A barrier as it stands; one that nothing has changed is as R367 starts it. DEDUCED, unsafe (log entry 60). -/
def State.bar (s : State) : BarName → Barrier
  | .quad qd n => sget (.init (quadMask (Group.strm s (s.group (s.quad qd).grp)))) (s.quad qd).bars n
  | .die g d n => sget (.init ((s.group g).dieMask d)) s.dieBars ((g * 8 + d) * 64 + n)
  | .pkg g n => sget (.init (2 ^ (s.group g).nq - 1)) s.pkgBars (g * 64 + n)
  | .pod a n => sget (.init 0) s.podBars (a * 32 + n)

def State.setBar (s : State) (b : BarName) (x : Barrier) : State :=
  match b with
  | .quad qd n => let q := s.quad qd; s.setQuad qd { q with bars := sset q.bars n x }
  | .die g d n => { s with dieBars := sset s.dieBars ((g * 8 + d) * 64 + n) x }
  | .pkg g n => { s with pkgBars := sset s.pkgBars (g * 64 + n) x }
  | .pod a n => { s with podBars := sset s.podBars (a * 32 + n) x }

/-- The member for which a sequencer arrives (R365); none where it arrives for no member. -/
def State.member (s : State) (q : SeqId) : BarName → Option Nat
  | .quad _ _ => some (q.unit % 8 + (if q.kind = .qu then 1 else 0))
  | .die _ _ _ | .pkg _ _ => if q.kind = .k then none else some (s.logical q)
  | .pod _ _ => if q.kind = .k then none else some (modOf q.unit)

/-- A generation completes (R368). -/
def Barrier.complete (b : Barrier) : Barrier :=
  { b with gen := (b.gen + 1) % 2 ^ 32, arr := 0, mask := b.pmask.getD b.mask, pmask := none, rel := [], told := b.told ++ b.rel }

/-- A member joins ARR, with the stores of which its arrival tells; the generation completes when ARR equals MASK (R368, R369). -/
def Barrier.arrive (b : Barrier) (m : Nat) (rel : List Nat) : Barrier :=
  let b := { b with arr := b.arr ||| 2 ^ m, rel := b.rel ++ rel }
  if b.arr = b.mask then b.complete else b

/-- Held arrivals are tested again (R369): the first whose member has not arrived in the present generation joins it, or traps
where it is no member of its mask; `fuel` bounds how many. -/
def State.settleBar (s : State) (n : BarName) : Nat → State
  | 0 => s
  | fuel + 1 =>
    let b := s.bar n
    match b.held.find? fun h => !bitAt b.arr h.member with
    | none => s
    | some h =>
      let b' := { b with held := b.held.filter fun x => x != h }
      (if bitAt b.mask h.member then (s.setBar n (b'.arrive h.member (s.tells h.q n.scope))).answer h.q h.d b.gen
       else (s.setBar n b').trap h.q { code := tcOpnd }).settleBar n fuel

/-- The unit applies an arrival of a sequencer (R369, steps 3 to 5). DEDUCED, unsafe (log entry 50). -/
def State.arriveBar (s : State) (q : SeqId) (d : BitVec 5) (n : BarName) (m : Nat) : State :=
  let b := s.bar n
  if !bitAt b.mask m then s.trap q { code := tcOpnd }
  else if bitAt b.arr m then
    (s.setCtl q { s.ctl q with wait := true }).setBar n { b with held := b.held ++ [{ q := q, d := d, member := m }] }
  else ((s.setBar n (b.arrive m (s.tells q n.scope))).finK q d (BitVec.ofNat 64 b.gen)).settleBar n b.held.length

/-- BARV (R300, R369): the fence at the barrier's level, then the arrival. -/
def execBarv (d a : BitVec 5) (s : State) : Out :=
  onK s fun q =>
    if (s.ctl q).wait then s
    else match barWord (s.getK q a) with
      | none => s.trap q { code := tcOpnd }
      | some (lvl, n) =>
        if s.fenceOpen q (lvl + 2) then s
        else match s.member q (s.barName q lvl n) with
          | none => s.trap q { code := tcOpnd }
          | some m => ((s.fenced q (lvl + 2)).acquire q).arriveBar q d (s.barName q lvl n) m

/-- BWAIT (R370). -/
def execBwait (d a b : BitVec 5) (s : State) : Out :=
  onK s fun q =>
    let g := (s.getK q b).toNat
    match barWord (s.getK q a) with
    | none => s.trap q { code := tcOpnd }
    | some (lvl, n) =>
      if g ≥ 2 ^ 32 then s.trap q { code := tcOpnd }
      else
        let x := s.bar (s.barName q lvl n)
        let behind := (x.gen + 2 ^ 32 - g) % 2 ^ 32
        if 1 ≤ behind ∧ behind ≤ 2 ^ 31 then s.finK q d (ofBool (x.abgen == some g)) else s

/-- A mask that the barrier accepts (R371, check 3). DEDUCED, unsafe (log entry 60). -/
def State.maskOk (s : State) (q : SeqId) (lvl mask : Nat) : Bool :=
  let g := s.grpOf q
  match lvl with
  | 0 => decide (mask < 2 ^ 6)
  | 1 => decide (mask < 2 ^ g.nq) && (mask &&& g.dieMask (dieNo q.unit)) == mask
  | 2 => decide (mask < 2 ^ g.nq)
  | _ => (List.range 1024).all fun m => !bitAt mask m || (s.present m && s.reachable (modOf q.unit) m)

/-- BMASK (R371). -/
def execBmask (a b : BitVec 5) (s : State) : Out :=
  onK s fun q =>
    let ea := (s.getK q b).toNat
    match barWord (s.getK q a) with
    | none => s.trap q { code := tcOpnd }
    | some (lvl, n) =>
      if lvl ≠ 0 ∧ q.kind = .k then s.trap q { code := tcOpnd }
      else match (s.placeCheck q ea 128).orElse fun _ => s.recCheck q ea 128 with
        | some t => s.trapRead q t ea 128
        | none =>
          let mask := s.read q ea 128
          if !s.maskOk q lvl mask then s.trap q { code := tcOpnd }
          else
            let x := s.bar (s.barName q lvl n)
            (s.setBar (s.barName q lvl n) (if x.arr = 0 then { x with mask := mask, pmask := none } else { x with pmask := some mask })).fin q

/-- Members of a set. -/
def countBits (n : Nat) : Nat := ((List.range 1024).filter fun i => bitAt n i).length

/-- BGEN (R372). -/
def execBgen (d a : BitVec 5) (s : State) : Out :=
  onK s fun q =>
    match barWord (s.getK q a) with
    | none => s.trap q { code := tcOpnd }
    | some (lvl, n) =>
      let x := s.bar (s.barName q lvl n)
      let b (c : Bool) (i : Nat) : Nat := if c then 2 ^ i else 0
      s.finK q d (BitVec.ofNat 64 (b x.abgen.isSome 45 + b (x.mask == 0) 44 + b x.pmask.isSome 43 + countBits x.arr * 2 ^ 32 + x.gen))

end Sys2Proof.Machine
end

