-- ==== Sys2Proof/Decode.lean ====
section
/-! DEFINITION. Decoding and encoding of instruction words (spec 05, R127 to R135; encoding lines of 06 to 22). `decode` is
total: an encoding that is no instruction answers none, and its fate is ILLEGAL_INST (R135). After it stands the encoder,
from the same encoding lines. -/

namespace Sys2Proof

open Sys2Proof.Machine

/-- The extension words of one instruction, by kind (R129). -/
structure Exts where
  oper : Option XOper
  imm  : Option (BitVec 16)
  prf  : Option (BitVec 8)
  slu  : Option (BitVec 2 × BitVec 2)
deriving DecidableEq, Repr

def Exts.none : Exts := { oper := .none, imm := .none, prf := .none, slu := .none }

/-- Add one extension word: a reserved kind, a nonzero unassigned bit and a second word of one kind are refused (R119, R129,
R135). -/
def addExt (x : Exts) (w : IWord) : Option Exts :=
  match (w.extractLsb' 28 4).toNat with
  | 1 =>
    if x.oper.isSome || w.extractLsb' 0 7 != 0 then none
    else
      let o : XOper := { c := w.extractLsb' 21 7, fmt := w.extractLsb' 15 6, fv := w.getLsbD 14, rm := w.extractLsb' 12 2
                         mc := w.extractLsb' 10 2, mchk := w.getLsbD 9, ovf := w.getLsbD 8, sat := w.getLsbD 7 }
      some { x with oper := some o }
  | 2 => if x.imm.isSome || w.extractLsb' 16 12 != 0 then none else some { x with imm := some (w.extractLsb' 0 16) }
  | 3 => if x.prf.isSome || w.extractLsb' 8 20 != 0 then none else some { x with prf := some (w.extractLsb' 0 8) }
  | 4 =>
    if x.slu.isSome || w.extractLsb' 0 24 != 0 then none
    else some { x with slu := some (w.extractLsb' 26 2, w.extractLsb' 24 2) }
  | _ => none

/-- The extension words of an instruction, in the order of its slots. -/
def parseExts : List IWord → Exts → Option Exts
  | [], x => some x
  | w :: ws, x => match addExt x w with
    | some y => parseExts ws y
    | none => none

/-- No bit of a field that the entry marks zero is set (R145). -/
def zeroAt (w : IWord) (lo len : Nat) : Bool := w.extractLsb' lo len == 0

/-- `i` when the condition holds. -/
def when' (c : Bool) (i : Instr) : Option Instr := if c then some i else none

/-- No token is moved. -/
def Tok.none : Tok := { pb := false, pa := false, ext := .none }

/-- A word of K, QF or QU (R127, R131; the encoding lines of the K entries). `prf` is the profile word of MGO and MSCALE. -/
def parseK (w : IWord) (prf : BitVec 8) : Option Instr :=
  match (w.extractLsb' 26 6).toNat with
  | 0 => when' (w == 0) .nop
  | 1 => match (w.extractLsb' 0 11).toNat with
    | 0 => some (.add (w.extractLsb' 21 5) (w.extractLsb' 16 5) (w.extractLsb' 11 5))
    | 1 => some (.sub (w.extractLsb' 21 5) (w.extractLsb' 16 5) (w.extractLsb' 11 5))
    | 2 => some (.and (w.extractLsb' 21 5) (w.extractLsb' 16 5) (w.extractLsb' 11 5))
    | 3 => some (.or (w.extractLsb' 21 5) (w.extractLsb' 16 5) (w.extractLsb' 11 5))
    | 4 => some (.xor (w.extractLsb' 21 5) (w.extractLsb' 16 5) (w.extractLsb' 11 5))
    | 5 => some (.shl (w.extractLsb' 21 5) (w.extractLsb' 16 5) (w.extractLsb' 11 5))
    | 6 => some (.shr (w.extractLsb' 21 5) (w.extractLsb' 16 5) (w.extractLsb' 11 5))
    | 7 => some (.sra (w.extractLsb' 21 5) (w.extractLsb' 16 5) (w.extractLsb' 11 5))
    | 8 => some (.mul (w.extractLsb' 21 5) (w.extractLsb' 16 5) (w.extractLsb' 11 5))
    | 9 => some (.mulh (w.extractLsb' 21 5) (w.extractLsb' 16 5) (w.extractLsb' 11 5))
    | 10 => some (.mulhu (w.extractLsb' 21 5) (w.extractLsb' 16 5) (w.extractLsb' 11 5))
    | 11 => some (.div (w.extractLsb' 21 5) (w.extractLsb' 16 5) (w.extractLsb' 11 5))
    | 12 => some (.divu (w.extractLsb' 21 5) (w.extractLsb' 16 5) (w.extractLsb' 11 5))
    | 13 => some (.rem (w.extractLsb' 21 5) (w.extractLsb' 16 5) (w.extractLsb' 11 5))
    | 14 => some (.remu (w.extractLsb' 21 5) (w.extractLsb' 16 5) (w.extractLsb' 11 5))
    | 15 => some (.min (w.extractLsb' 21 5) (w.extractLsb' 16 5) (w.extractLsb' 11 5))
    | 16 => some (.max (w.extractLsb' 21 5) (w.extractLsb' 16 5) (w.extractLsb' 11 5))
    | 17 => some (.minu (w.extractLsb' 21 5) (w.extractLsb' 16 5) (w.extractLsb' 11 5))
    | 18 => some (.maxu (w.extractLsb' 21 5) (w.extractLsb' 16 5) (w.extractLsb' 11 5))
    | _ => none
  | 2 => match (w.extractLsb' 0 11).toNat with
    | 0 => some (.ceq (w.extractLsb' 21 5) (w.extractLsb' 16 5) (w.extractLsb' 11 5))
    | 1 => some (.cne (w.extractLsb' 21 5) (w.extractLsb' 16 5) (w.extractLsb' 11 5))
    | 2 => some (.clt (w.extractLsb' 21 5) (w.extractLsb' 16 5) (w.extractLsb' 11 5))
    | 3 => some (.cltu (w.extractLsb' 21 5) (w.extractLsb' 16 5) (w.extractLsb' 11 5))
    | 4 => some (.cge (w.extractLsb' 21 5) (w.extractLsb' 16 5) (w.extractLsb' 11 5))
    | 5 => some (.cgeu (w.extractLsb' 21 5) (w.extractLsb' 16 5) (w.extractLsb' 11 5))
    | _ => none
  | 3 => when' (zeroAt w 0 6) (.sel (w.extractLsb' 21 5) (w.extractLsb' 16 5) (w.extractLsb' 11 5) (w.extractLsb' 6 5))
  | 4 => some (.addi (w.extractLsb' 21 5) (w.extractLsb' 16 5) (w.extractLsb' 0 16))
  | 5 => some (.andi (w.extractLsb' 21 5) (w.extractLsb' 16 5) (w.extractLsb' 0 16))
  | 6 => some (.ori (w.extractLsb' 21 5) (w.extractLsb' 16 5) (w.extractLsb' 0 16))
  | 7 => some (.xori (w.extractLsb' 21 5) (w.extractLsb' 16 5) (w.extractLsb' 0 16))
  | 8 => match (w.extractLsb' 6 2).toNat with
    | 0 => when' (zeroAt w 8 8) (.shli (w.extractLsb' 21 5) (w.extractLsb' 16 5) (w.extractLsb' 0 6))
    | 1 => when' (zeroAt w 8 8) (.shri (w.extractLsb' 21 5) (w.extractLsb' 16 5) (w.extractLsb' 0 6))
    | 2 => when' (zeroAt w 8 8) (.srai (w.extractLsb' 21 5) (w.extractLsb' 16 5) (w.extractLsb' 0 6))
    | _ => none
  | 9 => when' (zeroAt w 16 5) (.li (w.extractLsb' 21 5) (w.extractLsb' 0 16))
  | 10 => some (.ors16 (w.extractLsb' 21 5) (w.extractLsb' 16 5) (w.extractLsb' 0 16))
  | 11 => some (.ors32 (w.extractLsb' 21 5) (w.extractLsb' 16 5) (w.extractLsb' 0 16))
  | 12 => some (.ors48 (w.extractLsb' 21 5) (w.extractLsb' 16 5) (w.extractLsb' 0 16))
  | 13 => some (.slti (w.extractLsb' 21 5) (w.extractLsb' 16 5) (w.extractLsb' 0 16))
  | 14 => some (.kld (w.extractLsb' 21 5) (w.extractLsb' 16 5) (w.extractLsb' 0 16))
  | 15 => some (.kldw (w.extractLsb' 21 5) (w.extractLsb' 16 5) (w.extractLsb' 0 16))
  | 16 => some (.kst (w.extractLsb' 21 5) (w.extractLsb' 16 5) (w.extractLsb' 0 16))
  | 17 => some (.kstw (w.extractLsb' 21 5) (w.extractLsb' 16 5) (w.extractLsb' 0 16))
  | 18 => some (.beq (w.extractLsb' 21 5) (w.extractLsb' 16 5) (w.extractLsb' 13 3) (w.extractLsb' 0 13))
  | 19 => some (.bne (w.extractLsb' 21 5) (w.extractLsb' 16 5) (w.extractLsb' 13 3) (w.extractLsb' 0 13))
  | 20 => some (.blt (w.extractLsb' 21 5) (w.extractLsb' 16 5) (w.extractLsb' 13 3) (w.extractLsb' 0 13))
  | 21 => some (.bge (w.extractLsb' 21 5) (w.extractLsb' 16 5) (w.extractLsb' 13 3) (w.extractLsb' 0 13))
  | 22 => some (.bltu (w.extractLsb' 21 5) (w.extractLsb' 16 5) (w.extractLsb' 13 3) (w.extractLsb' 0 13))
  | 23 => some (.bgeu (w.extractLsb' 21 5) (w.extractLsb' 16 5) (w.extractLsb' 13 3) (w.extractLsb' 0 13))
  | 24 => when' (zeroAt w 16 5) (.call (w.extractLsb' 21 5) (w.extractLsb' 13 3) (w.extractLsb' 0 13))
  | 25 => when' (zeroAt w 16 5) (.kloop (w.extractLsb' 21 5) (w.extractLsb' 13 3) (w.extractLsb' 0 13))
  | 26 => match (w.extractLsb' 0 1).toNat with
    | 0 => when' (zeroAt w 1 10 && zeroAt w 11 5 && zeroAt w 21 5) (.jr (w.extractLsb' 16 5))
    | 1 => when' (zeroAt w 1 10 && zeroAt w 11 5 && zeroAt w 21 5) (.jrRet (w.extractLsb' 16 5))
    | _ => none
  | 27 => match (w.extractLsb' 9 2).toNat with
    | 0 => when' (zeroAt w 0 7 && zeroAt w 11 15) (.tkpush (w.extractLsb' 7 2))
    | 1 => when' (zeroAt w 0 7 && zeroAt w 11 15) (.tkpop (w.extractLsb' 7 2))
    | _ => none
  | 28 => when' (zeroAt w 16 5) (.crrd (w.extractLsb' 21 5) (w.extractLsb' 0 16))
  | 29 => when' (zeroAt w 21 5) (.crwr (w.extractLsb' 16 5) (w.extractLsb' 0 16))
  | 30 => when' (zeroAt w 2 9) (.winx (w.extractLsb' 21 5) (w.extractLsb' 16 5) (w.extractLsb' 11 5) (w.extractLsb' 0 2))
  | 31 => when' (zeroAt w 0 11) (.sqwait (w.extractLsb' 21 5) (w.extractLsb' 16 5) (w.extractLsb' 11 5))
  | 32 => when' (zeroAt w 0 16 && zeroAt w 21 5) (.mnest (w.extractLsb' 16 5))
  | 33 => when' (zeroAt w 0 16 && zeroAt w 21 5) (.mtpb (w.extractLsb' 16 5))
  | 34 => match (w.extractLsb' 8 3).toNat with
    | 0 => when' (zeroAt w 3 5 && zeroAt w 21 5) (.mringDef (w.extractLsb' 16 5) (w.extractLsb' 11 5) (w.extractLsb' 0 3))
    | 1 => when' (zeroAt w 3 5 && zeroAt w 11 5 && zeroAt w 21 5) (.mringPush (w.extractLsb' 16 5) (w.extractLsb' 0 3))
    | 2 => when' (zeroAt w 3 5 && zeroAt w 11 5 && zeroAt w 16 5) (.mringRd (w.extractLsb' 21 5) (w.extractLsb' 0 3))
    | _ => none
  | 35 => when' (zeroAt w 0 11) (.mgo (w.extractLsb' 21 5) (w.extractLsb' 16 5) (w.extractLsb' 11 5) prf)
  | 36 => when' (zeroAt w 0 16) (.mwait (w.extractLsb' 21 5) (w.extractLsb' 16 5))
  | 37 => when' (zeroAt w 3 8 && zeroAt w 11 5) (.msnap (w.extractLsb' 21 5) (w.extractLsb' 16 5) (w.getLsbD 2) (w.extractLsb' 0 2))
  | 38 => when' (zeroAt w 8 3) (.mdrain (w.extractLsb' 21 5) (w.extractLsb' 16 5) (w.extractLsb' 11 5) (w.getLsbD 7) (w.getLsbD 6) (w.getLsbD 5) (w.getLsbD 4) (w.extractLsb' 2 2) (w.extractLsb' 0 2))
  | 39 => when' (zeroAt w 4 7 && zeroAt w 11 5 && zeroAt w 16 5) (.mzero (w.extractLsb' 21 5) (w.extractLsb' 0 4))
  | 40 => when' (zeroAt w 10 1) (.mscale (w.extractLsb' 21 5) (w.extractLsb' 16 5) (w.extractLsb' 11 5) (w.extractLsb' 4 6) (w.extractLsb' 2 2) (w.extractLsb' 0 2) prf)
  | 41 => when' (zeroAt w 0 16 && zeroAt w 21 5) (.ixdef (w.extractLsb' 16 5))
  | 42 => when' (zeroAt w 1 10) (.ixgo (w.extractLsb' 21 5) (w.extractLsb' 16 5) (w.extractLsb' 11 5) (w.getLsbD 0))
  | 43 => when' (zeroAt w 0 16) (.ixwait (w.extractLsb' 21 5) (w.extractLsb' 16 5))
  | 44 => match (w.extractLsb' 0 11).toNat with
    | 0 => when' (zeroAt w 21 5) (.galloc (w.extractLsb' 16 5) (w.extractLsb' 11 5))
    | 1 => when' (zeroAt w 11 5 && zeroAt w 21 5) (.gallocRel (w.extractLsb' 16 5))
    | _ => none
  | 45 => when' (zeroAt w 0 11) (.gbind (w.extractLsb' 21 5) (w.extractLsb' 16 5) (w.extractLsb' 11 5))
  | 46 => match (w.extractLsb' 0 11).toNat with
    | 0 => when' (zeroAt w 11 5) (.gclose (w.extractLsb' 21 5) (w.extractLsb' 16 5))
    | 1 => some (.gcloseCfg (w.extractLsb' 21 5) (w.extractLsb' 16 5) (w.extractLsb' 11 5))
    | _ => none
  | 47 => when' (zeroAt w 0 11) (.bgenq (w.extractLsb' 21 5) (w.extractLsb' 16 5) (w.extractLsb' 11 5))
  | 48 => match (w.extractLsb' 0 11).toNat with
    | 0 => when' (zeroAt w 11 5 && zeroAt w 16 5 && zeroAt w 21 5) (.eret)
    | 1 => when' (zeroAt w 11 5 && zeroAt w 16 5) (.yield (w.extractLsb' 21 5))
    | 2 => when' (zeroAt w 11 5) (.tfrd (w.extractLsb' 21 5) (w.extractLsb' 16 5))
    | 3 => when' (zeroAt w 21 5) (.tfwr (w.extractLsb' 16 5) (w.extractLsb' 11 5))
    | 4 => when' (zeroAt w 11 5) (.mqrd (w.extractLsb' 21 5) (w.extractLsb' 16 5))
    | 5 => when' (zeroAt w 21 5) (.mqwr (w.extractLsb' 16 5) (w.extractLsb' 11 5))
    | _ => none
  | 49 => match (w.extractLsb' 0 11).toNat with
    | 0 => when' (zeroAt w 11 5) (.ctxstat (w.extractLsb' 21 5) (w.extractLsb' 16 5))
    | 1 => when' (zeroAt w 11 5 && zeroAt w 21 5) (.ctxkill (w.extractLsb' 16 5))
    | _ => none
  | 50 => match (w.extractLsb' 0 11).toNat with
    | 0 => when' (zeroAt w 21 5) (.brkset (w.extractLsb' 16 5) (w.extractLsb' 11 5))
    | 1 => when' (zeroAt w 11 5 && zeroAt w 21 5) (.brkclr (w.extractLsb' 16 5))
    | 2 => when' (zeroAt w 11 5 && zeroAt w 21 5) (.swtrap (w.extractLsb' 16 5))
    | _ => none
  | 51 => match (w.extractLsb' 0 11).toNat with
    | 0 => when' (zeroAt w 11 5) (.take (w.extractLsb' 21 5) (w.extractLsb' 16 5))
    | 1 => some (.steal (w.extractLsb' 21 5) (w.extractLsb' 16 5) (w.extractLsb' 11 5))
    | 2 => some (.spawn (w.extractLsb' 21 5) (w.extractLsb' 16 5) (w.extractLsb' 11 5))
    | 3 => when' (zeroAt w 11 5) (.join (w.extractLsb' 21 5) (w.extractLsb' 16 5))
    | _ => none
  | 52 => match (w.extractLsb' 0 11).toNat with
    | 0 => some (.cqapp (w.extractLsb' 21 5) (w.extractLsb' 16 5) (w.extractLsb' 11 5))
    | 1 => when' (zeroAt w 11 5) (.cqtail (w.extractLsb' 21 5) (w.extractLsb' 16 5))
    | 2 => some (.cqstat (w.extractLsb' 21 5) (w.extractLsb' 16 5) (w.extractLsb' 11 5))
    | 3 => when' (zeroAt w 21 5) (.evpost (w.extractLsb' 16 5) (w.extractLsb' 11 5))
    | _ => none
  | 53 => match (w.extractLsb' 0 11).toNat with
    | 0 => when' (zeroAt w 21 5) (.ttwr (w.extractLsb' 16 5) (w.extractLsb' 11 5))
    | 1 => when' (zeroAt w 21 5) (.ttrd (w.extractLsb' 16 5) (w.extractLsb' 11 5))
    | 2 => when' (zeroAt w 11 5) (.ttstat (w.extractLsb' 21 5) (w.extractLsb' 16 5))
    | _ => none
  | 54 => match (w.extractLsb' 0 11).toNat with
    | 0 => some (.launch (w.extractLsb' 21 5) (w.extractLsb' 16 5) (w.extractLsb' 11 5))
    | 1 => when' (zeroAt w 11 5) (.grpid (w.extractLsb' 21 5) (w.extractLsb' 16 5))
    | 2 => when' (zeroAt w 11 5) (.grpwait (w.extractLsb' 21 5) (w.extractLsb' 16 5))
    | _ => none
  | 55 => match (w.extractLsb' 0 11).toNat with
    | 0 => when' (zeroAt w 11 5 && zeroAt w 21 5) (.lsqdef (w.extractLsb' 16 5))
    | 1 => when' (zeroAt w 11 5 && zeroAt w 16 5) (.lsqgo (w.extractLsb' 21 5))
    | 2 => some (.lsqnext (w.extractLsb' 21 5) (w.extractLsb' 16 5) (w.extractLsb' 11 5))
    | _ => none
  | 56 => match (w.extractLsb' 0 11).toNat with
    | 0 => when' (zeroAt w 11 5) (.barv (w.extractLsb' 21 5) (w.extractLsb' 16 5))
    | 1 => some (.bwait (w.extractLsb' 21 5) (w.extractLsb' 16 5) (w.extractLsb' 11 5))
    | 2 => when' (zeroAt w 21 5) (.bmask (w.extractLsb' 16 5) (w.extractLsb' 11 5))
    | 3 => when' (zeroAt w 11 5) (.bgen (w.extractLsb' 21 5) (w.extractLsb' 16 5))
    | _ => none
  | 57 => match (w.extractLsb' 0 11).toNat with
    | 0 => some (.semadd (w.extractLsb' 21 5) (w.extractLsb' 16 5) (w.extractLsb' 11 5))
    | 1 => some (.semsub (w.extractLsb' 21 5) (w.extractLsb' 16 5) (w.extractLsb' 11 5))
    | 2 => some (.semcas (w.extractLsb' 21 5) (w.extractLsb' 16 5) (w.extractLsb' 11 5))
    | _ => none
  | 58 => match (w.extractLsb' 0 11).toNat with
    | 0 => some (.semwait (w.extractLsb' 21 5) (w.extractLsb' 16 5) (w.extractLsb' 11 5))
    | 1 => when' (zeroAt w 11 5) (.semrd (w.extractLsb' 21 5) (w.extractLsb' 16 5))
    | _ => none
  | 59 => match (w.extractLsb' 0 11).toNat with
    | 0 => when' (zeroAt w 11 5) (.pgmap (w.extractLsb' 21 5) (w.extractLsb' 16 5))
    | 1 => some (.pgattr (w.extractLsb' 21 5) (w.extractLsb' 16 5) (w.extractLsb' 11 5))
    | 2 => when' (zeroAt w 11 5) (.pgqry (w.extractLsb' 21 5) (w.extractLsb' 16 5))
    | _ => none
  | 60 => match (w.extractLsb' 0 11).toNat with
    | 0 => some (.tlbinv (w.extractLsb' 21 5) (w.extractLsb' 16 5) (w.extractLsb' 11 5))
    | 1 => some (.seal (w.extractLsb' 21 5) (w.extractLsb' 16 5) (w.extractLsb' 11 5))
    | 2 => some (.unseal (w.extractLsb' 21 5) (w.extractLsb' 16 5) (w.extractLsb' 11 5))
    | _ => none
  | 61 => match (w.extractLsb' 0 11).toNat with
    | 0 => when' (zeroAt w 11 5 && zeroAt w 21 5) (.coll (w.extractLsb' 16 5))
    | 1 => when' (zeroAt w 11 5) (.colwait (w.extractLsb' 21 5) (w.extractLsb' 16 5))
    | 2 => when' (zeroAt w 11 5) (.lnkst (w.extractLsb' 21 5) (w.extractLsb' 16 5))
    | 3 => when' (zeroAt w 11 5 && zeroAt w 16 5) (.tmrd (w.extractLsb' 21 5))
    | _ => none
  | 62 => match (w.extractLsb' 0 11).toNat with
    | 0 => when' (zeroAt w 11 5) (.bpush (w.extractLsb' 21 5) (w.extractLsb' 16 5))
    | 1 => some (.bclose (w.extractLsb' 21 5) (w.extractLsb' 16 5) (w.extractLsb' 11 5))
    | 2 => some (.bsub (w.extractLsb' 21 5) (w.extractLsb' 16 5) (w.extractLsb' 11 5))
    | 3 => some (.brule (w.extractLsb' 21 5) (w.extractLsb' 16 5) (w.extractLsb' 11 5))
    | 4 => some (.bstat (w.extractLsb' 21 5) (w.extractLsb' 16 5) (w.extractLsb' 11 5))
    | _ => none
  | 63 => when' (zeroAt w 3 8 && zeroAt w 11 5 && zeroAt w 16 5 && zeroAt w 21 5) (.fence (w.extractLsb' 0 3))
  | _ => none

/-- A word of L (R131; the encoding lines of 07). The all-zero word is NOP (R134). -/
def parseL (w : IWord) (tok : Tok) : Option Instr :=
  match (w.extractLsb' 26 6).toNat with
  | 0 => when' (w == 0 && tok == Tok.none) .nop
  | 1 => when' (zeroAt w 0 6 && zeroAt w 18 4) (.ld tok (w.extractLsb' 22 4) (w.extractLsb' 6 10))
  | 2 => when' (zeroAt w 0 6) (.lds tok (w.extractLsb' 22 4) (w.extractLsb' 18 4) (w.extractLsb' 6 10))
  | 3 => when' (zeroAt w 0 4) (.ldi tok (w.extractLsb' 22 4) (w.extractLsb' 18 4) (w.extractLsb' 6 10) (w.extractLsb' 4 2))
  | 4 => when' (zeroAt w 0 6) (.lgb tok (w.extractLsb' 22 4) (w.extractLsb' 18 4) (w.extractLsb' 6 10))
  | 5 => when' (zeroAt w 0 6) (.lrrd tok (w.extractLsb' 22 4) (w.extractLsb' 18 4) (w.extractLsb' 6 10))
  | 6 => when' (zeroAt w 0 6 && zeroAt w 25 1) (.fbopen tok (w.extractLsb' 22 3) (w.extractLsb' 18 4) (w.extractLsb' 6 10))
  | 7 => when' (zeroAt w 0 16 && zeroAt w 18 4 && zeroAt w 25 1) (.fbnext tok (w.extractLsb' 22 3))
  | 8 => when' (zeroAt w 18 4 && zeroAt w 25 1) (.fbend tok (w.extractLsb' 22 3) (w.extractLsb' 13 3) (w.extractLsb' 0 13))
  | 9 => when' (zeroAt w 0 16 && zeroAt w 18 4 && zeroAt w 25 1) (.fbclose tok (w.extractLsb' 22 3))
  | 10 => when' (zeroAt w 4 12 && zeroAt w 18 4 && zeroAt w 22 4) (.lmark tok (w.extractLsb' 0 4))
  | 11 => when' (zeroAt w 8 8 && zeroAt w 18 4) (.lOwne tok (w.extractLsb' 22 4) (w.extractLsb' 0 8))
  | 12 => when' (zeroAt w 8 8 && zeroAt w 18 4) (.lOwnx tok (w.extractLsb' 22 4) (w.extractLsb' 0 8))
  | 13 => when' (zeroAt w 3 13 && zeroAt w 18 4 && zeroAt w 22 4) (.lFence tok (w.extractLsb' 0 3))
  | 14 => match (w.extractLsb' 14 2).toNat with
    | 0 => some (.laadd tok (w.extractLsb' 22 4) (w.extractLsb' 18 4) (w.extractLsb' 0 14))
    | 1 => some (.laaddLo tok (w.extractLsb' 22 4) (w.extractLsb' 18 4) (w.extractLsb' 0 14))
    | 2 => some (.laaddHi tok (w.extractLsb' 22 4) (w.extractLsb' 18 4) (w.extractLsb' 0 14))
    | _ => none
  | 15 => when' (zeroAt w 18 4) (.lali tok (w.extractLsb' 22 4) (w.extractLsb' 0 16))
  | 16 => some (.lak tok (w.extractLsb' 22 4) (w.extractLsb' 18 4) (w.extractLsb' 0 16))
  | 17 => some (.lbr tok (w.extractLsb' 22 4) (w.extractLsb' 18 4) (w.extractLsb' 13 3) (w.extractLsb' 0 13))
  | 18 => when' (zeroAt w 18 4) (.lloop tok (w.extractLsb' 22 4) (w.extractLsb' 13 3) (w.extractLsb' 0 13))
  | _ => none

/-- A word of S (R131; the encoding lines of 07). -/
def parseS (w : IWord) (tok : Tok) : Option Instr :=
  match (w.extractLsb' 26 6).toNat with
  | 0 => when' (w == 0 && tok == Tok.none) .nop
  | 1 => when' (zeroAt w 1 5 && zeroAt w 18 4) (.st tok (w.extractLsb' 22 4) (w.extractLsb' 6 10) (w.getLsbD 0))
  | 2 => when' (zeroAt w 1 5) (.sts tok (w.extractLsb' 22 4) (w.extractLsb' 18 4) (w.extractLsb' 6 10) (w.getLsbD 0))
  | 3 => when' (zeroAt w 0 4) (.sti tok (w.extractLsb' 22 4) (w.extractLsb' 18 4) (w.extractLsb' 6 10) (w.extractLsb' 4 2))
  | 4 => when' (zeroAt w 0 6) (.ssb tok (w.extractLsb' 22 4) (w.extractLsb' 18 4) (w.extractLsb' 6 10))
  | 5 => match (w.extractLsb' 4 2).toNat with
    | 0 => when' (zeroAt w 1 3) (.putsigFlag8 tok (w.extractLsb' 22 4) (w.extractLsb' 18 4) (w.extractLsb' 6 10) (w.getLsbD 0))
    | 1 => when' (zeroAt w 1 3) (.putsigFlag4 tok (w.extractLsb' 22 4) (w.extractLsb' 18 4) (w.extractLsb' 6 10) (w.getLsbD 0))
    | 2 => when' (zeroAt w 1 3) (.putsigSemadd tok (w.extractLsb' 22 4) (w.extractLsb' 18 4) (w.extractLsb' 6 10) (w.getLsbD 0))
    | _ => none
  | 6 => when' (zeroAt w 4 12 && zeroAt w 18 4 && zeroAt w 22 4) (.smark tok (w.extractLsb' 0 4))
  | 7 => when' (zeroAt w 8 8 && zeroAt w 18 4) (.sOwne tok (w.extractLsb' 22 4) (w.extractLsb' 0 8))
  | 8 => when' (zeroAt w 8 8 && zeroAt w 18 4) (.sOwnx tok (w.extractLsb' 22 4) (w.extractLsb' 0 8))
  | 9 => when' (zeroAt w 3 13 && zeroAt w 18 4 && zeroAt w 22 4) (.sFence tok (w.extractLsb' 0 3))
  | 10 => match (w.extractLsb' 14 2).toNat with
    | 0 => some (.saadd tok (w.extractLsb' 22 4) (w.extractLsb' 18 4) (w.extractLsb' 0 14))
    | 1 => some (.saaddLo tok (w.extractLsb' 22 4) (w.extractLsb' 18 4) (w.extractLsb' 0 14))
    | 2 => some (.saaddHi tok (w.extractLsb' 22 4) (w.extractLsb' 18 4) (w.extractLsb' 0 14))
    | _ => none
  | 11 => when' (zeroAt w 18 4) (.sali tok (w.extractLsb' 22 4) (w.extractLsb' 0 16))
  | 12 => some (.sak tok (w.extractLsb' 22 4) (w.extractLsb' 18 4) (w.extractLsb' 0 16))
  | 13 => some (.sbr tok (w.extractLsb' 22 4) (w.extractLsb' 18 4) (w.extractLsb' 13 3) (w.extractLsb' 0 13))
  | 14 => when' (zeroAt w 18 4) (.sloop tok (w.extractLsb' 22 4) (w.extractLsb' 13 3) (w.extractLsb' 0 13))
  | 15 => when' (zeroAt w 0 16 && zeroAt w 18 4 && zeroAt w 22 4) (.sdrop tok)
  | _ => none

/-- A word of X (R127, R131; the encoding lines of 08): `x` holds the word's fields and its extension words. In an XM word
the B field is MINOR and is left zero in the instruction; VMOV's EF bit tells VMOV.E from VMOV. -/
def parseX (w : IWord) (x : XArgs) : Option Instr :=
  let m := { x with b := 0 }
  match (w.extractLsb' 26 6).toNat with
  | 0 => when' (w == 0 && x.oper.isNone && x.imm.isNone && x.prf.isNone && x.slu.isNone) .nop
  | 1 => some (.vadd x)
  | 2 => some (.vsub x)
  | 3 => some (.vmul x)
  | 4 => some (.vfma x)
  | 5 => some (.vfms x)
  | 6 => some (.vfnma x)
  | 7 => some (.vdiv x)
  | 8 => some (.vmin x)
  | 9 => some (.vmax x)
  | 10 => some (.vminp x)
  | 11 => some (.vmaxp x)
  | 12 => some (.vabs x)
  | 13 => some (.vneg x)
  | 14 => some (.vceq x)
  | 15 => some (.vcne x)
  | 16 => some (.vclt x)
  | 17 => some (.vcle x)
  | 18 => some (.vcun x)
  | 19 => some (.vsel x)
  | 20 => some (.vand x)
  | 21 => some (.vor x)
  | 22 => some (.vxor x)
  | 23 => some (.vandn x)
  | 24 => some (.vshl x)
  | 25 => some (.vshr x)
  | 26 => some (.vsra x)
  | 27 => some (.vadds x)
  | 28 => some (.vsubs x)
  | 29 => some (.vcvt x)
  | 30 => some (.vsqrt x)
  | 31 => some (.vrcp x)
  | 32 => some (.vrsq x)
  | 33 => some (.vexp2 x)
  | 34 => some (.vlog2 x)
  | 35 => some (.vsinp x)
  | 36 => some (.vcosp x)
  | 37 => some (.vcmul x)
  | 38 => if x.b.getLsbD 6 then some (.vmovE { x with b := x.b &&& 63 }) else some (.vmov x)
  | 39 => some (.vscal x)
  | 40 => some (.vdq x)
  | 48 => some (.cmset x)
  | 49 => some (.cmget x)
  | 50 => some (.cmslice x)
  | 51 => some (.cmperm x)
  | 52 => some (.cmchk x)
  | 53 => some (.pcrd x)
  | 54 => some (.vhash x)
  | 55 => some (.vtwid x)
  | 56 => some (.vperm x)
  | 57 => match x.b.toNat with
    | 0 => some (.vxpose m)
    | 1 => some (.vreshp m)
    | _ => none
  | 58 => match x.b.toNat with
    | 0 => some (.vbce m)
    | 1 => some (.vbcr m)
    | 2 => some (.vbcc m)
    | _ => none
  | 59 => match x.b.toNat with
    | 0 => some (.vcompact m)
    | 1 => some (.vredq m)
    | 2 => some (.vredr m)
    | _ => none
  | 60 => match x.b.toNat with
    | 0 => some (.wacc m)
    | 1 => some (.wfma m)
    | 2 => some (.wnar m)
    | 3 => some (.wzero m)
    | _ => none
  | 61 => match x.b.toNat with
    | 0 => some (.pand m)
    | 1 => some (.por m)
    | 2 => some (.pxor m)
    | 3 => some (.pnot m)
    | 4 => some (.pset m)
    | 5 => some (.pmov m)
    | _ => none
  | 62 => match x.b.toNat with
    | 0 => some (.xloop m)
    | 1 => some (.xlend m)
    | 2 => some (.xwait m)
    | 3 => some (.xpush m)
    | _ => none
  | 63 => match x.b.toNat with
    | 0 => some (.vqnt m)
    | 1 => some (.gread m)
    | 2 => some (.gstat m)
    | _ => none
  | _ => none

/-- The fields of an X word (R127). -/
def xFields (w : IWord) (e : Exts) : XArgs :=
  { st := w.extractLsb' 24 2, pb := w.getLsbD 23, pa := w.getLsbD 22, d := w.extractLsb' 16 6, a := w.extractLsb' 9 7
    b := w.extractLsb' 2 7, t := w.extractLsb' 0 2, oper := e.oper, imm := e.imm, prf := e.prf, slu := e.slu }

/-- A word and its extension words in one stream, before the entry's own demands. -/
def parse (st : Stream) (w : IWord) (e : Exts) : Option Instr :=
  match st with
  | .k =>
    -- only MGO and MSCALE carry an extension word, and they must carry kind 0x3 (R64, R130)
    let op := (w.extractLsb' 26 6).toNat
    let plain := e.oper.isNone && e.imm.isNone && e.slu.isNone
    match e.prf with
    | some p => if plain && (op == 35 || op == 40) then parseK w p else none
    | none => if plain && op != 35 && op != 40 then parseK w 0 else none
  | .l =>
    if e.oper.isNone && e.imm.isNone && e.prf.isNone then
      parseL w { pb := w.getLsbD 17, pa := w.getLsbD 16, ext := e.slu }
    else none
  | .s =>
    if e.oper.isNone && e.imm.isNone && e.prf.isNone then
      parseS w { pb := w.getLsbD 17, pa := w.getLsbD 16, ext := e.slu }
    else none
  | .x => parseX w (xFields w e)

/-- The decoder: a slot word with its extension words, in the stream its tag names; none where the encoding is no
instruction (R135). -/
def decode (st : Stream) (w : IWord) (exts : List IWord) : Option Instr :=
  match parseExts exts Exts.none with
  | none => none
  | some e =>
    match parse st w e with
    | some i => if i.wf then some i else none
    | none => none

/-- The stream a bare word is read in where no slot tag names one: the first of K, L, S, X whose decoder takes it. -/
def decodeAny (w : IWord) (exts : List IWord) : Option (Stream × Instr) :=
  firstSome (fun st => (decode st w exts).map fun i => (st, i)) [Stream.k, .l, .s, .x]

/-- The 32-bit words of a number, low word first: `n` of them. -/
def wordsOf : Nat → Nat → List IWord
  | 0, _ => []
  | n + 1, x => BitVec.ofNat 32 x :: wordsOf n (x / 2 ^ 32)

/-- The words of an instruction given as the opcode table numbers bits: the first word, then its extension words. -/
def tableWords (nbits w : Nat) : List IWord := wordsOf (max 1 (ceilDiv nbits 32)) w

/-- The instruction the decoder reads from a table word. The table names no stream: `decodeAny` says which is tried first. -/
def decodeTableWord (nbits w : Nat) : Option Instr :=
  match tableWords nbits w with
  | [] => none
  | v :: exts => (decodeAny v exts).map (·.2)

-- Encoding ------------------------------------------------------------------------------------------------------------

/-- A field placed at bit `lo`. -/
def put {n : Nat} (x : BitVec n) (lo : Nat) : IWord := x.setWidth 32 <<< lo

/-- One bit placed at bit `lo`. -/
def putB (b : Bool) (lo : Nat) : IWord := if b then 1#32 <<< lo else 0

/-- A constant placed at bit `lo`. -/
def putN (n lo : Nat) : IWord := BitVec.ofNat 32 (n * 2 ^ lo)

def encOper (o : XOper) : IWord :=
  putN 1 28 ||| put o.c 21 ||| put o.fmt 15 ||| putB o.fv 14 ||| put o.rm 12 ||| put o.mc 10 ||| putB o.mchk 9
    ||| putB o.ovf 8 ||| putB o.sat 7

def encImm (i : BitVec 16) : IWord := putN 2 28 ||| put i 0

def encPrf (p : BitVec 8) : IWord := putN 3 28 ||| put p 0

def encSlu (s : BitVec 2 × BitVec 2) : IWord := putN 4 28 ||| put s.1 26 ||| put s.2 24

/-- The extension words of an X instruction, kind 0x1 first, then 0x2, 0x3 and 0x4 (R139). -/
def encExts (x : XArgs) : List IWord :=
  (x.oper.map encOper).toList ++ (x.imm.map encImm).toList ++ (x.prf.map encPrf).toList ++ (x.slu.map encSlu).toList

/-- An X or XM word with major `op` and `b` in the B or MINOR field (R127). -/
def encX (op : Nat) (b : BitVec 7) (x : XArgs) : IWord × List IWord :=
  (putN op 26 ||| put x.st 24 ||| putB x.pb 23 ||| putB x.pa 22 ||| put x.d 16 ||| put x.a 9 ||| put b 2 ||| put x.t 0,
    encExts x)

/-- An L or S word with its kind-0x4 word (R127, R129). -/
def encLS (op : Nat) (t : Tok) (w : IWord) : IWord × List IWord :=
  (putN op 26 ||| putB t.pb 17 ||| putB t.pa 16 ||| w, (t.ext.map encSlu).toList)

/-- A K word. -/
def encK (op : Nat) (w : IWord) : IWord × List IWord := (putN op 26 ||| w, [])

/-- The words of an instruction: its slot word and its extension words. An event has none and gives the word of NOP. -/
def encode (i : Instr) : IWord × List IWord :=
  match i with
  | .nop => (0, [])
  | .add d a b => encK 1 (put d 21 ||| put a 16 ||| put b 11)
  | .sub d a b => encK 1 (put d 21 ||| put a 16 ||| put b 11 ||| putN 1 0)
  | .and d a b => encK 1 (put d 21 ||| put a 16 ||| put b 11 ||| putN 2 0)
  | .or d a b => encK 1 (put d 21 ||| put a 16 ||| put b 11 ||| putN 3 0)
  | .xor d a b => encK 1 (put d 21 ||| put a 16 ||| put b 11 ||| putN 4 0)
  | .shl d a b => encK 1 (put d 21 ||| put a 16 ||| put b 11 ||| putN 5 0)
  | .shr d a b => encK 1 (put d 21 ||| put a 16 ||| put b 11 ||| putN 6 0)
  | .sra d a b => encK 1 (put d 21 ||| put a 16 ||| put b 11 ||| putN 7 0)
  | .mul d a b => encK 1 (put d 21 ||| put a 16 ||| put b 11 ||| putN 8 0)
  | .mulh d a b => encK 1 (put d 21 ||| put a 16 ||| put b 11 ||| putN 9 0)
  | .mulhu d a b => encK 1 (put d 21 ||| put a 16 ||| put b 11 ||| putN 10 0)
  | .div d a b => encK 1 (put d 21 ||| put a 16 ||| put b 11 ||| putN 11 0)
  | .divu d a b => encK 1 (put d 21 ||| put a 16 ||| put b 11 ||| putN 12 0)
  | .rem d a b => encK 1 (put d 21 ||| put a 16 ||| put b 11 ||| putN 13 0)
  | .remu d a b => encK 1 (put d 21 ||| put a 16 ||| put b 11 ||| putN 14 0)
  | .min d a b => encK 1 (put d 21 ||| put a 16 ||| put b 11 ||| putN 15 0)
  | .max d a b => encK 1 (put d 21 ||| put a 16 ||| put b 11 ||| putN 16 0)
  | .minu d a b => encK 1 (put d 21 ||| put a 16 ||| put b 11 ||| putN 17 0)
  | .maxu d a b => encK 1 (put d 21 ||| put a 16 ||| put b 11 ||| putN 18 0)
  | .ceq d a b => encK 2 (put d 21 ||| put a 16 ||| put b 11)
  | .cne d a b => encK 2 (put d 21 ||| put a 16 ||| put b 11 ||| putN 1 0)
  | .clt d a b => encK 2 (put d 21 ||| put a 16 ||| put b 11 ||| putN 2 0)
  | .cltu d a b => encK 2 (put d 21 ||| put a 16 ||| put b 11 ||| putN 3 0)
  | .cge d a b => encK 2 (put d 21 ||| put a 16 ||| put b 11 ||| putN 4 0)
  | .cgeu d a b => encK 2 (put d 21 ||| put a 16 ||| put b 11 ||| putN 5 0)
  | .sel d a b cr => encK 3 (put d 21 ||| put a 16 ||| put b 11 ||| put cr 6)
  | .addi d a imm => encK 4 (put d 21 ||| put a 16 ||| put imm 0)
  | .andi d a imm => encK 5 (put d 21 ||| put a 16 ||| put imm 0)
  | .ori d a imm => encK 6 (put d 21 ||| put a 16 ||| put imm 0)
  | .xori d a imm => encK 7 (put d 21 ||| put a 16 ||| put imm 0)
  | .shli d a amt => encK 8 (put d 21 ||| put a 16 ||| put amt 0)
  | .shri d a amt => encK 8 (put d 21 ||| put a 16 ||| put amt 0 ||| putN 1 6)
  | .srai d a amt => encK 8 (put d 21 ||| put a 16 ||| put amt 0 ||| putN 2 6)
  | .li d imm => encK 9 (put d 21 ||| put imm 0)
  | .ors16 d a imm => encK 10 (put d 21 ||| put a 16 ||| put imm 0)
  | .ors32 d a imm => encK 11 (put d 21 ||| put a 16 ||| put imm 0)
  | .ors48 d a imm => encK 12 (put d 21 ||| put a 16 ||| put imm 0)
  | .slti d a imm => encK 13 (put d 21 ||| put a 16 ||| put imm 0)
  | .kld d a imm => encK 14 (put d 21 ||| put a 16 ||| put imm 0)
  | .kldw d a imm => encK 15 (put d 21 ||| put a 16 ||| put imm 0)
  | .kst d a imm => encK 16 (put d 21 ||| put a 16 ||| put imm 0)
  | .kstw d a imm => encK 17 (put d 21 ||| put a 16 ||| put imm 0)
  | .beq a b slot line => encK 18 (put a 21 ||| put b 16 ||| put slot 13 ||| put line 0)
  | .bne a b slot line => encK 19 (put a 21 ||| put b 16 ||| put slot 13 ||| put line 0)
  | .blt a b slot line => encK 20 (put a 21 ||| put b 16 ||| put slot 13 ||| put line 0)
  | .bge a b slot line => encK 21 (put a 21 ||| put b 16 ||| put slot 13 ||| put line 0)
  | .bltu a b slot line => encK 22 (put a 21 ||| put b 16 ||| put slot 13 ||| put line 0)
  | .bgeu a b slot line => encK 23 (put a 21 ||| put b 16 ||| put slot 13 ||| put line 0)
  | .call a slot line => encK 24 (put a 21 ||| put slot 13 ||| put line 0)
  | .kloop a slot line => encK 25 (put a 21 ||| put slot 13 ||| put line 0)
  | .jr a => encK 26 (put a 16)
  | .jrRet a => encK 26 (put a 16 ||| putN 1 0)
  | .tkpush sl => encK 27 (put sl 7)
  | .tkpop sl => encK 27 (put sl 7 ||| putN 1 9)
  | .crrd d crn => encK 28 (put d 21 ||| put crn 0)
  | .crwr a crn => encK 29 (put a 16 ||| put crn 0)
  | .winx d a b acc => encK 30 (put d 21 ||| put a 16 ||| put b 11 ||| put acc 0)
  | .sqwait d a b => encK 31 (put d 21 ||| put a 16 ||| put b 11)
  | .mnest a => encK 32 (put a 16)
  | .mtpb a => encK 33 (put a 16)
  | .mringDef a b rg => encK 34 (put a 16 ||| put b 11 ||| put rg 0)
  | .mringPush a rg => encK 34 (put a 16 ||| put rg 0 ||| putN 1 8)
  | .mringRd d rg => encK 34 (put d 21 ||| put rg 0 ||| putN 2 8)
  | .mgo d a b prf => (putN 35 26 ||| put d 21 ||| put a 16 ||| put b 11, [encPrf prf])
  | .mwait d a => encK 36 (put d 21 ||| put a 16)
  | .msnap d a rel t => encK 37 (put d 21 ||| put a 16 ||| putB rel 2 ||| put t 0)
  | .mdrain d a b za key rel ovf rm t => encK 38 (put d 21 ||| put a 16 ||| put b 11 ||| putB za 7 ||| putB key 6 ||| putB rel 5 ||| putB ovf 4 ||| put rm 2 ||| put t 0)
  | .mzero d mask => encK 39 (put d 21 ||| put mask 0)
  | .mscale d a b sfmt src dst prf => (putN 40 26 ||| put d 21 ||| put a 16 ||| put b 11 ||| put sfmt 4 ||| put src 2 ||| put dst 0, [encPrf prf])
  | .ixdef a => encK 41 (put a 16)
  | .ixgo d a b rel => encK 42 (put d 21 ||| put a 16 ||| put b 11 ||| putB rel 0)
  | .ixwait d a => encK 43 (put d 21 ||| put a 16)
  | .galloc a b => encK 44 (put a 16 ||| put b 11)
  | .gallocRel a => encK 44 (put a 16 ||| putN 1 0)
  | .gbind d a b => encK 45 (put d 21 ||| put a 16 ||| put b 11)
  | .gclose d a => encK 46 (put d 21 ||| put a 16)
  | .gcloseCfg d a b => encK 46 (put d 21 ||| put a 16 ||| put b 11 ||| putN 1 0)
  | .bgenq d a b => encK 47 (put d 21 ||| put a 16 ||| put b 11)
  | .eret => encK 48 (0)
  | .yield d => encK 48 (put d 21 ||| putN 1 0)
  | .tfrd d a => encK 48 (put d 21 ||| put a 16 ||| putN 2 0)
  | .tfwr a b => encK 48 (put a 16 ||| put b 11 ||| putN 3 0)
  | .mqrd d a => encK 48 (put d 21 ||| put a 16 ||| putN 4 0)
  | .mqwr a b => encK 48 (put a 16 ||| put b 11 ||| putN 5 0)
  | .ctxstat d a => encK 49 (put d 21 ||| put a 16)
  | .ctxkill a => encK 49 (put a 16 ||| putN 1 0)
  | .brkset a b => encK 50 (put a 16 ||| put b 11)
  | .brkclr a => encK 50 (put a 16 ||| putN 1 0)
  | .swtrap a => encK 50 (put a 16 ||| putN 2 0)
  | .take d a => encK 51 (put d 21 ||| put a 16)
  | .steal d a b => encK 51 (put d 21 ||| put a 16 ||| put b 11 ||| putN 1 0)
  | .spawn d a b => encK 51 (put d 21 ||| put a 16 ||| put b 11 ||| putN 2 0)
  | .join d a => encK 51 (put d 21 ||| put a 16 ||| putN 3 0)
  | .cqapp d a b => encK 52 (put d 21 ||| put a 16 ||| put b 11)
  | .cqtail d a => encK 52 (put d 21 ||| put a 16 ||| putN 1 0)
  | .cqstat d a b => encK 52 (put d 21 ||| put a 16 ||| put b 11 ||| putN 2 0)
  | .evpost a b => encK 52 (put a 16 ||| put b 11 ||| putN 3 0)
  | .ttwr a b => encK 53 (put a 16 ||| put b 11)
  | .ttrd a b => encK 53 (put a 16 ||| put b 11 ||| putN 1 0)
  | .ttstat d a => encK 53 (put d 21 ||| put a 16 ||| putN 2 0)
  | .launch d a b => encK 54 (put d 21 ||| put a 16 ||| put b 11)
  | .grpid d a => encK 54 (put d 21 ||| put a 16 ||| putN 1 0)
  | .grpwait d a => encK 54 (put d 21 ||| put a 16 ||| putN 2 0)
  | .lsqdef a => encK 55 (put a 16)
  | .lsqgo d => encK 55 (put d 21 ||| putN 1 0)
  | .lsqnext d a b => encK 55 (put d 21 ||| put a 16 ||| put b 11 ||| putN 2 0)
  | .barv d a => encK 56 (put d 21 ||| put a 16)
  | .bwait d a b => encK 56 (put d 21 ||| put a 16 ||| put b 11 ||| putN 1 0)
  | .bmask a b => encK 56 (put a 16 ||| put b 11 ||| putN 2 0)
  | .bgen d a => encK 56 (put d 21 ||| put a 16 ||| putN 3 0)
  | .semadd d a b => encK 57 (put d 21 ||| put a 16 ||| put b 11)
  | .semsub d a b => encK 57 (put d 21 ||| put a 16 ||| put b 11 ||| putN 1 0)
  | .semcas d a b => encK 57 (put d 21 ||| put a 16 ||| put b 11 ||| putN 2 0)
  | .semwait d a b => encK 58 (put d 21 ||| put a 16 ||| put b 11)
  | .semrd d a => encK 58 (put d 21 ||| put a 16 ||| putN 1 0)
  | .pgmap d a => encK 59 (put d 21 ||| put a 16)
  | .pgattr d a b => encK 59 (put d 21 ||| put a 16 ||| put b 11 ||| putN 1 0)
  | .pgqry d a => encK 59 (put d 21 ||| put a 16 ||| putN 2 0)
  | .tlbinv d a b => encK 60 (put d 21 ||| put a 16 ||| put b 11)
  | .seal d a b => encK 60 (put d 21 ||| put a 16 ||| put b 11 ||| putN 1 0)
  | .unseal d a b => encK 60 (put d 21 ||| put a 16 ||| put b 11 ||| putN 2 0)
  | .coll a => encK 61 (put a 16)
  | .colwait d a => encK 61 (put d 21 ||| put a 16 ||| putN 1 0)
  | .lnkst d a => encK 61 (put d 21 ||| put a 16 ||| putN 2 0)
  | .tmrd d => encK 61 (put d 21 ||| putN 3 0)
  | .bpush d a => encK 62 (put d 21 ||| put a 16)
  | .bclose d a b => encK 62 (put d 21 ||| put a 16 ||| put b 11 ||| putN 1 0)
  | .bsub d a b => encK 62 (put d 21 ||| put a 16 ||| put b 11 ||| putN 2 0)
  | .brule d a b => encK 62 (put d 21 ||| put a 16 ||| put b 11 ||| putN 3 0)
  | .bstat d a b => encK 62 (put d 21 ||| put a 16 ||| put b 11 ||| putN 4 0)
  | .fence scope => encK 63 (put scope 0)
  | .ld tok a desc => encLS 1 tok (put a 22 ||| put desc 6)
  | .lds tok a b desc => encLS 2 tok (put a 22 ||| put b 18 ||| put desc 6)
  | .ldi tok a b desc ix => encLS 3 tok (put a 22 ||| put b 18 ||| put desc 6 ||| put ix 4)
  | .lgb tok a b desc => encLS 4 tok (put a 22 ||| put b 18 ||| put desc 6)
  | .lrrd tok a b desc => encLS 5 tok (put a 22 ||| put b 18 ||| put desc 6)
  | .fbopen tok fb b desc => encLS 6 tok (put fb 22 ||| put b 18 ||| put desc 6)
  | .fbnext tok fb => encLS 7 tok (put fb 22)
  | .fbend tok fb slot line => encLS 8 tok (put fb 22 ||| put slot 13 ||| put line 0)
  | .fbclose tok fb => encLS 9 tok (put fb 22)
  | .lmark tok m => encLS 10 tok (put m 0)
  | .lOwne tok a cnt => encLS 11 tok (put a 22 ||| put cnt 0)
  | .lOwnx tok a cnt => encLS 12 tok (put a 22 ||| put cnt 0)
  | .lFence tok scope => encLS 13 tok (put scope 0)
  | .laadd tok a b val => encLS 14 tok (put a 22 ||| put b 18 ||| put val 0)
  | .laaddLo tok a b val => encLS 14 tok (put a 22 ||| put b 18 ||| put val 0 ||| putN 1 14)
  | .laaddHi tok a b val => encLS 14 tok (put a 22 ||| put b 18 ||| put val 0 ||| putN 2 14)
  | .lali tok a imm => encLS 15 tok (put a 22 ||| put imm 0)
  | .lak tok a b imm => encLS 16 tok (put a 22 ||| put b 18 ||| put imm 0)
  | .lbr tok a b slot line => encLS 17 tok (put a 22 ||| put b 18 ||| put slot 13 ||| put line 0)
  | .lloop tok a slot line => encLS 18 tok (put a 22 ||| put slot 13 ||| put line 0)
  | .st tok a desc chk => encLS 1 tok (put a 22 ||| put desc 6 ||| putB chk 0)
  | .sts tok a b desc chk => encLS 2 tok (put a 22 ||| put b 18 ||| put desc 6 ||| putB chk 0)
  | .sti tok a b desc ix => encLS 3 tok (put a 22 ||| put b 18 ||| put desc 6 ||| put ix 4)
  | .ssb tok a b desc => encLS 4 tok (put a 22 ||| put b 18 ||| put desc 6)
  | .putsigFlag8 tok a b desc chk => encLS 5 tok (put a 22 ||| put b 18 ||| put desc 6 ||| putB chk 0)
  | .putsigFlag4 tok a b desc chk => encLS 5 tok (put a 22 ||| put b 18 ||| put desc 6 ||| putB chk 0 ||| putN 1 4)
  | .putsigSemadd tok a b desc chk => encLS 5 tok (put a 22 ||| put b 18 ||| put desc 6 ||| putB chk 0 ||| putN 2 4)
  | .smark tok m => encLS 6 tok (put m 0)
  | .sOwne tok a cnt => encLS 7 tok (put a 22 ||| put cnt 0)
  | .sOwnx tok a cnt => encLS 8 tok (put a 22 ||| put cnt 0)
  | .sFence tok scope => encLS 9 tok (put scope 0)
  | .saadd tok a b val => encLS 10 tok (put a 22 ||| put b 18 ||| put val 0)
  | .saaddLo tok a b val => encLS 10 tok (put a 22 ||| put b 18 ||| put val 0 ||| putN 1 14)
  | .saaddHi tok a b val => encLS 10 tok (put a 22 ||| put b 18 ||| put val 0 ||| putN 2 14)
  | .sali tok a imm => encLS 11 tok (put a 22 ||| put imm 0)
  | .sak tok a b imm => encLS 12 tok (put a 22 ||| put b 18 ||| put imm 0)
  | .sbr tok a b slot line => encLS 13 tok (put a 22 ||| put b 18 ||| put slot 13 ||| put line 0)
  | .sloop tok a slot line => encLS 14 tok (put a 22 ||| put slot 13 ||| put line 0)
  | .sdrop tok => encLS 15 tok (0)
  | .vadd x => encX 1 x.b x
  | .vsub x => encX 2 x.b x
  | .vmul x => encX 3 x.b x
  | .vfma x => encX 4 x.b x
  | .vfms x => encX 5 x.b x
  | .vfnma x => encX 6 x.b x
  | .vdiv x => encX 7 x.b x
  | .vmin x => encX 8 x.b x
  | .vmax x => encX 9 x.b x
  | .vminp x => encX 10 x.b x
  | .vmaxp x => encX 11 x.b x
  | .vabs x => encX 12 x.b x
  | .vneg x => encX 13 x.b x
  | .vceq x => encX 14 x.b x
  | .vcne x => encX 15 x.b x
  | .vclt x => encX 16 x.b x
  | .vcle x => encX 17 x.b x
  | .vcun x => encX 18 x.b x
  | .vsel x => encX 19 x.b x
  | .vand x => encX 20 x.b x
  | .vor x => encX 21 x.b x
  | .vxor x => encX 22 x.b x
  | .vandn x => encX 23 x.b x
  | .vshl x => encX 24 x.b x
  | .vshr x => encX 25 x.b x
  | .vsra x => encX 26 x.b x
  | .vadds x => encX 27 x.b x
  | .vsubs x => encX 28 x.b x
  | .vcvt x => encX 29 x.b x
  | .vsqrt x => encX 30 x.b x
  | .vrcp x => encX 31 x.b x
  | .vrsq x => encX 32 x.b x
  | .vexp2 x => encX 33 x.b x
  | .vlog2 x => encX 34 x.b x
  | .vsinp x => encX 35 x.b x
  | .vcosp x => encX 36 x.b x
  | .vcmul x => encX 37 x.b x
  | .vmov x => encX 38 x.b x
  | .vmovE x => encX 38 (x.b ||| 64) x
  | .vscal x => encX 39 x.b x
  | .vdq x => encX 40 x.b x
  | .cmset x => encX 48 x.b x
  | .cmget x => encX 49 x.b x
  | .cmslice x => encX 50 x.b x
  | .cmperm x => encX 51 x.b x
  | .cmchk x => encX 52 x.b x
  | .pcrd x => encX 53 x.b x
  | .vhash x => encX 54 x.b x
  | .vtwid x => encX 55 x.b x
  | .vperm x => encX 56 x.b x
  | .vxpose x => encX 57 0 x
  | .vreshp x => encX 57 1 x
  | .vbce x => encX 58 0 x
  | .vbcr x => encX 58 1 x
  | .vbcc x => encX 58 2 x
  | .vcompact x => encX 59 0 x
  | .vredq x => encX 59 1 x
  | .vredr x => encX 59 2 x
  | .wacc x => encX 60 0 x
  | .wfma x => encX 60 1 x
  | .wnar x => encX 60 2 x
  | .wzero x => encX 60 3 x
  | .pand x => encX 61 0 x
  | .por x => encX 61 1 x
  | .pxor x => encX 61 2 x
  | .pnot x => encX 61 3 x
  | .pset x => encX 61 4 x
  | .pmov x => encX 61 5 x
  | .xloop x => encX 62 0 x
  | .xlend x => encX 62 1 x
  | .xwait x => encX 62 2 x
  | .xpush x => encX 62 3 x
  | .vqnt x => encX 63 0 x
  | .gread x => encX 63 1 x
  | .gstat x => encX 63 2 x
  | .xResultWrite => (0, [])
  | .lqEntryPresent => (0, [])
  | .storePerformedCore => (0, [])
  | .gaugeMerge => (0, [])
  | .gpoison => (0, [])
  | .engineTrap => (0, [])
  | .breakStop => (0, [])
  | .stepStop => (0, [])
  | .hostResumeCore => (0, [])
  | .bargeCommandRun => (0, [])
  | .bargeRetire => (0, [])
  | .matrixOpStart => (0, [])
  | .mgoStepEnd => (0, [])
  | .matrixOpRetire => (0, [])
  | .indexWalkRun => (0, [])
  | .indexWalkRetire => (0, [])
  | .append => (0, [])
  | .evrd => (0, [])
  | .hostRegisterWrite => (0, [])
  | .cmdNop => (0, [])
  | .ctxnew => (0, [])
  | .cmdCtxkill => (0, [])
  | .preempt => (0, [])
  | .resume => (0, [])
  | .qbind => (0, [])
  | .kload => (0, [])
  | .kunload => (0, [])
  | .cmdLaunch => (0, [])
  | .waitv => (0, [])
  | .waitvPoll => (0, [])
  | .writev => (0, [])
  | .cmdEvent => (0, [])
  | .ttSlotBegin => (0, [])
  | .groupCreate => (0, [])
  | .groupRetire => (0, [])
  | .contextSave => (0, [])
  | .preemptTimeLimit => (0, [])
  | .resumeHeldStart => (0, [])
  | .contextKillComplete => (0, [])
  | .contextAck => (0, [])
  | .hostPageRead => (0, [])
  | .hostPageWrite => (0, [])
  | .hostAtomic => (0, [])
  | .rowRemap => (0, [])
  | .coreFailure => (0, [])
  | .flitReplay => (0, [])
  | .portup => (0, [])
  | .portTrainTimeout => (0, [])
  | .lanefail => (0, [])
  | .collAllJoined => (0, [])
  | .collSessionDone => (0, [])
  | .collTimeout => (0, [])
  | .collAbort => (0, [])
  | .timeMessage => (0, [])
  | .timehold => (0, [])
  | .basinStepTmo => (0, [])
  | .basinDecision => (0, [])
  | .buddyMirrorStep => (0, [])
  | .basinBuddyAck => (0, [])
  | .subscriptionDelivery => (0, [])
  | .bfailover => (0, [])
  | .bnobuddy => (0, [])
  | .powerApplied => (0, [])
  | .powerRemoved => (0, [])
  | .fwgo => (0, [])
  | .repairDone => (0, [])
  | .linksDone => (0, [])
  | .retrainPort => (0, [])
  | .readErrorCounter => (0, [])
  | .attest => (0, [])
  | .readPower => (0, [])
  | .coolantOutOfRange => (0, [])
  | .thermal => (0, [])
  | .fetch => (0, [])
  | .performedAtScope => (0, [])
  | .coolantBackInRange => (0, [])

end Sys2Proof
end

