-- ==== Sys2Proof/Machine/Pages.lean ====
section
/-! DEFINITION. Pages: entries, translation, in-flight counts, poison (spec 18, R380 to R392), the windows of R159, and the
instructions of the page unit (R386 to R390). -/

namespace Sys2Proof.Machine

open Sys2Proof

def Page.size (p : Page) : Nat := if p.sz = 0 then 2 ^ 16 else if p.sz = 1 then 2 ^ 21 else 2 ^ 29
def Page.covers (p : Page) (va : Nat) : Bool := decide (p.va ≤ va) && decide (va < p.va + p.size)

/-- The state a page shows (R391), in the coding of R380. -/
def Page.state (p : Page) : Nat :=
  if p.retired then 5 else if p.poisoned then 4 else if p.sealed then 3 else if p.inf > 0 then 2 else 1

/-- The listed page that translates an address. -/
def Ctx.listedPage (c : Ctx) (va : Nat) : Option Page := c.pages.find? fun p => p.gone.isEmpty && p.covers va

/-- The page of the host window at an address (R381): host memory at bus address v − 2^51, held by the firmware from
BUILDING on. Its entry is listed only once a command has pinned it. -/
def Ctx.hostPage (c : Ctx) (va : Nat) : Option Page :=
  if c.st = .free ∨ va < 2 ^ 51 ∨ va ≥ 2 ^ 52 then none
  else
    let lo := va / 2 ^ 29 * 2 ^ 29
    some { va := lo, sz := 2, tier := 2, r := true, w := true, x := false, hv := false, ap := 2, sa := false, pp := false, hq := 0
           peer := 0, fw := true, sealed := false, poisoned := false, retired := false, inf := 0, bus := lo - 2 ^ 51, bad := []
           gone := [], basin := none }

/-- The page of an address space that translates an address. -/
def Ctx.pageOf (c : Ctx) (va : Nat) : Option Page :=
  match c.listedPage va with
  | some p => some p
  | none => c.hostPage va

/-- The entry that holds an address, a page that a waiting TLBINV has taken out of translation included: it is not FREE yet (R389, R391). -/
def Ctx.entryOf (c : Ctx) (va : Nat) : Option Page :=
  match c.pages.find? fun p => p.covers va with
  | some p => some p
  | none => c.hostPage va

/-- The page that an enqueued command was translated to: its count keeps it (R384). -/
def Ctx.frameOf (c : Ctx) (va : Nat) : Option Page :=
  match c.pageOf va with
  | some p => some p
  | none => c.pages.find? fun p => p.covers va

/-- Change the page that starts at `va`. -/
def Ctx.updPage (c : Ctx) (va : Nat) (f : Page → Page) : Ctx :=
  if c.pages.any (fun p => p.va == va) then { c with pages := c.pages.map fun p => if p.va = va then f p else p }
  else match c.hostPage va with
    | some p => { c with pages := f p :: c.pages }
    | none => c

/-- The memory key of a byte of a page: its own module's frame, host memory, or the peer's page of the same address (R382). -/
def Page.key (p : Page) (md asid va : Nat) : Nat :=
  if p.tier = 2 then hostKey md (p.bus + (va - p.va))
  else if p.tier = 3 then pageKey p.peer asid va
  else pageKey md asid va

/-- The key of a byte that a context's address leads to. -/
def State.vkey (s : State) (md asid va : Nat) : Nat :=
  match (s.ctx md asid).frameOf va with
  | some p => p.key md asid va
  | none => pageKey md asid va

/-- The module and page behind an address as translation gives it now: for a PEER page the peer's, which must be mapped there in HBM or the deep
tier (R382, R389). -/
def State.homeNow (s : State) (md asid va : Nat) : Option (Nat × Page) :=
  match (s.ctx md asid).pageOf va with
  | none => none
  | some p =>
    if p.tier ≠ 3 then some (md, p)
    else if !s.present p.peer || !s.reachable md p.peer then none
    else (((s.ctx p.peer asid).pageOf va).filter fun h => decide (h.tier < 2)).map fun h => (p.peer, h)

/-- The module and page of the frame behind an address for an access whose command pins it: the peer's for a PEER page (R382, R384). -/
def State.home (s : State) (md asid va : Nat) : Option (Nat × Page) :=
  match (s.ctx md asid).frameOf va with
  | some p => if p.tier = 3 then ((s.ctx p.peer asid).frameOf va).map fun x => (p.peer, x) else some (md, p)
  | none => none

/-- A line is bad: a page records sixteen bad lines, and after the sixteenth every line counts as bad (R392). DEDUCED, unsafe (log entry 41). -/
def Page.lineBad (p : Page) (va : Nat) : Bool :=
  !p.moved.contains (va / 64 * 64) && (decide (p.bad.length ≥ 16) || p.bad.contains (va / 64 * 64))

/-- A POISONED page whose count is zero becomes RETIRED, with its event (R391). -/
def State.settle (s : State) (md asid va : Nat) : State :=
  let c := s.ctx md asid
  match c.pages.find? (fun p => p.va == va) with
  | some p =>
    if p.poisoned && !p.retired && p.inf == 0 then
      let s := s.setCtx md asid (c.updPage va fun p => { p with retired := true })
      (s.count md 12 1).post md 0x103 (some asid) (srcHub 5) p.sz p.va
    else s
  | none => s

/-- Mark the line of a frame bad and move its page to POISONED, with one ECCUNC (R392). -/
def State.poisonLine (s : State) (md asid va : Nat) : State :=
  match s.home md asid va with
  | none => s
  | some (m, p) =>
    let line := va / 64 * 64
    let c := s.ctx m asid
    let s := s.setCtx m asid (c.updPage p.va fun p => { p with poisoned := true, sealed := false, bad := line :: p.bad, moved := p.moved.filter (· != line) })
    let cls := if p.tier = 0 then 1 else if p.tier = 1 then 2 else 3
    ((s.count m (4 + cls) 1).post m 0x102 (some asid) (srcHub 5) cls line).settle m asid p.va

/-- A read of a line: an error not yet found is found now. Answers whether the line is bad (R392). DEDUCED, unsafe (log entry 41). -/
def State.touchLine (s : State) (md asid va : Nat) : State × Bool :=
  let k := s.vkey md asid va / 64 * 64
  let known (s : State) : Bool := match s.home md asid va with
    | some (_, p) => p.lineBad va
    | none => false
  let s := if s.latent.contains k then
      let s' := { s with latent := s.latent.filter (· != k) }
      if known s then s' else s'.poisonLine md asid va
    else s
  (s, known s)

-- Windows (R159) -----------------------------------------------------------------------------------------------------------------

/-- The bytes from a to a+n−1 cut at the ends of pages and of 64 KiB holes, each piece with its page: at most `fuel` pieces. -/
def Ctx.segments (c : Ctx) : Nat → Nat → Nat → List (Option Page × Nat × Nat)
  | 0, _, _ => []
  | fuel + 1, a, n =>
    if n = 0 then []
    else
      let o := c.pageOf a
      let rest := match o with
        | some p => p.va + p.size - a
        | none => 2 ^ 16 - a % 2 ^ 16
      (o, a, min n rest) :: (if n ≤ rest then [] else c.segments fuel (a + rest) (n - rest))

/-- The pages, or the 64 KiB holes, that the bytes from a to a+n−1 touch: at most `fuel` of them. -/
def Ctx.walkPages (c : Ctx) (fuel a n : Nat) : List (Option Page) := (c.segments fuel a n).map Prod.fst

/-- The pages that a set of byte ranges touches, each once: a page, or the 64 KiB hole it falls in, which counts as one page. DEDUCED,
unsafe (log entry 92). -/
def Ctx.pagesOf (c : Ctx) (rs : List (Nat × Nat)) : List (Nat × Option Page) :=
  rs.foldl (fun acc r =>
    (c.walkPages 66 r.1 r.2).foldl (fun (st : List (Nat × Option Page) × Nat) p =>
      let key := match p with
        | some p => p.va
        | none => st.2 / 2 ^ 16 * 2 ^ 16
      let nxt := match p with
        | some p => p.va + p.size
        | none => (st.2 / 2 ^ 16 + 1) * 2 ^ 16
      (if st.1.any (fun x => x.1 == key) then st.1 else st.1 ++ [(key, p)], nxt)) (acc, r.1) |>.1) []

/-- Some byte of a range of module m's frames is sealed: by the page's own seal, or by that of a PEER page that leads to it, on whichever
module (R308, R382). DEDUCED, unsafe (log entry 43). -/
def State.sealedAt (s : State) (asid m a n : Nat) : Bool :=
  s.ctxs.any fun (k, c) => decide (k % 2048 = asid) && c.pages.any fun p =>
    p.sealed && decide (p.va < a + n) && decide (a < p.va + p.size) && (if p.tier = 3 then p.peer == m else decide (k / 2048 = m))

/-- The pages whose permissions govern the bytes from a to a+n−1 of a page of module `md`, each with its module: for a PEER page the pages of the
same addresses on its module, where they are mapped in HBM or the deep tier (R382). -/
def State.governing (s : State) (md asid : Nat) (p : Page) (a n : Nat) : List (Option (Nat × Page)) :=
  if p.tier ≠ 3 then [some (md, p)]
  else if !s.present p.peer || !s.reachable md p.peer then [none]
  else ((s.ctx p.peer asid).walkPages (n / 2 ^ 16 + 2) a n).map fun o =>
    (o.filter fun h => decide (h.tier < 2)).map fun h => (p.peer, h)

/-- The code of R159 for the bytes from a to a+n−1 of a page of module `md`: 0, or 3 to 5. -/
def State.permits (s : State) (md asid : Nat) (p : Page) (a n : Nat) (rd wr : Bool) : Nat :=
  let gs := s.governing md asid p a n
  if gs.contains none then 3
  else if gs.any fun g => match g with
    | some (m, h) => (rd && !h.r) || (wr && (!h.w || h.basin.isSome || s.sealedAt asid m a n))
    | none => false then 4
  else if gs.any fun g => match g with
    | some (_, h) => h.poisoned || h.retired
    | none => false then 5
  else 0

/-- The code of R159 for a set of byte ranges in a context of a module, `ok` telling whether all lie below 2^52. -/
def State.windowCode (s : State) (md asid : Nat) (rs : List (Nat × Nat)) (ok rd wr : Bool) : Nat :=
  let rs := rs.filter fun r => r.2 ≠ 0
  let c := s.ctx md asid
  if rs.isEmpty then 0
  else if !ok then 1
  else if (c.pagesOf rs).length > 64 then 2
  else
    let codes := (rs.flatMap fun r => c.segments 66 r.1 r.2).map fun x => match x.1 with
      | none => 3
      | some p => s.permits md asid p x.2.1 x.2.2 rd wr
    if codes.contains 3 then 3 else if codes.contains 4 then 4 else if codes.contains 5 then 5 else 0

/-- The pages that a translation of a set of byte ranges pins, by module and first address: those of the context, and those that its PEER pages
lead to (R382, R384). -/
def State.pinsFor (s : State) (md asid : Nat) (rs : List (Nat × Nat)) : List (Nat × Nat) :=
  (rs.flatMap fun r => ((s.ctx md asid).segments 66 r.1 r.2).flatMap fun x => match x.1 with
    | none => []
    | some p => (md, p.va) :: (if p.tier = 3 then ((s.governing md asid p x.2.1 x.2.2).filterMap id).map fun h => (h.1, h.2.va) else [])).eraseDups

/-- WINX's window: one run of bytes. -/
def State.runCode (s : State) (md asid a n : Nat) (rd wr : Bool) : Nat :=
  if n = 0 then 0
  else s.windowCode md asid [(a, n)] (decide (a < 2 ^ 52) && decide (a + n ≤ 2 ^ 52)) rd wr

def execWinx (d a b : BitVec 5) (acc : BitVec 2) (s : State) : Out :=
  onK s fun q =>
    s.finK q d (BitVec.ofNat 64 (s.runCode (modOf q.unit) (s.asidOf q) (s.getK q a).toNat (s.getK q b).toNat
      (acc.getLsbD 0) (acc.getLsbD 1)))

-- Entry words (R380) -------------------------------------------------------------------------------------------------------------

def Page.word (p : Page) : Word :=
  let b (x : Bool) (i : Nat) : Nat := if x then 2 ^ i else 0
  BitVec.ofNat 64 (min p.inf 0xFFFF * 2 ^ 48 + p.state * 2 ^ 45 + b p.fw 44 + p.peer * 2 ^ 25 + p.hq * 2 ^ 16 + b p.pp 11
    + b p.sa 10 + p.ap * 2 ^ 8 + b p.hv 7 + b p.x 6 + b p.w 5 + b p.r 4 + p.tier * 4 + p.sz)

/-- A page as an entry word describes it, at an address. -/
def pageOfWord (va : Nat) (w : Word) (bus : Nat) : Page :=
  let n := w.toNat
  { va := va, sz := field n 0 2, tier := field n 2 2, r := bitAt n 4, w := bitAt n 5, x := bitAt n 6, hv := bitAt n 7
    ap := field n 8 2, sa := bitAt n 10, pp := bitAt n 11, hq := field n 16 9, peer := field n 25 10, fw := false
    sealed := false, poisoned := false, retired := false, inf := 0, bus := bus, bad := [], gone := [], basin := none }

/-- An entry is valid (R380), its read-only fields being zero. -/
def entryValid (w : Word) : Bool :=
  let n := w.toNat
  field n 0 2 != 3 && field n 8 2 != 3 && field n 12 4 == 0 && field n 35 9 == 0
    && !(bitAt n 5 && bitAt n 6) && (!bitAt n 10 || field n 8 2 == 1) && (field n 8 2 != 2 || field n 2 2 == 2)
    && decide (field n 16 9 < 512) && (field n 25 10 == 0 || field n 2 2 == 3)

/-- Bytes of a tier that a module's pages hold, and those of RETIRED frames, which never return (R386, R391). DEDUCED, safe (log entry 42). -/
def State.tierUsed (s : State) (md tier : Nat) : Nat :=
  s.ctxs.foldl (fun acc (k, c) => if k / 2048 = md then
    c.pages.foldl (fun a p => if p.tier = tier then a + p.size else a) acc else acc) (sget 0 (s.hub md).spent tier)

/-- The size of a tier in bytes (spec 00, R4): 576 GiB of HBM, 2048 GiB of deep tier; the others have no frames here.
DEDUCED, safe (log entry 42). -/
def tierSize (tier : Nat) : Nat := if tier = 0 then 576 * 2 ^ 30 else 2048 * 2 ^ 30

/-- PGMAP's code for a valid request (R386). -/
def State.mapCode (s : State) (md asid va : Nat) (p : Page) : Nat :=
  if (s.ctx md asid).pages.any (fun x => decide (x.va < va + p.size) && decide (va < x.va + x.size)) then 1
  else if p.tier < 2 ∧ s.tierUsed md p.tier + p.size > tierSize p.tier then 2
  else if p.tier = 3 then
    (if !s.present p.peer then 3 else match (s.ctx p.peer asid).pageOf va with
      | some h => if h.tier < 2 then 0 else 3
      | none => 3)
  else 0

/-- A new frame: its bytes are zero, and no error stands in it (R386). DEDUCED, safe (log entry 42). -/
def State.zeroFrame (s : State) (md asid va n : Nat) : State :=
  let lo := pageKey md asid va
  let out (k : Nat) : Bool := !(decide (lo ≤ k) && decide (k < lo + n))
  { s with mem := s.mem.filter fun c => out c.1, latent := s.latent.filter out }

def State.addPage (s : State) (md asid : Nat) (p : Page) : State :=
  let c := s.ctx md asid
  let s := if p.tier < 2 then s.zeroFrame md asid p.va p.size else s
  s.setCtx md asid { c with pages := p :: c.pages }

def execPgmap (d a : BitVec 5) (s : State) : Out :=
  onK s fun q =>
    let ea := (s.getK q a).toNat
    match s.recCheck q ea 32 with
    | some t => s.trapRead q t ea 32
    | none =>
      let w := s.words q ea 4
      let va := (w.getD 0 0).toNat
      let e := w.getD 1 0
      let bus := (w.getD 2 0).toNat
      let p := pageOfWord va e bus
      if !entryValid e || field e.toNat 44 20 != 0 || decide (va ≥ 2 ^ 51) || va % p.size != 0 || bus % p.size != 0
          || (p.tier != 2 && bus != 0) || w.getD 3 0 != 0 then s.trap q { code := tcOpnd }
      else
        let md := modOf q.unit
        let asid := s.asidOf q
        let code := s.mapCode md asid va p
        (if code = 0 then s.addPage md asid p else s).finK q d (BitVec.ofNat 64 code)

def execPgattr (d a b : BitVec 5) (s : State) : Out :=
  onK s fun q =>
    let c := s.ctxOf q
    let e := s.getK q b
    match c.entryOf (s.getK q a).toNat with
    | none => s.trap q { code := tcOpnd }
    | some p =>
      let n := pageOfWord p.va e p.bus
      if p.fw || !entryValid e || field e.toNat 44 20 != 0 || n.sz != p.sz || n.tier != p.tier || n.peer != p.peer then
        s.trap q { code := tcOpnd }
      else
        (s.setCtxOf q (c.updPage p.va fun x =>
          { x with r := n.r, w := n.w, x := n.x, hv := n.hv, ap := n.ap, sa := n.sa, pp := n.pp, hq := n.hq })).finK q d p.word

def execPgqry (d a : BitVec 5) (s : State) : Out :=
  onK s fun q =>
    let va := (s.getK q a).toNat
    if va ≥ 2 ^ 52 then s.trap q { code := tcOpnd }
    else s.finK q d (match (s.ctxOf q).entryOf va with
      | some p => p.word
      | none => 0)

-- Unmapping and sealing (R389, R390) -----------------------------------------------------------------------------------------------

def rangeOk (a n : Nat) : Bool := a % 2 ^ 16 == 0 && (a + n) % 2 ^ 16 == 0 && decide (a ≤ 2 ^ 52) && decide (a + n ≤ 2 ^ 52) && n != 0

def Page.inside (p : Page) (a n : Nat) : Bool := decide (a ≤ p.va) && decide (p.va + p.size ≤ a + n)
def Page.touches (p : Page) (a n : Nat) : Bool := decide (p.va < a + n) && decide (a < p.va + p.size)

/-- A page is still in flight, or POISONED and not yet RETIRED: its unmapping waits (R326, R389). -/
def Page.busy (p : Page) : Bool := decide (p.inf > 0) || (p.poisoned && !p.retired)

/-- A page becomes FREE: its frame returns to the pool, unless it is RETIRED (R389, R391). -/
def State.freePage (s : State) (md asid : Nat) (p : Page) : State :=
  let s := if p.tier < 2 then s.zeroFrame md asid p.va p.size else s
  let c := s.ctx md asid
  let s := s.setCtx md asid { c with pages := c.pages.filter fun x => x.va != p.va }
  let h := s.hub md
  if p.retired ∧ p.tier < 2 then s.setHub md { h with spent := sset h.spent p.tier (sget 0 h.spent p.tier + p.size) } else s

/-- Steps 2 and 3 of TLBINV (R389): it waits while a page that it has taken out of translation is busy, though another may have taken it out
before; then those pages become FREE, and k[d] receives how many there were. DEDUCED, unsafe (log entry 43). -/
def State.tlbFinish (s : State) (q : SeqId) (d : BitVec 5) (lo n : Nat) : State :=
  let mine := (s.ctxOf q).pages.filter fun p => p.gone.contains q && p.inside lo n
  if mine.any Page.busy then s.setCtl q { s.ctl q with wait := true }
  else (mine.foldl (fun s p => s.freePage (modOf q.unit) (s.asidOf q) p) s).answer q d mine.length

/-- Step 1 of TLBINV: every page of the range that is not FREE, those that another TLBINV has taken out included. DEDUCED, unsafe (log
entry 43). -/
def execTlbinv (d a b : BitVec 5) (s : State) : Out :=
  onK s fun q =>
    let lo := (s.getK q a).toNat
    let n := (s.getK q b).toNat
    let c := s.ctxOf q
    let live := c.pages.filter fun p => p.touches lo n
    if (s.ctl q).wait then s.tlbFinish q d lo n
    else if !rangeOk lo n || decide (lo + n > 2 ^ 51) || live.any (fun p => p.fw || !p.inside lo n) then s.trap q { code := tcOpnd }
    else
      let s := s.setCtxOf q { c with pages := c.pages.map fun p => if live.any (fun x => x.va == p.va) then { p with gone := q :: p.gone.erase q } else p }
      let s := live.foldl (fun s p => s.settle (modOf q.unit) (s.asidOf q) p.va) s
      s.tlbFinish q d lo n

/-- The code of SEAL and UNSEAL (R390): some byte of the range is on no page, or on a firmware or straddling page; or on a
poisoned one. -/
def Ctx.sealCode (c : Ctx) (lo n : Nat) : Nat :=
  let ps := c.pages.filter fun p => p.touches lo n
  let covered := ps.foldl (fun acc p => acc + (if p.inside lo n then p.size else 0)) 0
  if ps.any (fun p => p.fw || !p.inside lo n) || decide (lo + n > 2 ^ 51) || covered != n then 3
  else if ps.any (fun p => p.poisoned || p.retired) then 5 else 0

/-- The rows a command reads and those it writes, at exact addresses (R161, R162). -/
def BCmd.srcRows (m : BCmd) : List (Int × Nat) :=
  if m.len = 0 then [] else if m.aop ≠ 0 then [((m.src : Int), 8)]
  else (List.range m.rows).map fun (i : Nat) => ((m.src : Int) + (i : Int) * m.sstr, m.len)

def BCmd.dstRows (m : BCmd) : List (Int × Nat) :=
  if m.len = 0 ∨ m.rows = 0 then []
  else if m.xp then (List.range (m.len / 2 ^ m.es)).map fun (j : Nat) => ((m.dst : Int) + (j : Int) * m.dstr, m.rows * 2 ^ m.es)
  else (List.range m.rows).map fun (i : Nat) => ((m.dst : Int) + (i : Int) * m.dstr, m.len)

/-- The module whose frames a context's address leads to, for a command that pins it. -/
def Ctx.homeMod (c : Ctx) (md va : Nat) : Nat := match c.frameOf va with
  | some p => if p.tier = 3 then p.peer else md
  | none => md

/-- The modules whose frames the addresses from `lo` below `hi` lead to: `homeMod` changes only where a page starts. -/
def Ctx.homeMods (c : Ctx) (md lo hi : Nat) : List Nat :=
  (lo :: (c.pages.map Page.va).filter fun a => decide (lo < a) && decide (a < hi)).map (c.homeMod md)

/-- Some write window stands on the frames of a page of the range (R308, R390): that of an enqueued command of any module of the pod whose
destination leads to them, be it through a PEER page on either side, or the count that a basin holds on its state pages while their group is
registered (R416). DEDUCED, unsafe (log entry 43). -/
def State.writersOf (s : State) (md asid lo n : Nat) : Bool :=
  let ps := (s.ctx md asid).pages.filter fun p => p.inside lo n
  ps.any (fun p => (s.governing md asid p p.va p.size).any fun h => h.any fun x => x.2.basin.isSome)
  || s.ctxs.any fun (k, c) => decide (k % 2048 = asid) && c.chains.any fun (_, ch) => ch.cmds.any fun m =>
    !m.ds && m.dstRows.any fun r => ps.any fun p => decide (r.1 < (p.va + p.size : Nat)) && decide ((p.va : Int) < r.1 + r.2)
      && (c.homeMods (k / 2048) (max r.1.toNat p.va) (min (r.1 + r.2).toNat (p.va + p.size))).contains (if p.tier = 3 then p.peer else md)

def sealOp (d a b : BitVec 5) (s : State) (on : Bool) : Out :=
  onK s fun q =>
    let lo := (s.getK q a).toNat
    let n := (s.getK q b).toNat
    let c := s.ctxOf q
    if !rangeOk lo n then s.trap q { code := tcOpnd }
    else
      let code := c.sealCode lo n
      if code ≠ 0 then s.finK q d (BitVec.ofNat 64 code)
      else if on && (s.writersOf (modOf q.unit) (s.asidOf q) lo n || s.fenceOpen q 5) then s
      else
        (s.setCtxOf q { c with pages := c.pages.map fun p => if p.inside lo n then { p with sealed := on } else p }).finK q d 0

def execSeal (d a b : BitVec 5) (s : State) : Out := sealOp d a b s true
def execUnseal (d a b : BitVec 5) (s : State) : Out := sealOp d a b s false

end Sys2Proof.Machine
end

