-- ==== Sys2Proof/Machine/Fetch.lean ====
section
/-! DEFINITION. Fetch: lines, slots, branch targets and the ends of streams (spec 05, R116 to R126; 18, R385). -/

namespace Sys2Proof.Machine

open Sys2Proof

/-- The tag of a stream's slots (R118). -/
def tagOf : SeqKind → Nat
  | .k => 1 | .l => 2 | .x => 3 | .s => 4 | .qf => 6 | .qu => 7

def streamOf : SeqKind → Stream
  | .l => .l | .x => .x | .s => .s | _ => .k

/-- The tag of slot i of a header (R117). -/
def slotTag (h i : Nat) : Nat := field h (4 * i - 4) 4

/-- A header of a well-formed line (R120): reserved bits and tags, extension words bound, nothing after an end tag. -/
def headerOk (h : Nat) : Bool :=
  let tags := (List.range 7).map fun i => slotTag h (i + 1)
  let r := tags.foldl (fun (st : Bool × Nat) t =>
    let prev := st.2
    let ok := decide (t < 8 ∨ t = 15) && (t != 5 || (prev != 0 && prev != 15)) && (prev != 15 || t == 15)
    (st.1 && ok, if t = 5 then prev else t)) (true, 0)
  field h 29 3 == 0 && r.1

/-- A fetch of a line, or the trap that it raises at the stream that needs it (R120, R125, R385): its eight words. A PEER page of a module
out of reach counts as not mapped. DEDUCED, unsafe (log entry 91). -/
def State.fetchLine (s : State) (q : SeqId) (va : Nat) : State × Except Trap (List Nat) :=
  let md := modOf q.unit
  let asid := s.asidOf q
  match s.homeNow md asid va with
  | none => (s, .error { code := tcPage, addr := va, info := 3 })
  | some (m, p) =>
    if !p.x then (s, .error { code := tcPage, addr := va, info := 4 })
    else
      let r := s.touchLine md asid va
      if r.2 then (r.1, .error { code := tcPoison, addr := va })
      else
        let base := p.key m asid va
        let ws := (List.range 8).map fun i => memNat s.mem (base + 4 * i) 4
        if headerOk (ws.getD 0 0) then (r.1, .ok ws) else (r.1, .error { code := tcIllegalLine, addr := va })

/-- What a search for the next own slot meets (R121, R123). -/
inductive Found where
  | slot (a : Nat)
  | fin (a : Nat)
  | trap (t : Trap)
deriving DecidableEq, Repr

/-- Search a line's slots from slot i for a tag or the end. -/
def scanLine (h tag : Nat) : Nat → Nat → Option (Nat × Bool)
  | 0, _ => none
  | n + 1, i =>
    if slotTag h i = 15 then some (i, true)
    else if slotTag h i = tag then some (i, false)
    else scanLine h tag n (i + 1)

/-- The search from slot `i` of the line at `va`, over at most `fuel` lines. An image has an end tag (R121); memory that
has none is searched up to the end of the address space, beyond which no line is mapped. DEDUCED, unsafe (log entry 16). -/
def State.searchSlot (q : SeqId) : Nat → State → Nat → Nat → State × Found
  | 0, s, va, _ => (s, .trap { code := tcPage, addr := va, info := 3 })
  | n + 1, s, va, i =>
    match s.fetchLine q va with
    | (s, .error t) => (s, .trap t)
    | (s, .ok ws) =>
      match scanLine (ws.getD 0 0) (tagOf q.kind) (8 - i) i with
      | some (j, true) => (s, .fin (va + 4 * j))
      | some (j, false) => (s, .slot (va + 4 * j))
      | none => State.searchSlot q n s (va + 32) 1

/-- The lines of the address space, of which one search passes over no more. -/
def searchFuel : Nat := 2 ^ 47

/-- A stream ends (R121); a stepped stream that ends has no instruction left to retire (R317, R320). X inside a hardware loop traps instead, with AFTER = 0 at the end tag; resumed there, it ends
(R224). -/
def State.endStream (s : State) (q : SeqId) (a : Nat) : State :=
  if q.kind = .x then
    let c := s.core q.unit
    if (c.loop.act || c.loop.skip) && s.pos q != .resume a then
      s.xTrapAt q { code := tcIllegalInst, addr := a } (BitVec.ofNat 64 a)
    else (s.setCore q.unit { c with loop := .closed }).goto q .ended
  else s.goto q .ended

/-- The slot at `a` is next for a stream; an XLOOP of no iterations passes over its body and its XLEND (R222). -/
def State.arrive (s : State) (q : SeqId) (a : Nat) : State :=
  let c := s.core q.unit
  let l := c.loop
  if q.kind = .x && l.skip then
    let l' := if l.place = l.ns * l.sl then XLoop.closed else { l with place := l.place + 1 }
    s.setCore q.unit { c with loop := l', xpos := .next a }
  else s.setPos q (.at a)

/-- A stream goes on after its save sequence: its restore sequence runs from `back` up to `fin`, then it resumes at `res` (R324). -/
def State.comeBack (s : State) (q : SeqId) (res : Pos) (back fin : Nat) : State :=
  if back ≥ fin then (s.setPhase q .run).setPos q res else (s.setPhase q (.restore fin res)).setPos q (.next (back - 4))

/-- A save sequence ends. A stream that is no longer asked to yield goes on at once: its save was forced before (R323). -/
def State.saveDone (s : State) (q : SeqId) (res : Pos) (back fin : Nat) : State :=
  if (s.ctl q).req then s.setPhase q (.saved res back fin) else s.comeBack q res back fin

/-- The slot at `a` stands in the image of a kernel. -/
def Kernel.holds (k : Kernel) (a : Nat) : Bool := decide (k.base ≤ a) && decide (a < k.base + 32 * k.lines)

/-- The slot at `a` belongs to the sequence region of a stream section of a loaded image (R322). -/
def Ctx.inRegion (c : Ctx) (tag a : Nat) : Bool :=
  c.kernels.any fun x => x.2.holds a && (match sfind x.2.region tag with
    | some r => decide (r ≤ a)
    | none => false)

/-- What the sequencer is doing about a pre-emption at the slot it fetches: a handler runs as any code does, and the sequence in which
it was entered goes on after it (R325). -/
def State.fetchPhase (s : State) (q : SeqId) : Phase :=
  if isCtl q.kind && (s.ctl q).mode == .handler then .run else s.phase q

/-- A fetched slot: a stream that reaches a sequence region ends, a save sequence that reaches its end is done, and a
restore sequence gives way to the resume address (R322, R324). -/
def State.reach (s : State) (q : SeqId) (a : Nat) : State :=
  let past (stop : Nat) : Bool := decide (stop ≤ a) && (s.kernelOf q).holds a
  match s.fetchPhase q with
  | .run => if (s.ctxOf q).inRegion (tagOf q.kind) a then s.endStream q a else s.arrive q a
  | .save stop res back fin => if past stop then s.saveDone q res back fin else s.setPos q (.at a)
  | .saved _ _ _ => s
  | .restore stop res => if past stop then (s.setPhase q .run).setPos q res else s.setPos q (.at a)

/-- A search that meets the end tag. -/
def State.reachEnd (s : State) (q : SeqId) (a : Nat) : State :=
  match s.fetchPhase q with
  | .save _ res back fin => s.saveDone q res back fin
  | .restore _ res => (s.setPhase q .run).setPos q res
  | _ => s.endStream q a

/-- FETCH (R121 to R125): the current sequencer finds its next slot, or the target of its branch. A page fault or an error at the fetch of a
target leaves the target as the resume address. DEDUCED, unsafe (log entries 16, 80). -/
def execFetch (s : State) : Out :=
  let q := s.cur
  .next <|
    match s.pos q with
    | .ended | .at _ => s
    | .next a =>
      match State.searchSlot q searchFuel s (a / 32 * 32) (a / 4 % 8 + 1) with
      | (s, .slot b) => s.reach q b
      | (s, .fin b) => s.reachEnd q b
      | (s, .trap t) => s.ownTrap q t (s.pos q).resumeWord
    | .target a src =>
      let bad (s : State) : State := s.ownTrap q { code := tcIllegalLine, addr := a } (BitVec.ofNat 64 src)
      if a % 4 ≠ 0 ∨ a / 4 % 8 = 0 then bad s
      else match s.fetchLine q (a / 32 * 32) with
        | (s, .error t) => s.ownTrap q t (BitVec.ofNat 64 (if t.code = tcIllegalLine then src else a))
        | (s, .ok ws) =>
          let h := ws.getD 0 0
          if bitAt h 28 && slotTag h (a / 4 % 8) == tagOf q.kind then s.reach q a else bad s
    | .resume a =>
      if a % 4 ≠ 0 ∨ a / 4 % 8 = 0 then s.ownTrap q { code := tcIllegalLine, addr := a } (BitVec.ofNat 64 a)
      else match s.fetchLine q (a / 32 * 32) with
        | (s, .error t) => s.ownTrap q t (BitVec.ofNat 64 a)
        | (s, .ok ws) =>
          let tag := slotTag (ws.getD 0 0) (a / 4 % 8)
          if tag == tagOf q.kind then s.reach q a
          else if tag == 15 then s.reachEnd q a
          else s.ownTrap q { code := tcIllegalLine, addr := a } (BitVec.ofNat 64 a)

/-- The instruction words at a slot: its word and the extension words that follow it in its line (R119). -/
def slotWords (ws : List Nat) (i : Nat) : List IWord :=
  let h := ws.getD 0 0
  let rec exts : Nat → Nat → List IWord
    | 0, _ => []
    | n + 1, j => if j ≤ 7 ∧ slotTag h j = 5 then BitVec.ofNat 32 (ws.getD j 0) :: exts n (j + 1) else []
  BitVec.ofNat 32 (ws.getD i 0) :: exts 7 (i + 1)

/-- The instruction at the slot a sequencer has fetched; none where the encoding is no instruction (R135). -/
def State.instrAt (s : State) (q : SeqId) (a : Nat) : Option Instr :=
  match s.homeNow (modOf q.unit) (s.asidOf q) a with
  | none => none
  | some (m, p) =>
    let base := p.key m (s.asidOf q) (a / 32 * 32)
    let ws := (List.range 8).map fun i => memNat s.mem (base + 4 * i) 4
    match slotWords ws (a / 4 % 8) with
    | [] => none
    | w :: exts => Sys2Proof.decode (streamOf q.kind) w exts

end Sys2Proof.Machine
end

