-- ==== Sys2Proof/Machine/Frame.lean ====
section
/-! DEFINITION. The trap frame and the mend queue as programs and debuggers see them, the return from a trap, breakpoints and the
stops that no instruction makes (spec 13, R313 to R320, R327). -/

namespace Sys2Proof.Machine

open Sys2Proof

-- The mend queue (R318) -------------------------------------------------------------------------------------------------------

/-- Instructions of L and S that are held, by stream number and slot address: a faulted load re-issues instead. -/
def Core.heldLs (c : Core) : List (Nat × Nat) :=
  ((c.lq.filter fun e => !e.present && (match c.lheld with
    | some (id, _, _) => e.id != id
    | none => true)).map fun e => (1, e.pc)) ++ c.spend.map fun p => (3, p.pc)

/-- MQN: QF and QU have no mend queue (R327). DEDUCED, unsafe (log entry 28). -/
def State.mqn (s : State) (q : SeqId) : Nat :=
  if q.kind = .k then (s.core q.unit).pend.length + (s.core q.unit).heldLs.length else 0

/-- The two words of a mend-queue entry. -/
def Core.mendWord (c : Core) (e : Nat) (second : Bool) : Nat :=
  match c.pend[e]? with
  | some p =>
    if second then p.pc
    else (p.cyc - c.xnow) % 256 * 16 + 8 + (if p.rerun.isSome then 2 else 0) + (if p.sq then 1 else 0)
  | none => match c.heldLs[e - c.pend.length]? with
    | some (n, pc) => if second then pc else n * 4
    | none => 0

-- The frame (R313, R327) -------------------------------------------------------------------------------------------------------

/-- Field n of the frame; MQN is computed. -/
def State.frameField (s : State) (q : SeqId) (n : Nat) : Word :=
  let f := (s.ctl q).frame
  match n with
  | 0 => f.cause | 1 => f.kpc | 2 => f.lpc | 3 => f.xpc | 4 => f.spc | 5 => f.addr | 6 => f.info
  | 7 => BitVec.ofNat 64 (s.mqn q)
  | 8 => f.xl | 9 => f.xr | 10 => f.eng | 11 => f.enga | 12 => f.ksav | 13 => f.tvec | 14 => f.scr | _ => f.step

/-- A field with a value that TFWR accepts (R317, R327), its reserved bits zero (R16, R113); none where it raises OPND_RANGE. -/
def Frame.write (f : Frame) (n : Nat) (v : Word) : Option Frame :=
  let slotOk : Bool := v == 0 || field v.toNat 2 3 != 0
  let pcOk (old : Word) : Bool := slotOk && ((old == 0) == (v == 0))
  match n with
  | 1 => if pcOk f.kpc then some { f with kpc := v } else none
  | 2 => if pcOk f.lpc then some { f with lpc := v } else none
  | 3 => if pcOk f.xpc then some { f with xpc := v } else none
  | 4 => if pcOk f.spc then some { f with spc := v } else none
  | 6 => if field f.cause.toNat 32 16 = tcGaugeOverflow then some { f with info := v &&& ~~~7 } else none
  | 12 => some { f with ksav := v }
  | 13 => if slotOk then some { f with tvec := v } else none
  | 14 => some { f with scr := v }
  | 15 => if [0, 1, 2, 4, 8].contains (v.toNat % 16) then some { f with step := BitVec.ofNat 64 (v.toNat % 16) } else none
  | _ => none

/-- A field is reached in the present mode (R327). -/
def Ctl.reaches (c : Ctl) (n : Nat) : Bool := decide (n < 16) && (c.mode == .handler || n == 13 || n == 14)

def execTfrd (d a : BitVec 5) (s : State) : Out :=
  onK s fun q =>
    let n := (s.getK q a).toNat
    if (s.ctl q).reaches n then s.finK q d (s.frameField q n) else s.trap q { code := tcOpnd }

def execTfwr (a b : BitVec 5) (s : State) : Out :=
  onK s fun q =>
    let n := (s.getK q a).toNat
    let c := s.ctl q
    match if c.reaches n then c.frame.write n (s.getK q b) else none with
    | some f => (s.setCtl q { c with frame := f }).fin q
    | none => s.trap q { code := tcOpnd }

/-- An instruction for handler mode alone (R327). -/
def onHandler (s : State) (f : SeqId → State) : Out :=
  onK s fun q => if (s.ctl q).mode = .handler then f q else s.illegal q

def execMqrd (d a : BitVec 5) (s : State) : Out :=
  onHandler s fun q =>
    let n := (s.getK q a).toNat
    if n ≥ 256 ∨ n / 2 ≥ s.mqn q then s.trap q { code := tcOpnd }
    else s.finK q d (BitVec.ofNat 64 ((s.core q.unit).mendWord (n / 2) (n % 2 == 1)))

def execMqwr (a b : BitVec 5) (s : State) : Out :=
  onHandler s fun q =>
    let n := (s.getK q a).toNat
    let v := (s.getK q b).toNat
    let c := s.core q.unit
    if n ≥ 256 ∨ n % 2 = 1 ∨ v ≥ 2 ∨ q.kind ≠ .k ∨ n / 2 ≥ c.pend.length then s.trap q { code := tcOpnd }
    else (s.setCore q.unit { c with pend := c.pend.mapIdx fun i p => if i = n / 2 then { p with sq := v == 1 } else p }).fin q

/-- ERET (R315, R318, R320, R327). -/
def execEret (s : State) : Out := onHandler s fun q => s.resume q

/-- YIELD (R327). -/
def execYield (d : BitVec 5) (s : State) : Out := onK s fun q => s.finK q d (ofBool (s.ctl q).req)

/-- The codes of a context's states (R327). -/
def CtxState.code : CtxState → Nat
  | .free => 0 | .building => 1 | .ready => 2 | .running => 3 | .yielding => 4 | .saved => 5 | .killing => 6 | .dead => 7

def execCtxstat (d a : BitVec 5) (s : State) : Out :=
  onK s fun q =>
    let c := s.ctxOf q
    match (s.getK q a).toNat with
    | 0 => s.finK q d (BitVec.ofNat 64 (s.asidOf q))
    | 1 => s.finK q d (BitVec.ofNat 64 c.st.code)
    | 2 => s.finK q d (ofBool c.req)
    | 3 => s.finK q d (BitVec.ofNat 64 c.saves)
    | _ => s.trap q { code := tcOpnd }

def execBrkset (a b : BitVec 5) (s : State) : Out :=
  onK s fun q =>
    let x := (s.getK q a).toNat
    let n := (s.getK q b).toNat
    let c := s.ctl q
    if x % 4 ≠ 0 ∨ x / 4 % 8 = 0 ∨ n ≥ 4 then s.trap q { code := tcOpnd }
    else (s.setCtl q { c with brk := sset c.brk n x }).fin q

def execBrkclr (a : BitVec 5) (s : State) : Out :=
  onK s fun q =>
    let n := (s.getK q a).toNat
    let c := s.ctl q
    if n ≥ 4 then s.trap q { code := tcOpnd } else (s.setCtl q { c with brk := sset c.brk n 0 }).fin q

/-- SWTRAP: its resume address carries AFTER = 1 (R315). -/
def execSwtrap (a : BitVec 5) (s : State) : Out :=
  onK s fun q => s.trapAt q { code := tcSwtrap, info := (s.getK q a).toNat } (BitVec.ofNat 64 (s.pc q ||| 1))

-- Stops that no instruction makes ------------------------------------------------------------------------------------------------

/-- The streams that may not issue: of a stopped core, of a core in handler mode but K, and beside a stepped stream (R312, R316,
R320). -/
def Ctl.holds (c : Ctl) (n : Nat) : Bool :=
  match c.mode with
  | .stopped => true
  | .handler => n != 0
  | .normal => c.stepDone || (match c.only with
    | some m => n != m
    | none => false)

/-- A breakpoint stands at `a` and is not passed this once (R327). -/
def Ctl.breaks (c : Ctl) (n a : Nat) : Bool :=
  (List.range 4).any (fun i => sget 0 c.brk i == a) && !(c.mode == .normal && sfind c.brkPass n == some a)

/-- A sequencer stands at a slot, about to issue. DEDUCED, safe (log entry 20). -/
def State.atSlot (s : State) (q : SeqId) : Option Nat :=
  match s.pos q with
  | .at a => some a
  | _ => none

/-- ENGINE (R319): a control sequencer about to issue in normal mode traps for its oldest engine fault. DEDUCED, safe (log entry 20). -/
def execEngineTrap (s : State) : Out :=
  let q := s.cur
  let c := s.ctl q
  if isCtl q.kind && c.mode == .normal && !c.holds 0 && !c.faults.isEmpty && (s.atSlot q).isSome then
    .next (s.trap q { code := tcEngine })
  else .next s

/-- BREAK (R327): a stream about to issue the slot of a breakpoint stops its core. DEDUCED, safe (log entry 20). -/
def execBreakStop (s : State) : Out :=
  let q := s.cur
  let c := s.ctl q
  let n := strmNo q.kind
  match s.atSlot q with
  | some a => if c.breaks n a && !c.holds n then .next (s.ownTrap q { code := tcBreak } (BitVec.ofNat 64 a)) else .next s
  | none => .next s

/-- The sequencer of a stream number of the core or quad control core of `q`. -/
def streamSeq (q : SeqId) (n : Nat) : SeqId :=
  if q.kind = .qf ∨ q.kind = .qu then q
  else { q with kind := if n = 0 then .k else if n = 1 then .l else if n = 2 then .x else .s }

/-- STEP (R320): the stepped stream has retired its instruction, or has ended (R317). K, L and S retire at issue or completion and keep what
they have in flight; X retires in the cycle after its issue and stall count, and what an XWAIT still holds then is the delay that
remains (R312). The resume address leads past that instruction. DEDUCED, unsafe (log entry 22). -/
def execStepStop (s : State) : Out :=
  let c := s.ctl s.cur
  match c.only with
  | some n =>
    let q := streamSeq s.cur n
    if c.stepDone then
      let s := if q.kind = .x ∧ s.pos q ≠ .ended then s.landX q.unit (s.core q.unit).xret false else s
      .next (s.stopAt q { code := tcStep } (s.pos q).resumeWord)
    else .next s
  | none => .next s

/-- The debugger's writes of frame fields; those that TFWR would refuse leave the frame as it is (R316). DEDUCED, safe (log entry 21). -/
def Frame.writes (f : Frame) (l : List (Nat × Word)) : Frame := l.foldl (fun f x => (f.write x.1 x.2).getD f) f

/-- HOST_RESUME_CORE (R316): the host's debugger writes the frame of a stopped core and resumes it, as ERET does. DEDUCED, safe (log entry 21). -/
def execHostResumeCore (s : State) : Out :=
  let q := s.ev.q
  let q : SeqId := if isCtl q.kind then q else { q with kind := .k }
  let c := s.ctl q
  if c.mode = .stopped then .next ((s.setCtl q { c with frame := c.frame.writes s.ev.fields }).resume q) else .next s

end Sys2Proof.Machine
end

