-- ==== Sys2Proof/Machine/Operands.lean ====
section
/-! DEFINITION. The operands of X (spec 05, R128 to R130; 08, R196 to R201, R222; 03, R81 to R87): what a source delivers,
the carrier and its reference map, the destination's map, and the stalls of issue. -/

namespace Sys2Proof.Machine

open Sys2Proof

/-- A register name under the rotating window of an open loop (R222). -/
def Core.ren (c : Core) (n : Nat) : Nat :=
  let rs := 32 >>> c.loop.rsc
  if c.loop.act && decide (32 ≤ n) && decide (n < 32 + rs) then 32 + (n + 32 - c.loop.turn) % rs else n

/-- What an X instruction reads: the core after the writes of its issue cycle, its operand codes after renaming, and its
reference map. A code is none where the field names no operand. -/
structure XCtx where
  c   : Core
  x   : XArgs
  f   : Fmt
  d   : Nat
  a   : Option Nat
  b   : Option Nat
  cc  : Option Nat
  ref : Option MapV
deriving DecidableEq, Repr

/-- The head of the load queue: its data and its map with coordinates of its own (R78, R176). -/
def Core.lqHead (c : Core) : Vec × MapV :=
  match c.lq with
  | e :: _ => (e.val, e.map)
  | [] => (0, .nil)

/-- The chain slot 1 to 4. -/
def Core.chain (c : Core) (n : Nat) : ChSlot := sget .nil c.ch n

/-- The bits of a register operand (R128). -/
def Core.rawOf (c : Core) (n : Nat) : Nat :=
  if n < 64 then (sget (0, .nil) c.v n).1.toNat
  else if n < 72 then (sget (0, .nil) c.w (n - 64)).1.toNat
  else if n < 76 then (c.chain (n - 71)).val.toNat
  else c.lqHead.1.toNat

/-- The map of a map-bearing operand. Key 8 of `shadow` stands only in the core that an issuing instruction reads (`State.xCore`). -/
def Core.mapOf (c : Core) (n : Nat) : MapV :=
  if n < 64 then c.mapV (sget (0, .nil) c.v n).2
  else if n < 72 then c.mapV (sget (0, .nil) c.w (n - 64)).2
  else if n < 75 then c.mapV (c.chain (n - 71)).map
  else if n = 75 then
    let v := c.mapV (c.chain 4).map
    match sfind c.shadow 8 with
    | some xs => { v with xs := xs }
    | none => v
  else c.lqHead.2

/-- A code that bears a map (R81, R196). -/
def bearsMap (n : Nat) : Bool := codeIsV n || codeIsW n

/-- The operand codes of an instruction, in the order A, B, third source (R81, R130). -/
def operandsOf (sp : XSpec) (x : XArgs) : Option Nat × Option Nat × Option Nat :=
  let cls : OpCls := match sp.c with
    | .absent => .unused
    | .required c => c
    | .optional c => c
  (if sp.a.isOperand then some x.a.toNat else none,
    if sp.b.isOperand then some x.b.toNat else none,
    if cls.isOperand then x.cN else none)

/-- The carrier among the sources (R81): the operand MC names, or the first that bears a map. -/
def carrierOf (mc : Nat) (a b c : Option Nat) : Option Nat :=
  let bearing (o : Option Nat) : Option Nat := o.filter bearsMap
  match bearing (if mc = 0 then a else if mc = 1 then b else c) with
  | some n => some n
  | none => firstSome bearing [a, b, c]

/-- The register class an instruction writes. -/
inductive XTo where
  | v | w | p | e | none
deriving DecidableEq, Repr

/-- The context of an instruction that issues now. -/
def xCtx (c : Core) (sp : XSpec) (x : XArgs) (onto : XTo) : XCtx :=
  let o := operandsOf sp x
  let a := o.1.map c.ren
  let b := o.2.1.map c.ren
  let cc := o.2.2.map c.ren
  let d := if onto = .v then c.ren x.d.toNat else x.d.toNat
  let ref : Option MapV := match carrierOf x.mcN a b cc with
    | some n => some (c.mapOf n)
    | none => match onto with
      | .v => some (c.mapOf d)
      | .w => some (c.mapOf (64 + d))
      | _ => none
  { c := c, x := x, f := x.fmtD, d := d, a := a, b := b, cc := cc, ref := ref }

/-- The element width and count of the instruction's format (R197). -/
def XCtx.w (k : XCtx) : Nat := k.f.width
def XCtx.n (k : XCtx) : Nat := k.f.count

/-- The reference map can deliver coordinates. -/
def XCtx.refKnown (k : XCtx) : Bool := match k.ref with
  | some v => v.known
  | none => false

/-- An exact integer as an operand; format `e8m0` has no rule for it (R82, R128). -/
def fromInt (f : Fmt) (code : Nat) (x : Int) : Nat :=
  if f = .e8m0 then Config.e8m0Source code x % 256 else intOperand f x

/-- What source code `n` delivers in element e of format f (R62, R82, R128, R197). -/
def XCtx.elem (k : XCtx) (f : Fmt) (n e : Nat) : Nat :=
  if bearsMap n then field (k.c.rawOf n) (f.width * e) f.width
  else if n < 96 then (sget 0 k.c.e (n - 80)).toNat % 2 ^ f.width
  else if n < 100 then
    fromInt f n (match k.ref with
      | some v => (coordAt v e f.width (n - 96)).getD 0
      | none => 0)
  else if n = 100 then
    fromInt f n (match k.ref with
      | some v => (v.m.tag.toNat : Int)
      | none => 0)
  else if n = 101 then fromInt f n e
  else if n = 112 then 0
  else if n = 113 then fromInt f n 1
  else if f = .e8m0 then Config.e8m0Source n k.x.immN % 256
  else immCode f k.x.immN

/-- Source A, B or C in element e of the instruction's format; an absent source reads zero. -/
def XCtx.src (k : XCtx) (o : Option Nat) (e : Nat) : Nat := match o with
  | some n => k.elem k.f n e
  | none => 0

/-- The 32-bit scalar a source names: an `e` register, zero, one or the zero-extended immediate. -/
def XCtx.scalar (k : XCtx) (o : Option Nat) : Nat := match o with
  | some n => if n < 96 then (sget 0 k.c.e (n - 80)).toNat else if n = 113 then 1 else if n = 127 then k.x.immN else 0
  | none => 0

/-- Reading `cd0` to `cd3` without coordinates (R83). -/
def XCtx.coordTrap (k : XCtx) : Bool :=
  let cd (o : Option Nat) : Bool := match o with
    | some n => decide (96 ≤ n) && decide (n < 100)
    | none => false
  (cd k.a || cd k.b || cd k.cc) && !k.refKnown

/-- The comparison of R87 over `n` positions of width `w`: the trap it raises. -/
def mapCheck (maps : List MapV) (n w : Nat) : Option Trap :=
  match maps with
  | m :: m2 :: rest =>
    if (m :: m2 :: rest).any fun v => !v.known then some { code := tcMapLost }
    else if (m2 :: rest).any fun v => !mapsAgree m v n w then some { code := tcMismatch }
    else none
  | _ => none

/-- The map-bearing sources' maps. -/
def XCtx.sourceMaps (k : XCtx) : List MapV :=
  ([k.a, k.b, k.cc].filterMap fun o => o.filter bearsMap).map k.c.mapOf

/-- What is settled before an instruction of `n` elements of width `w` computes: `:mchk` (R87) and coordinate reads (R83). -/
def XCtx.early (k : XCtx) (n w : Nat) : Option Trap :=
  match (if k.x.mchkB then mapCheck k.sourceMaps n w else none) with
  | some t => some t
  | none => if k.coordTrap then some { code := tcMapLost } else none

/-- The destination map of a class, for `n` positions of width `w` (R85, R86). -/
def XCtx.mapTo (k : XCtx) (cls : MapClass) (w n : Nat) : MapOut := match k.ref with
  | some v => destMap cls v (Ew.ofBits w) n
  | none => .keep { CMap.nil with ew := Ew.ofBits w }

/-- The derived map with the coordinates that noise reads (R53). -/
def XCtx.view (k : XCtx) (o : MapOut) : MapV := o.view (k.ref.getD .nil)

/-- One element's outcome: its code, its flags, and whether it needed a noise word that its map cannot give (R53). -/
structure El where
  code  : Nat
  flags : Nat := 0
  lost  : Bool := false
deriving DecidableEq, Repr

/-- Round an exact value to format f as destination element e (R53, R55, R56). -/
def XCtx.roundTo (k : XCtx) (f : Fmt) (mode : Rm) (ovf : Bool) (dm : MapV) (e : Nat) (x : Val × Nat) : El :=
  if needsNoise f x.1 mode then
    match noiseAt k.c.nkey dm e with
    | some u => let r := convert f x.1 mode ovf u; { code := r.1, flags := r.2 ||| x.2 }
    | none => { code := 0, lost := true }
  else let r := convert f x.1 mode ovf 0; { code := r.1, flags := r.2 ||| x.2 }

/-- Round to the instruction's own format with its modifiers. -/
def XCtx.round (k : XCtx) (dm : MapV) (e : Nat) (x : Val × Nat) : El := k.roundTo k.f k.x.mode k.x.ovfB dm e x

/-- A register from its element codes, element 0 lowest (R43). -/
def pack (w : Nat) : List Nat → Nat
  | [] => 0
  | c :: cs => c % 2 ^ w + 2 ^ w * pack w cs

/-- The result of an X instruction: what it writes in its write cycle, and what it does at issue. -/
structure XRes where
  lat   : Nat
  dst   : XDst := .none
  val   : XVal := 0
  map   : Option MapOut := none
  keep  : Bool := false
  flags : Nat := 0
  img   : Bool := false
  e2    : Option (Nat × Nat) := none
  /-- XPUSH: the store-queue entry -/
  push  : Option (Vec × MapV) := none
  /-- a message of overflowed elements to a gauge record (R111) -/
  exceed : Option (Nat × Nat) := none
  /-- VQNT under TRAP has overflowed: govf and what a re-run needs (R111, R113) -/
  govf  : Option (Nat × QntSave) := none
deriving DecidableEq, Repr

/-- An instruction either traps or has a result. -/
abbrev XStep := Except Trap XRes

/-- A vector result from its elements: MAP_LOST where one lacked its noise word (R53, R199). -/
def vecRes (d w lat : Nat) (m : MapOut) (els : List El) : XStep :=
  if els.any El.lost then .error { code := tcMapLost }
  else .ok { lat := lat, dst := .v d, val := pack w (els.map El.code), map := some m
             flags := els.foldl (fun a e => a ||| e.flags) 0 }

/-- A predicate result: element e sets its w/8 bits (R204). -/
def predRes (d w lat : Nat) (els : List (Bool × Nat)) : XStep :=
  .ok { lat := lat, dst := .p d, val := pack (w / 8) (els.map fun e => if e.1 then 2 ^ (w / 8) - 1 else 0)
        flags := els.foldl (fun a e => a ||| e.2) 0 }

/-- An element-wise result under KEEP in the instruction's own format. -/
def XCtx.each (k : XCtx) (lat : Nat) (g : MapV → Nat → El) : XStep :=
  let m := k.mapTo .keep k.w k.n
  let dm := k.view m
  vecRes k.d k.w lat m ((List.range k.n).map (g dm))

/-- The latency of a row whose int formats take 2 (R201). -/
def XCtx.lat42 (k : XCtx) : Nat := if k.f.isInt then 2 else 4

-- Issue ------------------------------------------------------------------------------------------------------------------

/-- The sluices PB and PA reach (R23). -/
def xPb (x : XArgs) : Option Nat :=
  if !x.pb then none else match x.slu with
    | some (r, _) => some (if r = 1 then slSX else if r = 2 then slKX else slLX)
    | none => some slLX

def xPa (x : XArgs) : Option Nat :=
  if !x.pa then none else match x.slu with
    | some (_, a) => some (if a = 1 then slXL else if a = 2 then slXK else slXS)
    | none => some slXS

/-- The body instruction at the present place is squashed: its stage has no iteration now (R222, R223). -/
def XLoop.squashed (l : XLoop) : Bool :=
  let st := l.place / l.sl
  !(decide (st ≤ l.k) && decide (l.k - st < min l.n l.q))

/-- The loop has met its whole body: only XLEND may stand here (R224). -/
def XLoop.atEnd (l : XLoop) : Bool := l.act && l.place == l.ns * l.sl

/-- The instruction names `lq`. -/
def namesLq (a b c : Option Nat) : Bool := a == some 76 || b == some 76 || c == some 76

/-- An X instruction cannot issue yet (R19, R22). -/
def Core.xStall (c : Core) (x : XArgs) (lq push : Bool) : Bool :=
  let pb := match xPb x with
    | some n => c.tokens n == 0
    | none => false
  let pa := match xPa x with
    | some n => decide (c.tokens n ≥ 16)
    | none => false
  let head := match c.lq with
    | e :: _ => !e.present
    | [] => true
  pb || pa || (lq && head) || (push && decide (c.sq.length ≥ 32))

/-- The chain takes a new first slot (R31). -/
def Core.shift (c : Core) (sl : ChSlot) : Core :=
  { c with ch := [(1, sl), (2, c.chain 1), (3, c.chain 2), (4, c.chain 3)] }

/-- Issue is done, with a stall count and the count of an XWAIT: X time goes on, the loop counts its place, and the stream goes to the next
slot (R29, R221, R222). -/
def State.xDone (s : State) (q : SeqId) (t st wait : Nat) : State :=
  let c := s.core q.unit
  let c := { c with xnow := t + 1, xnext := t + 1 + st + wait, xret := t + 1 + st
                    loop := if c.loop.act then { c.loop with place := c.loop.place + 1 } else c.loop }
  (s.setCore q.unit c).fin q

/-- A squashed body instruction (R223); one that never shifts the chain does not shift it when squashed either (R31, R134).
DEDUCED, unsafe (log entries 24, 74). -/
def State.xSquash (s : State) (q : SeqId) (st : Nat) (shift : Bool) : State :=
  let t := (s.core q.unit).xnext
  let s := s.landX q.unit (t + 1) shift
  (if shift then s.setCore q.unit ((s.core q.unit).shift .nil) else s).xDone q t st 0

/-- PB, PA and the pop of the load queue, at issue at a tick (R23, R128); a pushed token tells of `rel`. -/
def Core.xTokens (c : Core) (x : XArgs) (lq : Bool) (now : Nat) (rel : List Nat) : Core :=
  let c := match xPb x with
    | some n => { c.popTok n with xsync := now }
    | none => c
  let c := c.pushOpt (xPa x) rel
  if lq then { c with lq := c.lq.tail } else c

/-- A result goes into flight (R27), with its chain slot (R31) and its captured reference (R78). -/
def State.xCommit (s : State) (q : SeqId) (k : XCtx) (lq : Bool) (t st : Nat) (r : XRes) (rerun : Option QntSave) : State :=
  let id := s.ids
  let s : State := { s with ids := s.ids + 1 }
  let c := (s.core q.unit).xTokens k.x lq s.tick (s.tells q 1)
  let ref : Option Nat := match k.ref with
    | some v => if v.own then none else v.m.slotOf.head?
    | none => none
  let p : XPend := { id := id, pc := s.pc q, cyc := t + r.lat, dst := r.dst, val := r.val, map := r.map, keep := r.keep
                     flags := r.flags, img := r.img, ref := ref, e2 := r.e2, sq := false, rerun := rerun }
  let sl : ChSlot := match r.dst with
    | .v n => let h := sget (0, CMap.nil) c.v n; { val := h.1, map := h.2, prod := some id }
    | _ => .nil
  let c := c.shift sl
  let c := if r.dst = .none then c else { c with pend := c.pend ++ [p] }
  let c := match r.push with
    | some e => { c with sq := c.sq ++ [e] }
    | none => c
  let s := s.setCore q.unit c
  let s := match r.exceed with
    | some (g, n) => s.sendPart q (modOf q.unit) (s.asidOf q) g .zero n
    | none => s
  s.xDone q t st 0

/-- An instruction shifts `ch4` out for good: it does not hold its map, which only a carrier does that writes later (R78, R79). -/
def dropsCh4 (sp : XSpec) (x : XArgs) : Bool :=
  let o := operandsOf sp x
  !sp.holds || carrierOf x.mcN o.1 o.2.1 o.2.2 != some 75

/-- The state in which the current X instruction reads its sources: every write due up to its issue cycle is made (R27, R30). -/
def State.xNow (s : State) (sp : XSpec) (x : XArgs) : State :=
  s.landX s.cur.unit ((s.core s.cur.unit).xnext + 1) (dropsCh4 sp x)

/-- The core as it reads it. Where `ch4` leaves the chain in this cycle and its shadow slot may be filled afresh in the same cycle, `ch4` still
gives the coordinates that it had; they stand under key 8. DEDUCED, unsafe (log entry 75). -/
def State.xCore (s : State) (sp : XSpec) (x : XArgs) : Core :=
  let u := s.cur.unit
  let c := (s.xNow sp x).core u
  let b := (s.landX u (s.core u).xnext false).core u
  if dropsCh4 sp x && (c.chain 4).prod == (b.chain 4).prod && (c.chain 4).map == (b.chain 4).map then
    { c with shadow := sset c.shadow 8 (b.mapV (b.chain 4).map).xs }
  else c

/-- The issue of an X instruction that shifts the chain (R198, R199): its stalls, its traps, and its result. -/
def xRun (i : Instr) (s : State) (onto : XTo) (f : State → XCtx → XStep) : Out :=
  let q := s.cur
  match xSpec i with
  | none => .next (s.illegal q)
  | some (sp, x) => .next <|
    if q.kind ≠ .x then s.illegal q
    else
      let c := s.core q.unit
      let t := c.xnext
      let st := x.st.toNat
      if c.loop.atEnd then s.xTrap q { code := tcIllegalInst }
      else if c.loop.act && c.loop.squashed then s.xSquash q st true
      else
        let o := operandsOf sp x
        let lq := namesLq o.1 o.2.1 o.2.2
        let push := match i with
          | .xpush _ => true
          | _ => false
        if c.xStall x lq push then s
        else
          let s1 := s.xNow sp x
          let k := xCtx (s.xCore sp x) sp x onto
          let nw : Nat × Nat := match i with
            | .vscal _ => (64, 32)
            | _ => (k.n, k.w)
          match (match k.early nw.1 nw.2 with
            | some tr => Except.error tr
            | none => f s1 k) with
          | .error tr => s.xTrap q tr
          | .ok r =>
            match r.govf with
            | none => s1.xCommit q k lq t st r none
            | some (w, save) =>
              -- issued, held as a RERUN entry, and the stream goes on after it (R113, R199, R315)
              let s2 := ((s.landX q.unit t false).xCommit q k lq t st { r with exceed := none } (some save))
              let s2 := s2.setCore q.unit { s2.core q.unit with xnow := t }
              s2.trapAt q { code := tcGaugeOverflow, info := w } (BitVec.ofNat 64 (s.pc q ||| 1))

end Sys2Proof.Machine
end

