-- ==== Sys2Proof/Machine/Desc.lean ====
section
/-! DEFINITION. Tensor descriptors, windows and lists (spec 07, R170 to R175, R181), and the checks of the elements an access
reads or writes (R173). -/

namespace Sys2Proof.Machine

open Sys2Proof

/-- A tensor descriptor with its fields taken apart (R170). -/
structure Desc where
  base : Nat
  ext  : Q4 Nat
  str  : Q4 Int
  tag  : BitVec 16
  gid  : Nat
  fmt  : Fmt
  rank : Nat
  ra   : Nat
  qa   : Nat
  lw   : Nat
  bck  : Bool
  fill : Nat
deriving DecidableEq, Repr

def Desc.n (d : Desc) : Nat := d.fmt.count
def Desc.size (d : Desc) : Nat := d.fmt.width / 8
def Desc.fillVal (d : Desc) : Nat := d.fill % 2 ^ d.fmt.width

/-- A descriptor from its words; none where R171 refuses it. -/
def descOf (ws : List Word) : Option Desc :=
  let w (i : Nat) : Nat := (ws.getD i 0).toNat
  match fmtOfCode (field (w 5) 36 6) with
  | none => none
  | some f =>
    let d : Desc := {
      base := w 0
      ext := ⟨field (w 1) 0 32, field (w 1) 32 32, field (w 2) 0 32, field (w 2) 32 32⟩
      str := ⟨signed 32 (w 3), signed 32 (w 3 / 2 ^ 32), signed 32 (w 4), signed 32 (w 4 / 2 ^ 32)⟩
      tag := BitVec.ofNat 16 (w 5), gid := field (w 5) 16 20, fmt := f, rank := field (w 5) 42 2 + 1
      ra := field (w 5) 44 2, qa := field (w 5) 46 2, lw := field (w 5) 48 4, bck := bitAt (w 5) 52, fill := field (w 6) 0 32 }
    let extOk := (List.range d.rank).all fun a => decide (1 ≤ d.ext.get a) && decide (d.ext.get a ≤ 2 ^ 31)
    if d.ra < d.rank ∧ d.qa < d.rank ∧ 2 ^ d.lw ≤ d.n ∧ extOk ∧ field (w 5) 53 11 = 0 ∧ field (w 6) 32 32 = 0 ∧ w 7 = 0 then some d
    else none

/-- Descriptor number n of a sequencer's group, or OPND_RANGE (R171). -/
def State.desc (s : State) (q : SeqId) (n : Nat) : Except Trap Desc :=
  let g := s.grpOf q
  if n ≥ g.ndesc then .error { code := tcOpnd }
  else match descOf (g.descWords n) with
    | some d => .ok d
    | none => .error { code := tcOpnd }

/-- Exact coordinates on four axes. -/
abbrev Pt := Q4 Int

/-- `elem_addr` and `in_bounds` (R172). -/
def Desc.addr (d : Desc) (c : Pt) : Int :=
  (d.base : Int) + (d.size : Int) * (List.range d.rank).foldl (fun a i => a + c.get i * d.str.get i) (0 : Int)

def Desc.inBounds (d : Desc) (c : Pt) : Bool :=
  (List.range d.rank).all fun i => decide (0 ≤ c.get i) && decide (c.get i < (d.ext.get i : Int))

/-- The origin in an even–odd pair of registers (R174). -/
def originOf (lo hi : Word) (rank : Nat) : Pt :=
  let h : Nat := if rank > 2 then hi.toNat else 0
  ⟨signed 32 lo.toNat, signed 32 (lo.toNat / 2 ^ 32), signed 32 h, signed 32 (h / 2 ^ 32)⟩

/-- The unit steps (R174). -/
def Desc.unitSteps (d : Desc) : Int × Int := if d.ra = d.qa then ((2 ^ d.lw : Nat), 1) else (1, 1)

/-- `win_coord` for every position of an entry (R174). -/
def Desc.window (d : Desc) (o : Pt) (st : Int × Int) : List Pt :=
  (List.range d.n).map fun e =>
    let r : Int := (e >>> d.lw : Nat)
    let q : Int := (e % 2 ^ d.lw : Nat)
    Q4.mk' fun a => o.get a + (if a = d.ra then r * st.1 else 0) + (if a = d.qa then q * st.2 else 0)

/-- Coordinates as a map holds them (R75). -/
def Pt.coord (c : Pt) : Coord := Q4.mk' fun a => BitVec.ofInt 32 (c.get a)

/-- An EXPLICIT map held in an entry (R88, R181). -/
def Desc.listMap (d : Desc) (cs : List Coord) : MapV :=
  { m := { CMap.nil with mode := .explicit, tag := d.tag, lw := BitVec.ofNat 4 d.lw, ew := Ew.ofBits d.fmt.width }, xs := cs, own := true }

/-- The map of a window access (R175). -/
def Desc.windowMap (d : Desc) (o : Pt) (st : Int × Int) : MapV :=
  if fits16 st.1 && fits16 st.2 then
    { m := { mode := .affine, tag := d.tag, lw := BitVec.ofNat 4 d.lw, slot := 0, ew := Ew.ofBits d.fmt.width
             base := Pt.coord o
             rs := Q4.mk' fun a => if a = d.ra then BitVec.ofInt 16 st.1 else 0
             qs := Q4.mk' fun a => if a = d.qa then BitVec.ofInt 16 st.2 else 0 }
      xs := [], own := true }
  else d.listMap ((d.window o st).map Pt.coord)

-- Checks of elements (R173) --------------------------------------------------------------------------------------------------

/-- An exact address as an access uses it, or cause 1 (R151). -/
def addrOk (x : Int) : Except Trap Nat :=
  if 0 ≤ x ∧ x < 2 ^ 42 then .ok x.toNat else .error { code := tcAddr, addr := wrapNat 64 x, info := 1 }

/-- The check of one element read at an exact address. -/
def State.readElem (s : State) (q : SeqId) (x : Int) (size : Nat) : Option Trap :=
  match addrOk x with
  | .error t => some t
  | .ok a => s.readCheck q a size size

/-- Words with an error of which a write of `cells` covers some bytes, not all (R173, R392). -/
def State.errPart (s : State) (cells : List (Nat × Byte)) (a n : Nat) : Bool :=
  if s.latent.isEmpty && s.bad.isEmpty then false
  else (wordsIn a n).any fun w => (s.latent.contains w || s.bad.contains w)
    && (span w 8).any fun b => !(cells.any fun c => c.1 == b)

/-- The check of one element of a write that covers `cells` as a whole. -/
def State.writeElem (s : State) (q : SeqId) (cells : List (Nat × Byte)) (x : Int) (size : Nat) : Option Trap :=
  match addrOk x with
  | .error t => some t
  | .ok a =>
    match s.cause15 q a size with
    | some c => some { code := tcAddr, addr := a, info := c }
    | none =>
      if s.isEngine a then some { code := tcOwner, addr := a }
      else if s.errPart cells a size then some { code := tcPoison, addr := a }
      else none

/-- Words that a write of `cells` covers whole become good (R392). -/
def State.healCells (s : State) (cells : List (Nat × Byte)) : State :=
  if s.latent.isEmpty && s.bad.isEmpty then s
  else
    let whole (w : Nat) : Bool := (span w 8).all fun b => cells.any fun c => c.1 == b
    { s with latent := s.latent.filter fun w => !whole w, bad := s.bad.filter fun w => !whole w }

/-- The trap of an access, its error found (R392). -/
def State.trapElem (s : State) (q : SeqId) (t : Trap) (size : Nat) : State :=
  (if t.code = tcPoison then s.findBad (wordsIn t.addr size) else s).trap q t

-- Lists (R181) ------------------------------------------------------------------------------------------------------------------

/-- The words of a list in order: address and size of each. LDI and STI read 4-byte indices, LGB and SSB 8-byte entries, and
LRRD entries of 8, 4 and 4 bytes. -/
def listWords (a n step : Nat) (parts : List (Nat × Nat)) : List (Nat × Nat) :=
  (List.range n).flatMap fun i => parts.map fun p => (a + step * i + p.1, p.2)

/-- Every list word is checked as an access of its own size, in order (R181). -/
def State.listCheck (s : State) (q : SeqId) (ws : List (Nat × Nat)) : Option (Trap × Nat) :=
  firstSome (fun w => (s.readElem q (w.1 : Int) w.2).map fun t => (t, w.2)) ws

/-- LDI and STI: the coordinates of every position (R181, R185). -/
def State.indexed (s : State) (q : SeqId) (d : Desc) (o : Pt) (list ix : Nat) : List Pt :=
  (List.range d.n).map fun j => o.set ix (signed 32 (s.read q (list + 4 * j) 4))

/-- LGB, SSB and LRRD: the coordinates of every position from row and column entries (R181, R185). -/
def State.blocked (s : State) (q : SeqId) (d : Desc) (o : Pt) (list step off : Nat) : List Pt :=
  (List.range d.n).map fun j =>
    let a := list + step * (j >>> d.lw) + off
    (o.set d.ra (signed 32 (s.read q a 4))).set d.qa (signed 32 (s.read q (a + 4) 4) + ((j % 2 ^ d.lw : Nat) : Int))

end Sys2Proof.Machine
end

