-- ==== Sys2Proof/Machine/Engines.lean ====
section
/-! DEFINITION. What every engine shares: its reads and writes of scratchpads and pages with their errors (spec 18, R392), the
byte ranges it presents to the range checkers (spec 01, R36 to R38; 09, R230, R249; 21, R405), and the delivery of its faults
(spec 13, R319). -/

namespace Sys2Proof.Machine

open Sys2Proof

/-- An exact range of bytes. DEDUCED, safe (log entry 33). -/
abbrev Range := Int × Nat

def Range.meets (a b : Range) : Bool :=
  decide (a.2 ≠ 0) && decide (b.2 ≠ 0) && decide (a.1 < b.1 + b.2) && decide (b.1 < a.1 + a.2)

def anyMeets (xs ys : List Range) : Bool := xs.any fun x => ys.any fun y => Range.meets x y

-- Faults (R319) ------------------------------------------------------------------------------------------------------------

/-- A fault record is queued at the enqueuing sequencer; beyond eight, the eighth says that more are lost. -/
def Ctl.addFault (c : Ctl) (r : EngRec) : Ctl :=
  if c.faults.length < 8 then { c with faults := c.faults ++ [r] }
  else { c with faults := c.faults.take 7 ++ (c.faults.drop 7).map (fun x => { x with code := 0xFFFF }), faultLost := true }

/-- DEDUCED, unsafe (log entry 35). -/
def State.engFault (s : State) (q : SeqId) (num barge kind : Nat) (t : Trap) : State :=
  s.setCtl q ((s.ctl q).addFault { num := num, barge := barge, kind := kind, code := t.code, addr := t.addr })

-- Ranges (R37, R38) ---------------------------------------------------------------------------------------------------------

/-- What a queued or running engine command presents to the range checkers: its place in the order of arrival, and the
scratchpad bytes it reads and writes. -/
structure Claim where
  order : Nat
  rd    : List Range
  wr    : List Range
deriving DecidableEq, Repr

/-- An earlier claim with which a later one overlaps where one of the two writes (R37). -/
def Claim.blocks (e l : Claim) : Bool :=
  decide (e.order < l.order) && (anyMeets e.wr l.wr || anyMeets e.wr l.rd || anyMeets e.rd l.wr)

def BCmd.claim (m : BCmd) : Claim :=
  { order := m.order
    rd := if m.ss ∧ m.aop = 0 then m.srcRows else []
    wr := (if m.ds then m.dstRows else []) ++ (if m.aop = 0 then [] else m.srcRows) }

/-- The entry size of a ring in bytes (R231). -/
def Ring.size (r : Ring) : Nat := 512 * 2 ^ r.esz

/-- Entry x of a ring, counted from its definition (R233). -/
def Ring.entry (r : Ring) (x : Nat) : Nat := r.base + x % r.cap * r.size

/-- The rings of the operands of an MGO, from its parameter block (R237). -/
def tpbRingA (tpb : List Word) : Nat := field (tpb.getD 0 0).toNat 12 3
def tpbRingB (tpb : List Word) : Nat := field (tpb.getD 0 0).toNat 15 3

/-- What an MGO takes from a ring when it retires: one more than the largest offset it reads (R234). -/
def goTake (steps : List MStep) (f : MStep → Nat) : Nat := steps.foldl (fun a st => max a (f st + 1)) 0

def Matrix.ring (m : Matrix) (n : Nat) : Ring := sget .undef m.rings n

/-- Entries of ring `rg` that the operations queued before `order` take. -/
def Matrix.takenBefore (m : Matrix) (rg order : Nat) : Nat :=
  m.queue.foldl (fun a o => if o.order < order ∧ !o.doomed then
    (match o.kind with
    | .go steps tpb _ => a + (if tpbRingA tpb = rg then goTake steps MStep.oa else if tpbRingB tpb = rg then goTake steps MStep.ob else 0)
    | _ => a) else a) 0

/-- The range of a drain: from the lowest to the highest address of an element in bounds, or everything (R230). -/
def Desc.extent (d : Desc) : Range :=
  let lo : Int := (List.range d.rank).foldl (fun a i => a + min 0 (((d.ext.get i : Int) - 1) * d.str.get i)) (0 : Int)
  let hi : Int := (List.range d.rank).foldl (fun a i => a + max 0 (((d.ext.get i : Int) - 1) * d.str.get i)) (0 : Int)
  ((d.base : Int) + d.size * lo, (d.size * (hi - lo + 1)).toNat)

/-- The attributes that a step gives its tile (R241). DEDUCED, unsafe (log entry 37). -/
def stepTile (tpb : List Word) (st : MStep) (num : Nat) : Tile :=
  let w (i : Nat) : Nat := (tpb.getD i 0).toNat
  let m : CMap := if bitAt (w 0) 19 then
      { mode := .affine, tag := BitVec.ofNat 16 (w 2), lw := 6, slot := 0, ew := .w32
        base := ⟨BitVec.ofNat 32 (w 1) + BitVec.ofNat 32 (32 * st.mt), BitVec.ofNat 32 (w 1 / 2 ^ 32) + BitVec.ofNat 32 (64 * st.nt), 0, 0⟩
        rs := ⟨1, 0, 0, 0⟩, qs := ⟨0, 1, 0, 0⟩ }
    else .nil
  { val := [], map := m, mv := st.mv, nv := st.nv, sc := 0, wop := num, key := tpb.getD 3 0, keyv := bitAt (w 0) 20 }

/-- The tiles' maps and extents after an operation (R240, R241, R244 to R246). -/
def MxOp.leaves (o : MxOp) (f : Nat → Tile) (t : Nat) : Tile :=
  match o.kind with
  | .go steps tpb _ => match (steps.filter (·.t == t)).getLast? with
    | some st => stepTile tpb st o.num
    | none => f t
  | .drain t' _ _ _ _ za _ _ => if za && t == t' then .init else f t
  | .zero mask => if bitAt mask t then .init else f t
  | .scale src dst _ _ _ _ _ => if t = dst then f src else f t

/-- A tile as the operation of an order will find it: what those before it in the queue leave. -/
def Matrix.tileFor (m : Matrix) (t order : Nat) : Tile :=
  ((m.queue.filter fun o => decide (o.order < order) && !o.doomed).foldl (fun f o => o.leaves f) fun i => sget .init m.tiles i) t

/-- The exact places of a tile's elements under a descriptor without a bounds check (R245). -/
def Desc.tilePlaces (d : Desc) (x : Tile) : List Range :=
  let mv : MapV := { m := x.map, xs := [], own := false }
  if !mv.known then []
  else (List.range x.mv).flatMap fun i => (List.range x.nv).map fun j =>
    let c := coordAll mv (64 * i + j)
    (d.addr (Q4.mk' fun a => (c.get a).toInt), d.size)

/-- What a matrix operation presents to the range checkers (R230): the bytes it touches, in whichever scratchpad they lie; a drain without
a bounds check, its core's whole scratchpad and the elements that it writes elsewhere. DEDUCED, unsafe (log entry 38). -/
def Matrix.claim (m : Matrix) (u : Nat) (o : MxOp) : Claim :=
  match o.kind with
  | .go steps tpb _ =>
    let side (rg : Nat) (f : MStep → Nat) : List Range :=
      let r := m.ring rg
      let h := r.head + m.takenBefore rg o.order
      (steps.map f).eraseDups.map fun x => ((r.entry (h + x) : Int), r.size)
    { order := o.order, rd := side (tpbRingA tpb) MStep.oa ++ side (tpbRingB tpb) MStep.ob, wr := [] }
  | .drain t ws _ _ _ _ _ _ =>
    let wr := match descOf ws with
      | some d => if d.bck then [d.extent] else ((unitBase u : Int), 2 ^ 19) :: d.tilePlaces (m.tileFor t o.order)
      | none => []
    { order := o.order, rd := [], wr := wr }
  | .zero _ => { order := o.order, rd := [], wr := [] }
  | .scale _ _ sf a _ _ _ => { order := o.order, rd := [((a : Int), 96 * ((fmtOfCode sf).getD .f32).width / 8)], wr := [] }

-- The fields of a walk descriptor (R251)
def wdSrc (d : List Word) : Nat := (d.getD 0 0).toNat
def wdRow0 (d : List Word) : Int := signed 32 (d.getD 1 0).toNat
def wdCol0 (d : List Word) : Int := signed 32 ((d.getD 1 0).toNat / 2 ^ 32)
def wdRows (d : List Word) : Nat := field (d.getD 2 0).toNat 0 32
def wdCols (d : List Word) : Nat := field (d.getD 2 0).toNat 32 32
def wdF (d : List Word) (lo n : Nat) : Nat := field (d.getD 3 0).toNat lo n
def wdKind (d : List Word) : Nat := wdF d 0 2
def wdEntry (d : List Word) : Nat := if wdF d 3 1 = 1 then 4 else 8
def wdMax (d : List Word) : Nat := field (d.getD 5 0).toNat 0 32

/-- The header words of a fibre (R182), as an engine reads them. -/
def State.fibreWords (s : State) (a : Nat) : List Nat := (List.range 8).map fun i => memNat s.mem (a + 8 * i) 8

/-- The ranges a walk presents (R249): the mask bits, or the fibre's header and its two lists, the values at the widest element; the output list
and the count word. DEDUCED, unsafe (log entry 38). -/
def State.walkClaim (s : State) (w : Walk) : Claim :=
  let d := w.desc
  let src := wdSrc d
  let rd : List Range :=
    if wdKind d = 0 then [((src : Int), (wdRows d * wdCols d + 7) / 8)]
    else if wdKind d = 2 then
      let h := s.fibreWords src
      let cnt := field (h.getD 2 0) 0 32
      [((src : Int), 64), (((h.getD 0 0 : Nat) : Int), 4 * cnt), (((h.getD 1 0 : Nat) : Int), 4 * cnt)]
    else []
  { order := w.order, rd := rd, wr := [((w.list : Int), wdMax d * wdEntry d), ((w.count : Int), 8)] }

-- The fields of a collective descriptor (R402)
def cdSrc (d : List Word) : Nat := (d.getD 0 0).toNat
def cdDst (d : List Word) : Nat := (d.getD 1 0).toNat
def cdF (d : List Word) (lo n : Nat) : Nat := field (d.getD 2 0).toNat lo n
def cdCount (d : List Word) : Nat := cdF d 0 32
def cdOp (d : List Word) : Nat := cdF d 38 3
def cdNp (d : List Word) : Nat := field (d.getD 3 0).toNat 28 12 + 1
def cdRank (d : List Word) : Nat := field (d.getD 3 0).toNat 16 12
def cdBlock (d : List Word) : Nat := cdCount d * (((fmtOfCode (cdF d 32 6)).getD .f32).width / 8)
def cdSrcLen (d : List Word) : Nat := if cdOp d = 4 then cdNp d * cdBlock d else cdBlock d
def cdDstLen (d : List Word) : Nat := if cdOp d = 3 then cdNp d * cdBlock d else cdBlock d

/-- A session still open to its accesses: JOINING or RUNNING. -/
def Session.live (x : Session) : Bool := decide (x.st < 2)

/-- The destination is written: not at a REDUCE rank other than 0 (R402). -/
def Session.writes (x : Session) : Bool := !(cdOp x.desc == 1 && cdRank x.desc != 0)

def Session.claim (x : Session) : Claim :=
  { order := x.order, rd := [((cdSrc x.desc : Int), cdSrcLen x.desc)]
    wr := if x.writes then [((cdDst x.desc : Int), cdDstLen x.desc)] else [] }

/-- Every claim of a queued or running command of the pod. DEDUCED, safe (log entry 33). -/
def State.claims (s : State) : List Claim :=
  (s.ctxs.flatMap fun kc => kc.2.chains.flatMap fun ch => (ch.2.cmds.filter fun m => m.st.live).map BCmd.claim)
    ++ (s.cores.flatMap fun uc => uc.2.mx.queue.map (uc.2.mx.claim uc.1))
    ++ (s.cores.flatMap fun uc => uc.2.ix.queue.map s.walkClaim)
    ++ ((s.sessions.filter Session.live).map Session.claim)

/-- The range checkers clear a command: no earlier one that conflicts is queued or running (R37). DEDUCED, safe (log entry 33). -/
def State.clear (s : State) (c : Claim) : Bool := !s.claims.any fun e => e.blocks c

/-- The granules of a list of ranges are all ENGINE (R36). -/
def State.allEngine (s : State) (rs : List Range) : Bool :=
  rs.all fun r => (granules r.1.toNat r.2).all fun g => sget false s.engine g

/-- Every claim that touches granules, a finished command that has yet to retire with them (R35). -/
def State.touchers (s : State) : List (List Range) :=
  (s.ctxs.flatMap fun kc => kc.2.chains.flatMap fun ch => ch.2.cmds.map fun m => m.claim.rd ++ m.claim.wr)
    ++ (s.cores.flatMap fun uc => uc.2.mx.queue.map fun o => let c := uc.2.mx.claim uc.1 o; c.rd ++ c.wr)
    ++ (s.cores.flatMap fun uc => uc.2.ix.queue.map fun w => (s.walkClaim w).rd ++ (s.walkClaim w).wr)
    ++ ((s.sessions.filter Session.live).map fun x => x.claim.rd ++ x.claim.wr)

/-- A queued or running engine command touches a byte range (R35). -/
def State.engineBusy (s : State) (a n : Nat) : Bool := s.touchers.any fun rs => anyMeets rs [((a : Int), n)]

-- Scratchpad accesses ---------------------------------------------------------------------------------------------------------

/-- An engine reads a scratchpad range: its bytes, or the fault that an unreachable module (R401) or a bad word (R392) makes. -/
def State.engRead (s : State) (from' a n : Nat) : State × Except Trap (List Byte) :=
  let ws := wordsIn a n
  if !s.present (modOf (a / 2 ^ 20)) || !s.reachable from' (modOf (a / 2 ^ 20)) then (s, .error { code := tcPoison, addr := a })
  else match ws.find? fun w => s.latent.contains w || s.bad.contains w with
    | some w => (s.findBad ws, .error { code := tcPoison, addr := w })
    | none => (s, .ok (memBytes s.mem a n))

/-- An engine writes scratchpad bytes: words with an error that the write covers in part keep their bytes and make a fault;
words it covers whole become good (R392). -/
def State.engWrite (s : State) (cells : List (Nat × Byte)) : State × Option Trap :=
  if s.latent.isEmpty && s.bad.isEmpty then (s.write cells, none)
  else
    let whole (w : Nat) : Bool := (span w 8).all fun b => cells.any fun c => c.1 == b
    let ws := (cells.map fun c => c.1 / 8 * 8).eraseDups
    let part := ws.filter fun w => (s.latent.contains w || s.bad.contains w) && !whole w
    let s := (s.findBad part).write (cells.filter fun c => !part.contains (c.1 / 8 * 8))
    let s := s.healCells cells
    (s, part.head?.map fun w => { code := tcPoison, addr := w })

-- Page accesses ------------------------------------------------------------------------------------------------------------------

/-- The lines of a range of virtual addresses. -/
def linesIn (a n : Nat) : List Nat := if n = 0 then [] else (span (a / 64) ((a + n - 1) / 64 - a / 64 + 1)).map (· * 64)

/-- The part of a range in one line: its first address and length. -/
def inLine (a n line : Nat) : Nat × Nat :=
  let lo := max a line
  (lo, min (a + n) (line + 64) - lo)

/-- The memory keys of a range of virtual addresses; a line lies in one page. -/
def State.vkeys (s : State) (md asid a n : Nat) : List Nat :=
  (linesIn a n).flatMap fun l =>
    let p := inLine a n l
    span (s.vkey md asid p.1) p.2

/-- An engine reads a range of a context's address space: a byte of a bad line is none under poison policy FILL, and a fault
under TRAP; a PEER page whose module is gone is a fault (R392, R401). -/
def State.pageRead (s : State) (md asid a n : Nat) : State × Except Trap (List (Option Byte)) :=
  (linesIn a n).foldl (fun r l =>
    match r.2 with
    | .error _ => r
    | .ok acc =>
      let p := inLine a n l
      match r.1.home md asid p.1 with
      | none => (r.1, .error { code := tcPage, addr := p.1 })
      | some (m, pg) =>
        if !r.1.reachable md m then (r.1, .error { code := tcPoison, addr := p.1 })
        else
          let t := r.1.touchLine md asid p.1
          if !t.2 then (t.1, .ok (acc ++ (memBytes t.1.mem (t.1.vkey md asid p.1) p.2).map some))
          else if pg.pp then (t.1, .ok (acc ++ List.replicate p.2 none))
          else (t.1, .error { code := tcPoison, addr := l })) (s, .ok [])

/-- The lines among those touched that a write of the ranges `rs` drops: bad ones, and those in which its merge read finds an
error. A whole line whose error has not been found is replaced (R392). -/
def State.dropLines (s : State) (md asid : Nat) (rs : List (Nat × Nat)) : State × List Nat :=
  ((rs.flatMap fun r => linesIn r.1 r.2).eraseDups).foldl (fun r l =>
    let k := r.1.vkey md asid l / 64 * 64
    let whole : Bool := r.1.latent.contains k && (span l 64).all fun b => rs.any fun x => decide (x.1 ≤ b) && decide (b < x.1 + x.2)
    if whole && !(match r.1.home md asid l with
      | some (_, p) => p.lineBad l
      | none => false) then ({ r.1 with latent := r.1.latent.filter (· != k) }, r.2)
    else
      let t := r.1.touchLine md asid l
      (t.1, if t.2 then l :: r.2 else r.2)) (s, [])

/-- An engine writes rows of a context's address space; answers the lines that were dropped (R392). -/
def State.pageWrite (s : State) (md asid : Nat) (rows : List (Nat × List Byte)) : State × List Nat :=
  let r := s.dropLines md asid (rows.map fun x => (x.1, x.2.length))
  let cells := rows.flatMap fun x =>
    ((r.1.vkeys md asid x.1 x.2.length).zip ((span x.1 x.2.length).zip x.2)).filterMap fun y =>
      if r.2.contains (y.2.1 / 64 * 64) then none else some (y.1, y.2.2)
  (r.1.write cells, r.2)

/-- Raise or lower the in-flight count of pages, named by module and first address (R384); a POISONED page whose count is zero becomes RETIRED (R391). -/
def State.pin (s : State) (asid : Nat) (ps : List (Nat × Nat)) : State :=
  ps.foldl (fun s x => s.setCtx x.1 asid ((s.ctx x.1 asid).updPage x.2 fun p => { p with inf := p.inf + 1 })) s

def State.unpin (s : State) (asid : Nat) (ps : List (Nat × Nat)) : State :=
  ps.foldl (fun s x => (s.setCtx x.1 asid ((s.ctx x.1 asid).updPage x.2 fun p => { p with inf := p.inf - 1 })).settle x.1 asid x.2) s

/-- Sequencers that are gone, by context, are awaited no more by aborted sessions (R404, R406). -/
def State.forget (s : State) (gone : Nat → SeqId → Bool) : State :=
  { s with aborted := (s.aborted.map fun a => { a with ranks := a.ranks.filter fun q => !gone a.asid q }).filter (!·.ranks.isEmpty) }

end Sys2Proof.Machine
end

