-- ==== Sys2Proof/Machine/Streams.lean ====
section
/-! DEFINITION. What L and S share (spec 07; 01, R23): token bits, stalls, address arithmetic, branches, fences and owner flips;
and the visibility steps of their accesses (spec 12). -/

namespace Sys2Proof.Machine

open Sys2Proof

/-- The sluices that PB and PA of an L or S instruction reach (R23, R129). -/
def lsPb (kd : SeqKind) (t : Tok) : Option Nat :=
  if !t.pb then none
  else
    let alt := match t.ext with
      | some (r, _) => r != 0
      | none => false
    some (if kd = .l then (if alt then slKL else slXL) else (if alt then slKS else slXS))

def lsPa (kd : SeqKind) (t : Tok) : Option Nat :=
  if !t.pa then none
  else
    let alt := match t.ext with
      | some (_, a) => a != 0
      | none => false
    some (if kd = .l then (if alt then slLK else slLX) else (if alt then slSK else slSX))

/-- Tokens that issued instructions of L or S have yet to push into a sluice (R23). -/
def Core.owed (c : Core) (n : Nat) : Nat :=
  (c.lq.filter fun e => !e.present && e.pa == some n).length + (c.spend.filter fun p => p.pa == some n).length

/-- The token bits let an instruction issue (R22, R23). -/
def Core.tokReady (c : Core) (kd : SeqKind) (t : Tok) : Bool :=
  (match lsPb kd t with
  | some n => decide (c.tokens n > 0)
  | none => true) && (match lsPa kd t with
  | some n => decide (c.tokens n + c.owed n < 16)
  | none => true)

/-- PB takes its token. DEDUCED, safe (log entry 27). -/
def Core.popOpt (c : Core) : Option Nat → Core
  | some n => c.popTok n
  | none => c

/-- What an L or S instruction does once its tokens let it issue: it stalls, traps with the size of the failing access, or goes
on; `later` says that its PA token is pushed later. -/
inductive LsOut where
  | stall
  | trap (t : Trap) (size : Nat)
  | done (s : State) (p : Pos) (later : Bool)

/-- An instruction of L or S (R23, R178). DEDUCED, safe (log entry 27). -/
def lsRun (kd : SeqKind) (t : Tok) (s : State) (f : SeqId → LsOut) : Out :=
  let q := s.cur
  .next <|
    if q.kind ≠ kd then s.ownTrap q { code := tcIllegalInst } (BitVec.ofNat 64 (s.pc q))
    else if !(s.core q.unit).tokReady kd t then s
    else match f q with
      | .stall => s
      | .trap tr n => s.trapElem q tr n
      | .done s' p later =>
        let c := (s'.core q.unit).popOpt (lsPb kd t)
        let c := if later then c else c.pushOpt (lsPa kd t) (s'.tells q 1)
        (s'.setCore q.unit c).goto q p

/-- The next slot, for an instruction that goes on. -/
def State.after (s : State) (q : SeqId) : Pos := .next (s.pc q)

-- Address registers, branches and loops (R193, R194) -----------------------------------------------------------------------------

def sext14 (x : BitVec 14) : Word := x.signExtend 64

/-- Bits [31:0] of a word with bits [63:32] of another. -/
def joinHalves (lo hi : Word) : Word := BitVec.ofNat 64 (lo.toNat % 2 ^ 32 + hi.toNat / 2 ^ 32 * 2 ^ 32)

def setALs (kd : SeqKind) (t : Tok) (a : BitVec 4) (s : State) (v : SeqId → Word) : Out :=
  lsRun kd t s fun q => .done (s.setA q a (v q)) (s.after q) false

def aaddLs (kd : SeqKind) (t : Tok) (a b : BitVec 4) (val : BitVec 14) (s : State) : Out :=
  setALs kd t a s fun q => s.getA q b.toNat + sext14 val

def aaddLoLs (kd : SeqKind) (t : Tok) (a b : BitVec 4) (val : BitVec 14) (s : State) : Out :=
  setALs kd t a s fun q => joinHalves (s.getA q b.toNat + sext14 val) (s.getA q b.toNat)

def aaddHiLs (kd : SeqKind) (t : Tok) (a b : BitVec 4) (val : BitVec 14) (s : State) : Out :=
  setALs kd t a s fun q => joinHalves (s.getA q b.toNat) (s.getA q b.toNat + sext14 val <<< 32)

def aliLs (kd : SeqKind) (t : Tok) (a : BitVec 4) (imm : BitVec 16) (s : State) : Out :=
  setALs kd t a s fun _ => sext16 imm

/-- LAK and SAK: an 8-byte read that the stream waits for (R177, R193); L reads no location before its earlier loads have, and S none to which
a store of its own has yet to perform (R289, R294 to R299). -/
def akLs (kd : SeqKind) (t : Tok) (a b : BitVec 4) (imm : BitVec 16) (s : State) : Out :=
  lsRun kd t s fun q =>
    let ea := (s.getA q b.toNat + sext16 imm).toNat
    match s.readCheck q ea 8 8 with
    | some tr => .trap tr 8
    | none =>
      if (kd = .l ∧ owedIn (s.core q.unit).lq ea 8) ∨ s.ownOpen q ea 8 then .stall
      else .done (s.setA q a (BitVec.ofNat 64 (s.read q ea 8))) (s.after q) false

def brLs (kd : SeqKind) (t : Tok) (a b : BitVec 4) (slot : BitVec 3) (line : BitVec 13) (s : State) : Out :=
  lsRun kd t s fun q =>
    let pc := s.pc q
    .done s (if a = b ∨ s.getA q a.toNat ≠ s.getA q b.toNat then .target (branchTarget pc slot line) pc else s.after q) false

/-- LLOOP and SLOOP: a taken iteration is a point at which the stream may yield (R194, R321). -/
def loopLs (kd : SeqKind) (t : Tok) (a : BitVec 4) (slot : BitVec 3) (line : BitVec 13) (s : State) : Out :=
  lsRun kd t s fun q =>
    let pc := s.pc q
    let v := s.getA q a.toNat - 1
    let s' := s.setA q a v
    if v = 0 then .done s' (s.after q) false
    else
      let s'' := s'.loopTaken q pc (branchTarget pc slot line)
      .done s'' (s''.pos q) false

-- Fences and flips (R191, R192, R292, R305) ----------------------------------------------------------------------------------------

/-- Every earlier access of the stream has performed at core scope. -/
def Core.quiet (c : Core) (kd : SeqKind) : Bool := if kd = .l then c.lq.all (·.present) else c.spend.isEmpty

/-- Gauge partials of a stream that are not yet applied (R105). -/
def State.partsOpen (s : State) (q : SeqId) : Bool := (s.ctxOf q).parts.any fun p => p.src == q

def fenceLs (kd : SeqKind) (t : Tok) (scope : BitVec 3) (s : State) : Out :=
  lsRun kd t s fun q =>
    if !(s.core q.unit).quiet kd || s.fenceOpen q (scope.toNat + 1) || s.partsOpen q then .stall else .done s (s.after q) false

/-- The checks of an owner flip of `n` granules at an address (R192). -/
def State.flipCause (s : State) (q : SeqId) (ea n : Nat) : Option Nat :=
  let u := ea / 2 ^ 20
  let off := ea % 2 ^ 20
  if ea ≥ 2 ^ 42 then some 1
  else if u % 8 ≥ 5 then some 2
  else if s.absent q u then some 4
  else if (off / 4096 + n) * 4096 > (if u % 8 < 4 then 0x80000 else 2 ^ 20) then some 3
  else if ea % 4096 ≠ 0 then some 5
  else if quadOf u ≠ quadOf q.unit then some 6
  else none

/-- The stores that a flip makes perform first: what its stream has observed, and every store in flight to the granules (R192,
R303, R305). -/
def State.flush (s : State) (q : SeqId) (a n : Nat) : State :=
  s.land fun st => (st.who != q && (st.fenceBy q).isSome) || st.inRange a n

def flipLs (kd : SeqKind) (t : Tok) (a : BitVec 4) (cnt : BitVec 8) (eng : Bool) (s : State) : Out :=
  lsRun kd t s fun q =>
    let ea := (s.getA q a.toNat).toNat
    let n := cnt.toNat + 1
    match s.flipCause q ea n with
    | some c => .trap { code := tcAddr, addr := ea, info := c } 8
    | none =>
      if !(s.core q.unit).quiet kd || (!eng && s.engineBusy ea (n * 4096)) then .stall
      else .done ((s.flush q ea (n * 4096)).setOwner ea n eng) (s.after q) false

-- Performing at wider scopes (R287, R291 to R299, R303) ------------------------------------------------------------------------------

/-- The work in flight of a stream of a core goes on: the core is in normal mode, and no other stream is being stepped (R312,
R320). -/
def Ctl.flows (c : Ctl) (n : Nat) : Bool := c.mode == .normal && !c.stepDone && (match c.only with
  | some m => m == n
  | none => true)

/-- An element of the oldest issued S instruction: it may perform at core scope before the rest of it does (R288). -/
def State.atHead (s : State) (y : Store) : Bool :=
  (s.ctl { y.who with kind := .k }).flows 3 && (match (s.core y.who.unit).spend with
    | p :: _ => p.ids.contains y.id
    | [] => false)

/-- The store at position i of the stores in flight may perform at the next scope. -/
def State.mayRaise (s : State) (i : Nat) (y : Store) : Bool :=
  (decide (y.lvl ≥ 1) || s.atHead y)
    && (s.transit.mapIdx fun j x => j == i || decide (x.owes (decide (j < i)) y (y.lvl + 1) ≤ x.lvl)).all (· == true)

/-- PERFORMED_AT_SCOPE (R287): the store at position ev.i of the stores in flight performs at the next wider scope.
DEDUCED, unsafe (log entry 30). -/
def execPerformedAtScope (s : State) : Out :=
  match s.transit[s.ev.i]? with
  | none => .next s
  | some y => .next (if s.mayRaise s.ev.i y then s.perform y.id (y.lvl + 1) else s)

/-- STORE_PERFORMED_CORE (R187): the oldest issued S instruction of core ev.i performs at core scope. -/
def execStorePerformedCore (s : State) : Out :=
  let u := s.ev.i
  if (s.ctl { unit := u, kind := .k }).flows 3 && !s.signalWaits u then .next (s.performS u) else .next s

/-- Element `i` of the entry at position j of a load queue arrives before the entry is present (R176, R288). -/
def State.arriveElement (s : State) (u j i : Nat) : State :=
  let q : SeqId := { unit := u, kind := .l }
  let c := s.core u
  match c.lq[j]? with
  | none => s
  | some e => match e.plan[i]? with
    | some (some a) =>
      if e.present || !(s.ctl { q with kind := .k }).flows 1 || s.entryLost u e || (sfind e.got i).isSome
        || owedIn (c.lq.take j) a (e.width / 8) then s
      else
        let s' := s.observe q fun st => st.inRange a (e.width / 8)
        let v := s.read q a (e.width / 8)
        let c := c.fixLoads j [(a, e.width / 8)]
        s'.setCore u { c with lq := c.lq.map fun x => if x.id = e.id then { x with got := sset x.got i v } else x }
    | _ => s

/-- LQ_ENTRY_PRESENT (R176): the entry at position ev.j of the load queue of core ev.i has all its elements; a module that has
become unreachable makes it a trap at the load (R401). DEDUCED, unsafe (log entry 19). -/
def execLqEntryPresent (s : State) : Out :=
  let u := s.ev.i
  let q : SeqId := { unit := u, kind := .l }
  let c := s.core u
  match c.lq[s.ev.j]? with
  | none => .next s
  | some e =>
    if e.present || !(s.ctl { unit := u, kind := .k }).flows 1 then .next s
    else if !s.entryLost u e then .next (if e.ready (c.lq.take s.ev.j) then s.fillEntry u e.id else s)
    else
      let s := (c.lq.take s.ev.j).foldl (fun s x => if x.present || s.entryLost u x then s else s.fillEntry u x.id) s
      let a := firstSome (fun p => p.filter fun a => !s.reachable (modOf u) (modOf (a / 2 ^ 20)) || !s.present (modOf (a / 2 ^ 20))) e.plan
      let k := s.core u
      let s := s.setCore u { k with lheld := some (e.id, e.pc, k.lpos) }
      .next (s.stopAt q { code := tcPoison, addr := a.getD 0 } (BitVec.ofNat 64 e.pc))

end Sys2Proof.Machine
end

