-- ==== Sys2Proof/Machine/Load.lean ====
section
/-! DEFINITION. The instructions of L (spec 07, R180 to R184, R190 to R194). -/

namespace Sys2Proof.Machine

open Sys2Proof

/-- An element position of a load: its coordinates and exact address, or void (R76). -/
abbrev LPos := Option (Pt × Int)

/-- The address that each position reads, none where the fill value stands (R173, R180). -/
def Desc.reads (d : Desc) (ps : List LPos) : List (Option Int) :=
  ps.map fun p => p.bind fun x => if d.bck && !d.inBounds x.1 then none else some x.2

/-- The first failing check of the lowest position (R173). DEDUCED, unsafe (log entry 18). -/
def State.loadTrap (s : State) (q : SeqId) (d : Desc) (xs : List (Option Int)) : Option Trap :=
  firstSome (fun x => x.bind fun a => s.readElem q a d.size) xs

/-- An entry taken at issue (R176). -/
def State.takeEntry (s : State) (q : SeqId) (t : Tok) (d : Desc) (map : MapV) (xs : List (Option Int)) : State :=
  let e : LEntry := { id := s.ids, pc := s.pc q, present := false, val := 0, map := map, width := d.fmt.width
                      plan := xs.map (·.map Int.toNat), fill := d.fillVal, got := [], pa := lsPa .l t }
  let c := s.core q.unit
  { s with ids := s.ids + 1 }.setCore q.unit { c with lq := c.lq ++ [e] }

def Core.lqFull (c : Core) : Bool := decide (c.lq.length ≥ 32)

/-- A load whose positions are known: checks, then its entry. -/
def loadEntry (s : State) (q : SeqId) (t : Tok) (d : Desc) (map : MapV) (ps : List LPos) : LsOut :=
  let xs := d.reads ps
  match s.loadTrap q d xs with
  | some tr => .trap tr d.size
  | none => .done (s.takeEntry q t d map xs) (s.after q) true

/-- The origin of an access (R174). -/
def State.origin (s : State) (q : SeqId) (a : Nat) (rank : Nat) : Pt := originOf (s.getA q a) (s.getA q (a + 1)) rank

/-- A load of a window (R174, R175, R180). -/
def windowLoad (t : Tok) (a : BitVec 4) (n : BitVec 10) (s : State) (step : SeqId → Desc → Int × Int) : Out :=
  lsRun .l t s fun q =>
    if (s.core q.unit).lqFull then .stall
    else match s.desc q n.toNat with
      | .error tr => .trap tr 8
      | .ok d =>
        let o := s.origin q a.toNat d.rank
        let st := step q d
        loadEntry s q t d (d.windowMap o st) ((d.window o st).map fun c => some (c, d.addr c))

/-- The steps that a register gives (R180, R185). -/
def stepsOf (w : Word) : Int × Int := (signed 32 w.toNat, signed 32 (w.toNat / 2 ^ 32))

def execLd (tok : Tok) (a : BitVec 4) (desc : BitVec 10) (s : State) : Out := windowLoad tok a desc s fun _ d => d.unitSteps

def execLds (tok : Tok) (a b : BitVec 4) (desc : BitVec 10) (s : State) : Out :=
  windowLoad tok a desc s fun q _ => stepsOf (s.getA q b.toNat)

/-- The words of the lists of R181 at an address: an index for each position, or entries for each row. -/
def Desc.indexWords (d : Desc) (a : Nat) : List (Nat × Nat) := listWords a d.n 4 [(0, 4)]
def Desc.rowWords (d : Desc) (a : Nat) : List (Nat × Nat) := listWords a (d.n / 2 ^ d.lw) 8 [(0, 8)]
def Desc.ptrWords (d : Desc) (a : Nat) : List (Nat × Nat) := listWords a (d.n / 2 ^ d.lw) 16 [(0, 8), (8, 4), (12, 4)]

/-- A list word lies where an earlier load of L has yet to read (R289, R294). -/
def State.owedWords (s : State) (q : SeqId) (ws : List (Nat × Nat)) : Bool :=
  let lq := (s.core q.unit).lq.filter fun e => !e.present
  !lq.isEmpty && ws.any fun w => owedIn lq w.1 w.2

/-- A gather: the list is read whole, then the elements (R181). -/
def gather (t : Tok) (b : BitVec 4) (n : BitVec 10) (s : State) (bad : Desc → Bool) (words : Desc → Nat → List (Nat × Nat))
    (ps : SeqId → Desc → Nat → List (Pt × Int)) : Out :=
  lsRun .l t s fun q =>
    if (s.core q.unit).lqFull then .stall
    else match s.desc q n.toNat with
      | .error tr => .trap tr 8
      | .ok d =>
        let list := (s.getA q b.toNat).toNat
        if bad d then .trap { code := tcOpnd } 8
        else match s.listCheck q (words d list) with
          | some (tr, sz) => .trap tr sz
          | none => if s.owedWords q (words d list) then .stall else
            let xs := ps q d list
            loadEntry s q t d (d.listMap (xs.map fun x => Pt.coord x.1)) (xs.map some)

def execLdi (tok : Tok) (a b : BitVec 4) (desc : BitVec 10) (ix : BitVec 2) (s : State) : Out :=
  gather tok b desc s (fun d => decide (ix.toNat ≥ d.rank)) Desc.indexWords fun q d list =>
    (s.indexed q d (s.origin q a.toNat d.rank) list ix.toNat).map fun c => (c, d.addr c)

def execLgb (tok : Tok) (a b : BitVec 4) (desc : BitVec 10) (s : State) : Out :=
  gather tok b desc s (fun d => d.ra == d.qa) Desc.rowWords fun q d list =>
    (s.blocked q d (s.origin q a.toNat d.rank) list 8 0).map fun c => (c, d.addr c)

def execLrrd (tok : Tok) (a b : BitVec 4) (desc : BitVec 10) (s : State) : Out :=
  gather tok b desc s (fun d => d.ra == d.qa) Desc.ptrWords fun q d list =>
    (s.blocked q d (s.origin q a.toNat d.rank) list 16 8).mapIdx fun j c =>
      (c, (s.read q (list + 16 * (j >>> d.lw)) 8 : Int) + (d.size : Int) * ((j % 2 ^ d.lw : Nat) : Int))

-- Fibres (R182 to R184)

def Core.cursor (c : Core) (n : Nat) : Fibre := sget .closed c.fb n
def State.setCursor (s : State) (q : SeqId) (n : Nat) (f : Fibre) : State :=
  let c := s.core q.unit
  s.setCore q.unit { c with fb := sset c.fb n f }

/-- A cursor from a header; none where R183 refuses it. DEDUCED, unsafe (log entry 40). -/
def fibreOf (ws : List Word) (desc rank : Nat) : Option Fibre :=
  let w (i : Nat) : Nat := (ws.getD i 0).toNat
  let fa := field (w 2) 32 2
  let cnt := field (w 2) 0 32
  if field (w 2) 34 30 = 0 ∧ w 5 = 0 ∧ w 6 = 0 ∧ w 7 = 0 ∧ fa < rank then
    some { st := if cnt = 0 then 2 else 1, desc := desc, idx := w 0, val := w 1, cnt := cnt, fa := fa
           o := ⟨BitVec.ofNat 32 (w 3), BitVec.ofNat 32 (w 3 / 2 ^ 32), BitVec.ofNat 32 (w 4), BitVec.ofNat 32 (w 4 / 2 ^ 32)⟩, pos := 0 }
  else none

def execFbopen (tok : Tok) (fb : BitVec 3) (b : BitVec 4) (desc : BitVec 10) (s : State) : Out :=
  lsRun .l tok s fun q =>
    let ea := (s.getA q b.toNat).toNat
    match s.recCheck q ea 64 with
    | some tr => .trap tr 8
    | none => match s.desc q desc.toNat with
      | .error tr => .trap tr 8
      | .ok d => match fibreOf (s.words q ea 8) desc.toNat d.rank with
        | none => .trap { code := tcOpnd } 8
        | some f => if s.owedWords q [(ea, 64)] then .stall else .done (s.setCursor q fb.toNat f) (s.after q) false

/-- The positions of an entry of a fibre (R183): those past its end are void. -/
def State.fibrePos (s : State) (q : SeqId) (f : Fibre) (d : Desc) : List LPos :=
  (List.range d.n).map fun j =>
    let k := f.pos + j
    if f.st = 1 ∧ k < f.cnt then
      let o : Pt := Q4.mk' fun a => (f.o.get a).toInt
      some (o.set f.fa (signed 32 (s.read q (f.idx + 4 * k) 4)), (f.val : Int) + (k : Int) * (d.size : Int))
    else none

/-- DEDUCED, unsafe (log entry 26). -/
def execFbnext (tok : Tok) (fb : BitVec 3) (s : State) : Out :=
  lsRun .l tok s fun q =>
    let c := s.core q.unit
    let f := c.cursor fb.toNat
    if f.st = 0 then .trap { code := tcFibre } 8
    else if c.lqFull then .stall
    else match s.desc q f.desc with
      | .error tr => .trap tr 8
      | .ok d =>
        let cnt := if f.st = 1 then min d.n (f.cnt - f.pos) else 0
        match s.listCheck q (listWords (f.idx + 4 * f.pos) cnt 4 [(0, 4)]) with
        | some (tr, sz) => .trap tr sz
        | none => if s.owedWords q (listWords (f.idx + 4 * f.pos) cnt 4 [(0, 4)]) then .stall else
          let ps := s.fibrePos q f d
          let cs := ps.map fun p => match p with
            | some x => Pt.coord x.1
            | none => voidCoord
          let f' := if f.st = 1 then { f with pos := f.pos + d.n, st := if f.pos + d.n ≥ f.cnt then 2 else 1 } else f
          match loadEntry s q tok d (d.listMap cs) ps with
          | .done s' p later => .done (s'.setCursor q fb.toNat f') p later
          | o => o

def execFbend (tok : Tok) (fb : BitVec 3) (slot : BitVec 3) (line : BitVec 13) (s : State) : Out :=
  lsRun .l tok s fun q =>
    let f := (s.core q.unit).cursor fb.toNat
    let pc := s.pc q
    if f.st = 0 then .trap { code := tcFibre } 8
    else .done s (if f.st = 2 then .target (branchTarget pc slot line) pc else s.after q) false

def execFbclose (tok : Tok) (fb : BitVec 3) (s : State) : Out :=
  lsRun .l tok s fun q => .done (s.setCursor q fb.toNat .closed) (s.after q) false

-- Markers, fences, flips and registers

/-- LMARK (R190): its count-th use waits for the count-th SMARK of the same id. -/
def execLmark (tok : Tok) (m : BitVec 4) (s : State) : Out :=
  lsRun .l tok s fun q =>
    let c := s.core q.unit
    let k := sget 0 c.lmark m.toNat
    if c.smarks m.toNat ≤ k then .stall
    else .done (s.setCore q.unit { c with lmark := sset c.lmark m.toNat (k + 1) }) (s.after q) false

def execLOwne (tok : Tok) (a : BitVec 4) (cnt : BitVec 8) (s : State) : Out := flipLs .l tok a cnt true s
def execLOwnx (tok : Tok) (a : BitVec 4) (cnt : BitVec 8) (s : State) : Out := flipLs .l tok a cnt false s
def execLFence (tok : Tok) (scope : BitVec 3) (s : State) : Out := fenceLs .l tok scope s
def execLaadd (tok : Tok) (a b : BitVec 4) (val : BitVec 14) (s : State) : Out := aaddLs .l tok a b val s
def execLaaddLo (tok : Tok) (a b : BitVec 4) (val : BitVec 14) (s : State) : Out := aaddLoLs .l tok a b val s
def execLaaddHi (tok : Tok) (a b : BitVec 4) (val : BitVec 14) (s : State) : Out := aaddHiLs .l tok a b val s
def execLali (tok : Tok) (a : BitVec 4) (imm : BitVec 16) (s : State) : Out := aliLs .l tok a imm s
def execLak (tok : Tok) (a b : BitVec 4) (imm : BitVec 16) (s : State) : Out := akLs .l tok a b imm s
def execLbr (tok : Tok) (a b : BitVec 4) (slot : BitVec 3) (line : BitVec 13) (s : State) : Out := brLs .l tok a b slot line s
def execLloop (tok : Tok) (a : BitVec 4) (slot : BitVec 3) (line : BitVec 13) (s : State) : Out := loopLs .l tok a slot line s

end Sys2Proof.Machine
end

