-- ==== Sys2Proof/Machine/Agents.lean ====
section
/-! DEFINITION. Who moves: the agenda, what a sequencer's turn is, errors of the memory arrays (R392), and the placing of one
instruction for the next step. -/

namespace Sys2Proof.Machine

open Sys2Proof

/-- Time passes, and the next turn is taken from the agenda, or from the schedule when it is empty.
DESIGN CHOICE, unsafe (log entry 1). DEDUCED, unsafe (log entry 23). -/
def State.advance (s : State) : Turn × State :=
  let s' := { s with tick := s.tick + 1, clock := s.clock + Config.elapsed s.tick }
  match s.agenda with
  | t :: rest => (t, { s' with agenda := rest })
  | [] => (.seq (Config.schedule s.tick), s')

/-- What a sequencer's turn is: an instruction or a fetch to run in a state, or no more than that state. -/
inductive Move where
  | run (i : Instr) (s : State)
  | stay (s : State)
deriving DecidableEq, Repr

/-- The turn of a sequencer. Where it stands at a fetched slot, a pending engine fault comes first (R319), then a breakpoint
(R327), then the instruction, or ILLEGAL_INST for a word that is none (R135, R136), for which no token is waited for. Elsewhere it fetches
(R125). DEDUCED, unsafe (log entry 90).
DESIGN CHOICE, unsafe (log entry 1). -/
def State.chooseSeq (s : State) (q : SeqId) : Move :=
  let s := { s with cur := q }
  let c := s.ctl q
  -- a handler that moves ends the cycle of the stop
  let s := if c.mode == .handler && q.kind == .k && c.joint.isSome then s.setCtl q { c with joint := none } else s
  let n := strmNo q.kind
  if c.stepDone && c.mode == .normal then .run .stepStop s
  else if c.holds n || (s.phase q).done then .stay s
  else match s.pos q with
    | .at a =>
      if isCtl q.kind && c.mode == .normal && !c.faults.isEmpty then .run .engineTrap s
      else if c.breaks n a then .run .breakStop s
      -- a page that has ceased to translate takes its line out of the fetch buffer (R385, R389)
      else if (s.homeNow (modOf q.unit) (s.asidOf q) a).isNone then
        .stay (s.ownTrap q { code := tcPage, addr := a / 32 * 32, info := 3 } (BitVec.ofNat 64 a))
      else match s.instrAt q a with
        | some i => .run i s
        | none => .stay (s.ownTrap q { code := tcIllegalInst } (BitVec.ofNat 64 a))
    | _ => .run .fetch s

/-- The list words that an instruction of L or S reads under its descriptor. -/
def State.listRead (s : State) (q : SeqId) (n : Nat) (words : Desc → List (Nat × Nat)) : List (Nat × Nat) :=
  match s.desc q n with
  | .ok d => words d
  | .error _ => []

/-- The ranges that an instruction which completes has read as loads of its stream (R291, R302). -/
def State.readsOf (s : State) (q : SeqId) (i : Instr) : List (Nat × Nat) :=
  match i with
  | .kld _ a imm => [(s.kea q a imm, 8)]
  | .kldw _ a imm => [(s.kea q a imm, 4)]
  | .mnest a => [((s.getK q a).toNat, 56)]
  | .mtpb a | .ixdef a | .bgenq _ a _ => [((s.getK q a).toNat, 64)]
  | .lak _ _ b imm | .sak _ _ b imm => [((s.getA q b.toNat + sext16 imm).toNat, 8)]
  | .fbopen _ _ b _ => [((s.getA q b.toNat).toNat, 64)]
  | .ldi _ _ b n _ | .sti _ _ b n _ => s.listRead q n.toNat fun d => d.indexWords (s.getA q b.toNat).toNat
  | .lgb _ _ b n | .ssb _ _ b n => s.listRead q n.toNat fun d => d.rowWords (s.getA q b.toNat).toNat
  | .lrrd _ _ b n => s.listRead q n.toNat fun d => d.ptrWords (s.getA q b.toNat).toNat
  | .fbnext _ fb =>
    let f := (s.core q.unit).cursor fb.toNat
    s.listRead q f.desc fun d => listWords (f.idx + 4 * f.pos) (if f.st = 1 then min d.n (f.cnt - f.pos) else 0) 4 [(0, 4)]
  | _ => []

/-- The stores of which an instruction that completes has been told: by the SMARK that it pairs with, by the earlier operations on its
semaphore, or by the arrivals at its barrier (R302, R303). -/
def State.toldBy (s : State) (q : SeqId) (i : Instr) : List Nat :=
  match i with
  | .lmark _ m => (sget [] (s.core q.unit).smark m.toNat).getD (sget 0 (s.core q.unit).lmark m.toNat) []
  | .semadd _ a _ | .semsub _ a _ | .semcas _ a _ | .semwait _ a _ => match s.semWord q (s.getK q a).toNat with
    | .ok (qd, n) => semTells (sget [] (s.quad qd).semRel n) q
    | .error _ => []
  | .bwait _ a _ => match barWord (s.getK q a) with
    | some (lvl, n) => (s.bar (s.barName q lvl n)).told
    | none => []
  | _ => []

/-- The stores of which the tokens tell that a core lost from `c` to `d` (R302). -/
def Core.popped (c d : Core) : List Nat :=
  (List.range 10).flatMap fun n => if d.tokens n < c.tokens n then (sget [] c.slu n).headD [] else []

/-- The scope of the fence that an instruction is. -/
def fenceScope : Instr → Nat
  | .fence sc | .lFence _ sc | .sFence _ sc => sc.toNat + 1
  | _ => 0

/-- The pod after an instruction of `q` that led from `s` to `r`: if it completed, its stream has observed what it read and what it was told
of, fences count, and what earlier loads of L have read of the same locations stands (R289, R302 to R304). DEDUCED, unsafe (log entries 19, 82). -/
def State.observed (s r : State) (q : SeqId) (i : Instr) : State :=
  if r.pos q == s.pos q || (r.ctl q).mode != (s.ctl q).mode then r
  else
    let rs := s.readsOf q i
    let c := r.core q.unit
    let r := if q.kind == .l && !rs.isEmpty && !c.lq.isEmpty then r.setCore q.unit (c.fixLoads (s.core q.unit).lq.length rs) else r
    if r.transit.isEmpty then r
    else
      let r := r.mark q ((s.core q.unit).popped c ++ s.toldBy q i)
      let r := if rs.isEmpty then r else r.observe q fun st => rs.any fun x => st.inRange x.1 x.2
      if fenceScope i = 0 then r else r.fenced q (fenceScope i)

/-- The core of a stream has stopped in this cycle for traps of other streams, and its handler has not begun (R313). -/
def State.joins (s : State) (q : SeqId) : Bool :=
  let c := s.ctl q
  c.mode != .normal && decide (q.unit % 8 < 4) && field c.frame.cause.toNat (16 * strmNo q.kind) 16 == 0 && (match c.joint with
    | some (t, _, _) => t == s.clock
    | none => false)

/-- The core as it stood in that cycle before the stop, to find whether the stream traps in it too. -/
def State.unstopped (s : State) (q : SeqId) : State :=
  let c := s.ctl q
  let p := match c.joint with
    | some (_, p, _) => p
    | none => c.pos
  s.setCtl q { c with mode := .normal, joint := none, pos := p, k := sset c.k 31 c.frame.ksav, faults := [], frame := { c.frame with tvec := 1 } }

/-- The trap of a stream in the cycle of another's stop joins the frame: CAUSE and its resume address; ADDR and INFO are those of the
first in the order K, L, X, S (R313). `r` is the core after the stream's turn in that cycle; a turn without a trap leaves no trace,
and one of K ends the cycle. DEDUCED, unsafe (log entry 81). -/
def State.join (s : State) (q : SeqId) (r : State) : State :=
  let c := s.ctl q
  let d := r.ctl q
  let n := strmNo q.kind
  if d.mode == .normal then if n = 0 then s.setCtl q { c with joint := none } else s
  else
    let first := (List.range n).all fun i => field c.frame.cause.toNat (16 * i) 16 == 0
    let f := { c.frame with cause := c.frame.cause ||| d.frame.cause, xl := d.frame.xl, xr := d.frame.xr
                            addr := if first then d.frame.addr else c.frame.addr, info := if first then d.frame.info else c.frame.info }
    let f := if n = 0 then { f with kpc := d.frame.kpc } else if n = 1 then { f with lpc := d.frame.lpc }
      else if n = 2 then { f with xpc := d.frame.xpc } else { f with spc := d.frame.spc }
    let r := match c.joint with
      | some (_, _, some n) => if first then
          r.recode (modOf q.unit) (srcOf { q with kind := .k }) n (field d.frame.cause.toNat (16 * strmNo q.kind) 16) else r
      | _ => r
    r.setCtl q { c with frame := f, xst := d.xst, brkPass := d.brkPass }

/-- An uncorrectable error strikes the scratchpad word or memory line at a key; no read has found it yet (R392). DEDUCED, unsafe (log entry 41). -/
def State.upset (s : State) (key : Nat) : State :=
  let k := if key < 2 ^ 42 then key / 8 * 8 else key / 64 * 64
  if s.latent.contains k || s.bad.contains k then s else { s with latent := k :: s.latent }

/-- A corrected error of class `cls` in stack or scratchpad `src`: it is counted, and posts at most one ECCCOR a second (R392,
R393). DEDUCED, unsafe (log entry 41). -/
def State.corrected (s : State) (md asid cls src : Nat) : State :=
  let s := s.count md (cls % 4) 1
  let h := s.hub md
  let key := src * 4 + cls % 4
  let e := sget (0, 0) h.ecc key
  if e.2 = 0 ∨ s.clock + 1 ≥ e.2 + 10 ^ 9 then
    (s.setHub md { h with ecc := sset h.ecc key (0, s.clock + 1) }).post md 0x101 (some asid) (srcHub 5) (cls % 4) (e.1 + 1)
  else s.setHub md { h with ecc := sset h.ecc key (e.1 + 1, e.2) }

/-- The sequencer that issues a word of a stream where the table alone is known (R131). DEDUCED, safe (log entry 5). -/
def placeSeq : Stream → Instr → SeqId
  | .k, .launch _ _ _ | .k, .lsqdef _ | .k, .lsqgo _ => { unit := 4, kind := .qf }
  | .k, .bclose _ _ _ | .k, .brule _ _ _ => { unit := 4, kind := .qu }
  | .k, _ => { unit := 0, kind := .k }
  | .l, _ => { unit := 0, kind := .l }
  | .x, _ => { unit := 0, kind := .x }
  | .s, _ => { unit := 0, kind := .s }

/-- The virtual address of the placed line. DEDUCED, safe (log entry 5). -/
def placeBase : Nat := 2 ^ 16

/-- The header of a line with one instruction of `n` extension words in slot 1 (R117). DEDUCED, safe (log entry 5). -/
def placeHeader (q : SeqId) (n : Nat) : Nat :=
  tagOf q.kind + (List.range n).foldl (fun a i => a + 5 * 2 ^ (4 * (i + 1))) 0

/-- The pod with one line that holds the instruction of a table word, on an executable page of a running context, and with
the sequencer that takes it standing at its slot: module 0 is READY, and a one-quad group of context 1 holds quad 0. DEDUCED, safe (log entry 5). -/
def State.placeWord (s : State) (nbits w : Nat) : State :=
  let ws := tableWords nbits w
  let q : SeqId := match decodeAny (ws.headD 0) ws.tail with
    | some (st, i) => placeSeq st i
    | none => { unit := 0, kind := .k }
  let page : Page := { pageOfWord placeBase 0x50 0 with fw := true }
  let kern : Kernel := { Kernel.none with st := .active, base := placeBase, lines := 1 }
  let ctx : Ctx := { s.ctx 0 1 with st := .running, pages := [page], kernels := [(1, kern)], nextKernel := 2 }
  let grp : Group := { Group.none with asid := 1, handle := 1, kernel := 1, kw := 1 + 2 ^ 32, nq := 1, st := .running }
  let line := (placeHeader q ws.tail.length :: ws.map BitVec.toNat).flatMap (leBytes 4)
  let s := { s with mem := memWrite s.mem (cellsOf (pageKey 0 1 placeBase) line), agenda := .seq q :: s.agenda }
  let s := s.setHub 0 { s.hub 0 with power := .ready }
  let s := (s.setCtx 0 1 ctx).setGroup 1 grp
  (s.setQuad 0 { s.quad 0 with grp := 1 }).setPos q (.at (placeBase + 4))

end Sys2Proof.Machine
end

