-- ==== Sys2Proof/Machine/Barge.lean ====
section
/-! DEFINITION. Barge commands: enqueue, copies, transposing copies, atomics and retirement (spec 06, R160 to R165; 14, R337; 12,
R306). -/

namespace Sys2Proof.Machine

open Sys2Proof

/-- A barge command from its record (R160); its enqueue fills in the rest. -/
def bcmdOf (w : List Word) : BCmd :=
  let n (i : Nat) : Nat := (w.getD i 0).toNat
  { seq := 0, enq := default, src := n 0, dst := n 1, rows := field (n 2) 32 32, len := field (n 2) 0 32
    sstr := signed 32 (n 3), dstr := signed 32 (n 3 / 2 ^ 32), aw := bitAt (n 4) 27, aop := field (n 4) 24 3, es := field (n 4) 4 2
    xp := bitAt (n 4) 3, rel := bitAt (n 4) 2, ds := bitAt (n 4) 1, ss := bitAt (n 4) 0, opnd := n 5, cmpv := n 6, desc := none
    nkey := 0, pins := [], st := .queued, order := 0 }

/-- Check 3 of R163, with the requirements of R162, on a record whose destination descriptor is DESC where DV is set; with AOP 0, OPND and CMPV are
zero. DEDUCED, unsafe (log entry 84). -/
def bcmdOk (w : List Word) (ndesc : Nat) : Bool :=
  let m := bcmdOf w
  let w4 := (w.getD 4 0).toNat
  let dv := bitAt w4 6
  decide (field w4 28 36 = 0) && !bitAt w4 23 && w.getD 7 0 == 0 && m.aop != 7 && (m.xp || m.es == 0)
    && (!m.xp || m.len % 2 ^ m.es == 0) && (!dv || decide (field w4 7 16 < ndesc))
    && (if m.aop = 0 then m.opnd == 0 && m.cmpv == 0
        else m.ss && !m.ds && !m.xp && !dv && !m.rel && m.rows == 1 && m.len == (if m.aw then 8 else 4) && m.dst % m.len == 0
          && m.src % 8 == 0 && (m.aw || (decide (m.opnd < 2 ^ 32) && decide (m.cmpv < 2 ^ 32))) && (m.cmpv == 0 || m.aop == 6))

/-- Causes 1 to 4 of R151 over every byte of a range: the first failing byte and its cause. They are the same over each
512 KiB. -/
def State.spanCause (s : State) (q : SeqId) (r : Range) : Option Trap :=
  if r.2 = 0 then none
  else if r.1 < 0 then some { code := tcAddr, addr := wrapNat 64 r.1, info := 1 }
  else
    let a := r.1.toNat
    let pts := a :: (span (a / 2 ^ 19 + 1) ((a + r.2 - 1) / 2 ^ 19 - a / 2 ^ 19)).map (· * 2 ^ 19)
    firstSome (fun x => (s.cause14 q x).map fun c => { code := tcAddr, addr := x % 2 ^ 64, info := c }) pts

/-- Rows as ranges of natural addresses, all of them below 2^52. -/
def rowsOk (rs : List Range) : Bool := rs.all fun r => decide (0 ≤ r.1) && decide (r.1 + r.2 ≤ 2 ^ 52)
def natRows (rs : List Range) : List (Nat × Nat) := rs.map fun r => (r.1.toNat, r.2)

/-- The window check of a virtual side (R163, check 5). -/
def State.sideTrap (s : State) (q : SeqId) (rs : List Range) (rd wr : Bool) : Option Trap :=
  let code := s.windowCode (modOf q.unit) (s.asidOf q) (natRows rs) (rowsOk rs) rd wr
  let a : Nat := match rs with
    | r :: _ => wrapNat 64 r.1
    | [] => 0
  if code = 0 then none else some { code := if code = 2 then tcWin else tcPage, addr := a, info := code }

/-- The checks 3 to 7 of R163 on a record that has been read; within a check the source comes before the destination. DEDUCED, unsafe (log
entries 18, 93). -/
def State.bgenqTrap (s : State) (q : SeqId) (w : List Word) : Option Trap :=
  let m := bcmdOf w
  let at' := m.aop ≠ 0
  if !bcmdOk w (s.grpOf q).ndesc then some { code := tcOpnd }
  else
    let scr := (if m.ss then m.srcRows else []) ++ (if m.ds then m.dstRows else [])
    match firstSome (s.spanCause q) scr with
    | some t => some t
    | none =>
      match if m.ss then none else s.sideTrap q m.srcRows true false with
      | some t => some t
      | none =>
        match if m.ds then none else s.sideTrap q m.dstRows at' true with
        | some t => some t
        | none =>
          let place := match s.homeNow (modOf q.unit) (s.asidOf q) m.dst with
            | some (_, p) => p.ap
            | none => 0
          if at' ∧ 2 ≤ m.aop ∧ m.aop ≤ 4 ∧ place = 2 then some { code := tcOpnd }
          else if m.aop = 0 ∧ m.ss = m.ds ∧ m.rows * m.len > 65536 ∧ anyMeets m.srcRows m.dstRows then some { code := tcOverlap }
          else none

/-- The pages that check 5 examined (R163). -/
def State.pinsOf (s : State) (md asid : Nat) (m : BCmd) : List (Nat × Nat) :=
  s.pinsFor md asid ((if m.ss then [] else natRows m.srcRows) ++ (if m.ds then [] else natRows m.dstRows))

/-- The gauge id, format code and FILL of a descriptor (R106, R163, R392). -/
def descPart (ws : List Word) : Nat × Nat × Nat :=
  let w5 := (ws.getD 5 0).toNat
  (field w5 16 20, field w5 36 6, field (ws.getD 6 0).toNat 0 32)

/-- The command appended to its chain (R163). -/
def State.enqueue (s : State) (q : SeqId) (b : Nat) (w : List Word) : Nat × State :=
  let c := s.ctxOf q
  let ch := c.chain (bargeKey q b)
  let w4 := (w.getD 4 0).toNat
  let m := bcmdOf w
  let m := { m with
    seq := ch.last + 1, enq := q, order := s.ids, pins := s.pinsOf (modOf q.unit) (s.asidOf q) m
    nkey := if q.kind = SeqKind.k then (s.core q.unit).nkey else 0
    desc := if bitAt w4 6 then some (descPart ((s.grpOf q).descWords (field w4 7 16))) else none }
  let s := { s with ids := s.ids + 1 }.pin (s.asidOf q) m.pins
  (m.seq, s.setCtxOf q ((s.ctxOf q).setChain (bargeKey q b) { ch with last := m.seq, cmds := ch.cmds ++ [m] }))

def execBgenq (d a b : BitVec 5) (s : State) : Out :=
  onK s fun q =>
    let n := (s.getK q b).toNat
    let ea := (s.getK q a).toNat
    if n ≥ 16 then s.trap q { code := tcOpnd }
    else if ((s.ctxOf q).chain (bargeKey q n)).cmds.length ≥ 1024 then s
    else match s.recCheck q ea 64 with
      | some t => s.trapRead q t ea 64
      | none => if s.ownOpen q ea 64 then s else
        let w := s.words q ea 8
        match s.bgenqTrap q w with
        | some t => s.trap q t
        | none =>
          let r := s.enqueue q n w
          r.2.finK q d (BitVec.ofNat 64 r.1)

-- Running (R161, R162, R392) ------------------------------------------------------------------------------------------------------

/-- Rows of bytes read; none where a byte comes from a bad line under FILL. -/
abbrev RowData := List (List (Option Byte))

/-- A read of ranges of a copy's source, in order, up to the first fault. -/
def State.readRanges (s : State) (md asid : Nat) (m : BCmd) (rs : List (Nat × Nat)) : State × Except Trap RowData :=
  rs.foldl (fun r x =>
    match r.2 with
    | .error _ => r
    | .ok acc =>
      if m.ss then
        match r.1.engRead md x.1 x.2 with
        | (s, .ok bs) => (s, .ok (acc ++ [bs.map some]))
        | (s, .error t) => (s, .error t)
      else match r.1.pageRead md asid x.1 x.2 with
        | (s, .ok bs) => (s, .ok (acc ++ [bs]))
        | (s, .error t) => (s, .error t)) (s, .ok [])

/-- The 8-byte pieces of a range (R288). -/
def wordPieces (a n : Nat) : List (Nat × Nat) := (wordsIn a n).map fun w => (max a w, min (a + n) (w + 8) - max a w)

/-- The source in pieces of at most 8 aligned bytes, and its rows put together again. -/
def BCmd.pieces (m : BCmd) : List (Nat × Nat) := (natRows m.srcRows).flatMap fun r => wordPieces r.1 r.2
def BCmd.rowsOf (m : BCmd) (got : RowData) : RowData :=
  (List.range m.rows).map fun i => (got.flatten.drop (i * m.len)).take m.len

/-- The rows of the destination: those of the source, or element j of every row in turn (R161). -/
def BCmd.arrange (m : BCmd) (rows : RowData) : RowData :=
  if m.xp then (List.range (m.len / 2 ^ m.es)).map fun j => rows.flatMap fun r => (r.drop (j * 2 ^ m.es)).take (2 ^ m.es)
  else rows

/-- A byte that the fill pattern gives at a destination address (R392). -/
def BCmd.fillByte (m : BCmd) (a : Nat) : Byte :=
  match m.desc with
  | none => 0
  | some (_, fmt, fill) => match fmtOfCode fmt with
    | some f => BitVec.ofNat 8 (fill % 2 ^ f.width / 256 ^ (a % (f.width / 8)))
    | none => 0

/-- The destination rows with their addresses, the fill pattern in place. DEDUCED, unsafe (log entry 34). -/
def BCmd.outRows (m : BCmd) (rows : RowData) : List (Nat × List Byte) :=
  (m.dstRows.zip (m.arrange rows)).map fun x =>
    let a := x.1.1.toNat
    (a, x.2.mapIdx fun i b => b.getD (m.fillByte (a + i)))

/-- The element locations that a write of rows covers wholly, by one row or by several together, each once. -/
def rowElems (sz : Nat) (rows : List (Nat × Nat)) : List Nat :=
  let met := (rows.flatMap fun x => if x.2 = 0 then [] else span (x.1 / sz) ((x.1 + x.2 - 1) / sz - x.1 / sz + 1)).eraseDups.map (· * sz)
  met.filter fun a => (span a sz).all fun b => rows.any fun x => decide (x.1 ≤ b) && decide (b < x.1 + x.2)

/-- The gauge partial of a copy (R101, R102): the final values of the elements it wrote; what `lost` lines dropped, and words with an
error kept, it did not write. One that wrote no whole element sends none. DEDUCED, unsafe (log entries 34, 79). -/
def State.copyPartial (s : State) (md asid : Nat) (m : BCmd) (lost : List Nat) : State :=
  match m.desc with
  | none => s
  | some (gid, fmt, _) => match fmtOfCode fmt with
    | none => s
    | some f =>
      let sz := f.width / 8
      let els := (rowElems sz (natRows m.dstRows)).filter fun a => !(if m.ds then s.bad.contains (a / 8 * 8) else lost.contains (a / 64 * 64))
      if gid = 0 ∨ els.isEmpty then s
      else s.mergeNow md asid gid (partialOf f (els.map fun a => memNat s.mem (if m.ds then a else s.vkey md asid a) sz))

/-- An address of the destination on a module that is gone or out of reach (R401). -/
def State.destLost (s : State) (md asid : Nat) (m : BCmd) (out : List (Nat × List Byte)) : Option Nat :=
  if m.ds then (out.find? fun x => !s.present (modOf (x.1 / 2 ^ 20)) || !s.reachable md (modOf (x.1 / 2 ^ 20))).map (·.1)
  else firstSome (fun x => firstSome (fun l => match s.home md asid (max x.1 l) with
    | some (h, _) => if s.reachable md h then none else some (max x.1 l)
    | none => some (max x.1 l)) (linesIn x.1 x.2.length)) out

/-- The source is read: the bytes that go to the destination, and the lines that drop theirs (R392). -/
def State.beginWrite (s : State) (md asid : Nat) (m : BCmd) (rows : RowData) : State × Except Trap (List (Nat × Byte) × List Nat) :=
  let out := m.outRows rows
  let cells := out.flatMap fun x => cellsOf x.1 x.2
  match s.destLost md asid m out with
  | some a => (s, .error { code := tcPoison, addr := a })
  | none =>
    if m.ds then (s, .ok (cells, []))
    else
      let r := s.dropLines md asid (out.map fun x => (x.1, x.2.length))
      (r.1, .ok (cells.filter fun c => !r.2.contains (c.1 / 64 * 64), r.2))

/-- Bytes of the destination are written. -/
def State.writeCells (s : State) (md asid : Nat) (m : BCmd) (cells : List (Nat × Byte)) : State × Option Trap :=
  if m.ds then s.engWrite cells else (s.write (cells.map fun c => (s.vkey md asid c.1, c.2)), none)

/-- The rest of a copy whose source is read, up to its end. -/
def State.copyRest (s : State) (md asid : Nat) (m : BCmd) (left : List (Nat × Byte)) (lost : List Nat) : State × Option Trap :=
  let r := s.writeCells md asid m left
  (r.1.copyPartial md asid m lost, r.2)

/-- A copy from what `r` has read of its source, up to its end. -/
def copyOn (md asid : Nat) (m : BCmd) (r : State × Except Trap RowData) : State × Option Trap :=
  match r with
  | (s, .error t) => (s, some t)
  | (s, .ok rows) => match s.beginWrite md asid m rows with
    | (s, .error t) => (s, some t)
    | (s, .ok (cells, lost)) => s.copyRest md asid m cells lost

/-- A copy (R161): the whole source is read before any byte is written. DEDUCED, unsafe (log entries 34, 35). -/
def State.runCopy (s : State) (md asid : Nat) (m : BCmd) : State × Option Trap :=
  copyOn md asid m (s.readRanges md asid m (natRows m.srcRows))

/-- A copy that has read some pieces of its source goes on to its end. -/
def State.copyFrom (s : State) (md asid : Nat) (m : BCmd) (got : RowData) : State × Option Trap :=
  copyOn md asid m (match s.readRanges md asid m (m.pieces.drop got.length) with
    | (s, .ok more) => (s, .ok (m.rowsOf (got ++ more)))
    | (s, .error t) => (s, .error t))

/-- The new value of an atomic (R162). -/
def BCmd.combine (m : BCmd) (old : Nat) : Nat :=
  (match m.aop with
  | 1 => old + m.opnd
  | 2 => old &&& m.opnd
  | 3 => old ||| m.opnd
  | 4 => old ^^^ m.opnd
  | 5 => m.opnd
  | _ => if old = m.cmpv then m.opnd else old) % 256 ^ m.len

/-- An integer atomic (R162, R306): read, combined and written as one action at its place; a bad line makes a fault under either
policy. DEDUCED, unsafe (log entries 31, 34). -/
def State.runAtomic (s : State) (md asid : Nat) (m : BCmd) : State × Option Trap :=
  match s.home md asid m.dst with
  | none => (s, some { code := tcPage, addr := m.dst })
  | some (h, _) =>
    if !s.reachable md h then (s, some { code := tcPoison, addr := m.dst })
    else
      let t := s.touchLine md asid m.dst
      if t.2 then (t.1, some { code := tcPoison, addr := m.dst / 64 * 64 })
      else
        let s := t.1
        let key := s.vkey md asid m.dst
        let old := memNat s.mem key m.len
        let s := s.write (cellsOf key (leBytes m.len (m.combine old)))
        s.engWrite (cellsOf m.src (leBytes 8 old))

/-- Commands of a chain that have not reached their end. -/
def setCmd (cmds : List BCmd) (seq : Nat) (st : CmdState) : List BCmd := cmds.map fun m => if m.seq = seq then { m with st := st } else m

/-- A command reaches a state of its life (R337). -/
def State.setCmdSt (s : State) (md asid key : Nat) (m : BCmd) (st : CmdState) : State :=
  let c := s.ctx md asid
  let ch := c.chain key
  s.setCtx md asid (c.setChain key { ch with cmds := setCmd ch.cmds m.seq st })

/-- A command has reached its end, with its fault where it met one (R319, R337). -/
def State.endCmd (md asid key : Nat) (m : BCmd) (r : State × Option Trap) : State :=
  match r.2 with
  | none => r.1.setCmdSt md asid key m .done
  | some t => (r.1.setCmdSt md asid key m (.faulted t.code)).engFault m.enq m.seq (key % 16) 0 t

/-- The scratchpad ranges that a command has yet to read or write. -/
def BCmd.rest (m : BCmd) : List Range :=
  match m.st with
  | .reading got => (if m.ss then (m.pieces.drop got.length).map fun p => ((p.1 : Int), p.2) else []) ++ (if m.ds then m.dstRows else [])
  | .writing left _ => if m.ds then left.map fun c => ((c.1 : Int), 1) else []
  | _ => m.claim.rd ++ m.claim.wr

/-- A barge may run a command, whose granules ahead are ENGINE (R36): a queued one once the range checkers clear it (R37), unless its
context is being pre-empted; a running one is finished then too (R323). -/
def State.mayRun (s : State) (md asid : Nat) (m : BCmd) : Bool :=
  let st := (s.ctx md asid).st
  s.allEngine m.rest && (if m.st == .queued then st == .running && s.clear m.claim else m.st.running && (st == .running || st == .yielding))

/-- A command runs to its end. -/
def State.runCmd (s : State) (md asid key : Nat) (m : BCmd) : State :=
  State.endCmd md asid key m (match m.st with
    | .reading got => s.copyFrom md asid m got
    | .writing left lost => s.copyRest md asid m left lost
    | _ => if m.aop = 0 then s.runCopy md asid m else s.runAtomic md asid m)

/-- BARGE_COMMAND_RUN (R337): barge ev.i of C-die ev.j of module ev.md runs the command at place ev.val of the chain of context ev.asid to
its end. DEDUCED, unsafe (log entries 34, 39). -/
def execBargeCommandRun (s : State) : Out :=
  let md := s.ev.md
  let asid := s.ev.asid
  let key := s.ev.j * 16 + s.ev.i
  .next (match ((s.ctx md asid).chain key).cmds[s.ev.val]? with
    | none => s
    | some m => if s.mayRun md asid m then s.runCmd md asid key m else s)

/-- A copy moves on by one piece of at most 8 aligned bytes: it reads its source, then writes its destination (R161, R288, R337). A
context that is killed meanwhile leaves it there (R326). DEDUCED, unsafe (log entry 34). -/
def State.copyMore (s : State) (md asid key seq : Nat) : State :=
  match ((s.ctx md asid).chain key).cmds.find? (·.seq == seq) with
  | none => s
  | some m =>
    if m.aop ≠ 0 ∨ !s.mayRun md asid m then s
    else match m.st with
      | .reading got => match m.pieces[got.length]? with
        | some p => match s.readRanges md asid m [p] with
          | (s, .ok x) => s.setCmdSt md asid key m (.reading (got ++ x))
          | (s, .error t) => State.endCmd md asid key m (s, some t)
        | none => match s.beginWrite md asid m (m.rowsOf got) with
          | (s, .ok (cells, lost)) => s.setCmdSt md asid key m (.writing cells lost)
          | (s, .error t) => State.endCmd md asid key m (s, some t)
      | .writing left lost =>
        let now := left.takeWhile fun c => c.1 / 8 == (left.headD (0, 0)).1 / 8
        if now.length = left.length then State.endCmd md asid key m (s.copyRest md asid m left lost)
        else match s.writeCells md asid m now with
          | (s, none) => s.setCmdSt md asid key m (.writing (left.drop now.length) lost)
          | (s, some t) => State.endCmd md asid key m (((s.copyRest md asid m (left.drop now.length) lost).1), some t)
      | _ => s.setCmdSt md asid key m (.reading [])

/-- BARGE_RETIRE (R164, R337): the first command of the chain, once it is done or faulted, leaves it: its granules return under
REL unless it faulted, its sequence number is written, and its pages are unpinned. -/
def execBargeRetire (s : State) : Out :=
  let md := s.ev.md
  let asid := s.ev.asid
  let key := s.ev.j * 16 + s.ev.i
  let c := s.ctx md asid
  let ch := c.chain key
  match ch.cmds with
  | [] => .next s
  | m :: rest =>
    if m.st.live then .next s
    else
      let s := if m.rel && m.ds && m.st == .done then
          m.dstRows.foldl (fun s r => (granules r.1.toNat r.2).foldl (fun s g => s.setOwner (g * 4096) 1 false) s) s
        else s
      let s := s.setCtx md asid (c.setChain key { seq := m.seq, last := ch.last, cmds := rest })
      .next (s.unpin asid m.pins)

end Sys2Proof.Machine
end

