-- ==== Sys2Proof/Machine/Dot.lean ====
section
/-! DEFINITION. Dot products, numerics profiles and scale-accumulate (spec 02_numbers.md, R64 to R71). -/

namespace Sys2Proof.Machine

open Sys2Proof

/-- A dyadic number m·2^e with a signed m. -/
structure Dy where
  m : Int
  e : Int
deriving DecidableEq, Repr

def Dy.zero : Dy := ⟨0, 0⟩

def Dy.add (a b : Dy) : Dy :=
  if a.m = 0 then b else if b.m = 0 then a
  else
    let e := min a.e b.e
    ⟨a.m * 2 ^ (a.e - e).toNat + b.m * 2 ^ (b.e - e).toNat, e⟩

def Dy.sum (l : List Dy) : Dy := l.foldl Dy.add Dy.zero

/-- floor(log2|t|) of a nonzero dyadic. -/
def Dy.exp (t : Dy) : Int := (t.m.natAbs.log2 : Int) + t.e

def Dy.eq (a b : Dy) : Bool := (Dy.add a ⟨-b.m, b.e⟩).m == 0

/-- floor(t/q)·q for q = 2^k, toward −∞ (R66). -/
def Dy.floorTo (t : Dy) (k : Int) : Dy :=
  if k ≤ t.e then t else ⟨t.m / 2 ^ (k - t.e).toNat, k⟩

def Dy.toVal (t : Dy) : Val := .num (decide (t.m < 0)) t.m.natAbs t.e false

/-- A finite value as a dyadic. -/
def Val.dy : Val → Dy
  | .num n m e _ => ⟨sm n m, e⟩
  | _ => .zero

/-- One profile of R66: G, W (none for EXACT) and whether the accumulator joins INSIDE. -/
structure Profile where
  g : Nat
  w : Option Nat
  inside : Bool
deriving DecidableEq, Repr

/-- Profiles 1 to 6 (R66). -/
def profileOf (prf : Nat) : Option Profile :=
  match prf with
  | 1 => some ⟨1, none, false⟩
  | 2 => some ⟨16, some 27, false⟩
  | 3 => some ⟨32, some 27, false⟩
  | 4 => some ⟨16, some 27, true⟩
  | 5 => some ⟨8, some 50, false⟩
  | 6 => some ⟨16, none, false⟩
  | _ => none

/-- The group size G, taking 16 for profile 0 (R240). -/
def profileG (prf : Nat) : Nat :=
  match profileOf prf with
  | some p => p.g
  | none => 16

/-- `round_f32_sticky(V, s)` of R66: the f32 code and its flags. A zero is +0 here; `frozenDot` gives it R65's sign. -/
def roundF32Sticky (v : Dy) (s : Bool) : Nat × Nat :=
  if !s then
    if v.m = 0 then (0, 0) else convertIeee .f32 v.toVal .rne 0
  else
    -- V + ε: one unit of a far finer grid, open at both ends
    let m := v.m.natAbs * 2 ^ 64
    let x : Val := if v.m < 0 then .num true (m - 1) (v.e - 64) true else .num false m (v.e - 64) true
    convertIeee .f32 x .rne 0

/-- The special values of R65, settled before any summation: a result with its flags, or none when every term is finite.
`prods` holds each factor pair's exact product with its flags; `c` is the accumulator. -/
def dotSpecial (c : Val) (prods : List (Val × Nat)) : Option (Nat × Nat) :=
  let nv := prods.foldl (fun f p => f ||| p.2) (if c.isSnan then fNV else 0)
  if c.isNan || prods.any (fun p => p.1.isNan) then some (nanCode .f32, nv)
  else
    let infs := (c :: prods.map (·.1)).filter Val.isInf
    if infs.any Val.isNeg && infs.any (fun v => !v.isNeg) then some (nanCode .f32, fNV)
    else match infs with
      | v :: _ => some (infCode .f32 v.isNeg, 0)
      | [] => none

/-- One group of `frozen_dot` (R66): the accumulator and the group's terms to the new accumulator and its flags. An
accumulator that has overflowed to ±∞ stays as it is. -/
def dotGroup (p : Profile) (acc : Val) (terms : List Dy) : Val × Nat :=
  if acc.isInf then (acc, 0)
  else
    let a := acc.dy
    let ts := if p.inside then terms ++ [a] else terms
    let (S, s) : Dy × Bool :=
      match p.w with
      | none => (Dy.sum ts, false)
      | some w =>
        let nz := ts.filter fun t => t.m != 0
        match nz with
        | [] => (Dy.zero, false)
        | t :: rest =>
          let emax := rest.foldl (fun k t => max k t.exp) t.exp
          let S := Dy.sum (ts.map fun t => t.floorTo (emax - w))
          (S, !(Dy.eq S (Dy.sum ts)))
    let r := roundF32Sticky (if p.inside then S else Dy.add a S) s
    (decode .f32 r.1, r.2)

/-- The groups of `frozen_dot`, with `fuel` at least the number of terms. -/
def dotGroups (p : Profile) : Nat → Val → List Dy → Nat → Val × Nat
  | 0, acc, _, fl => (acc, fl)
  | fuel + 1, acc, terms, fl =>
    match terms with
    | [] => (acc, fl)
    | _ =>
      let r := dotGroup p acc (terms.take p.g)
      dotGroups p fuel r.1 (terms.drop p.g) (fl ||| r.2)

/-- A dot product under a frozen profile (R65, R66): the f32 code and its flags. -/
def frozenDot (p : Profile) (c : Val) (prods : List (Val × Nat)) : Nat × Nat :=
  match dotSpecial c prods with
  | some r => r
  | none =>
    let r := dotGroups p prods.length c (prods.map (·.1.dy)) 0
    match r.1 with
    | .num n m e _ =>
      if m = 0 then
        -- −0 only when c and every product are −0 (R65)
        let negz := c.isZero && c.isNeg && prods.all fun q => q.1.isZero && q.1.isNeg
        (if negz then 0x80000000 else 0, r.2)
      else (codeOf .f32 n m e, r.2)
    | .inf n => (infCode .f32 n, r.2)
    | .nan _ => (nanCode .f32, r.2)

/-- An exact sum of values rounded once to f, special values as R65 settles them (R210, R217): the exact value before
rounding, with the flags of the special steps. -/
def exactSum (terms : List (Val × Nat)) : Val × Nat :=
  let nv := terms.foldl (fun f p => f ||| p.2) 0
  if terms.any (fun p => p.1.isNan) then (.nan false, nv)
  else
    let infs := (terms.map (·.1)).filter Val.isInf
    if infs.any Val.isNeg && infs.any (fun v => !v.isNeg) then (.nan false, fNV)
    else match infs with
      | v :: _ => (v, 0)
      | [] =>
        let s := Dy.sum (terms.map (·.1.dy))
        if s.m = 0 then (.zero (terms.all fun p => p.1.isZero && p.1.isNeg), 0) else (s.toVal, 0)

/-- The flag of a value that is itself a signalling NaN, as a term of a sum. -/
def asTerm (v : Val) : Val × Nat := (v, if v.isSnan then fNV else 0)

/-- `scale_acc` of R69 before its one rounding: acc + s·P, with R65's three steps. -/
def scaleAcc (acc P s : Val) : Val × Nat := exactSum [asTerm acc, mulV s P]

-- Profile 0 (R68) ----------------------------------------------------------------------------------------------------------

/-- a ≤ b. -/
def Dy.le (a b : Dy) : Bool := decide ((Dy.add b ⟨-a.m, a.e⟩).m ≥ 0)

def Dy.neg (a : Dy) : Dy := ⟨-a.m, a.e⟩
def Dy.sub (a b : Dy) : Dy := Dy.add a b.neg

/-- The place of a code in the order of the f32 values: −∞ lowest, ∞ highest, both zeros at 0. -/
def keyOf32 (c : Nat) : Int := if c < 0x80000000 then (c : Int) else -((c % 0x80000000 : Nat) : Int)

/-- The code at a place of that order; the zero is +0. -/
def codeOf32 (k : Int) : Nat := if k < 0 then 0x80000000 + k.natAbs else k.natAbs

/-- The exponent of the f32 grid at a magnitude: the ulp there is two to this power (R68). -/
def Dy.grid (t : Dy) : Int := (if t.m = 0 then -126 else max t.exp (-126)) - 23

/-- The place of the greatest f32 value at or below a number; above the finite range that is ∞. -/
def Dy.down32 (t : Dy) : Int := keyOf32 (roundF32Sticky (t.floorTo t.grid) false).1

/-- The place of the least f32 value at or above a number. -/
def Dy.up32 (t : Dy) : Int := -t.neg.down32

/-- The place of the greatest finite value. -/
def maxPlace : Int := 0x7F7FFFFF

/-- The least number that R68 allows as the result for these terms (the accumulator first): the sum less (ceil(K/16) + 1)·ulp(M), and
at least what it allows for terms that are nowhere greater, whose M may lie below the next power of two. DEDUCED, unsafe (log entry 6). -/
def openLow (ts : List Dy) : Dy :=
  let n : Nat := (ts.length - 1 + 15) / 16 + 1
  let x := Dy.sum ts
  let mag (l : List Dy) : Dy := Dy.sum (l.map fun t => ⟨t.m.natAbs, t.e⟩)
  let m := mag ts
  let neg := mag (ts.filter fun t => decide (t.m < 0))
  let lo := x.sub ⟨n, m.grid⟩
  let top : Dy := ⟨1, m.grid + 23⟩
  if m.grid > -149 ∧ !(top.le neg) then
    let lo' := (x.sub (m.sub top)).sub ⟨n, m.grid - 1⟩
    if lo.le lo' then lo' else lo
  else lo

/-- The greatest number that R68 allows, by symmetry. -/
def openHigh (ts : List Dy) : Dy := (openLow (ts.map Dy.neg)).neg

/-- The result that a list of steps describes: the greatest value whose point the terms have reached; below every one of them, −∞. Raising
a term never lowers it. -/
def openReach (steps : List (List (Int × Int) × Nat)) (ts : List Dy) : Int :=
  steps.foldl (fun r st => if (st.1.zip ts).all (fun p => Dy.le ⟨p.1.1, p.1.2⟩ p.2) then max r (keyOf32 (st.2 % 2 ^ 32)) else r) (keyOf32 0xFF800000)

/-- The result of profile 0 for finite terms: the free choice within what R68 allows. ∞ is a result only where the sum rounds to it, or
nothing finite is allowed. DESIGN CHOICE, safe (log entry 6). -/
def openSum (ts : List Dy) : Int :=
  let x := keyOf32 (roundF32Sticky (Dy.sum ts) false).1
  let hi := if x > maxPlace then x else min (openHigh ts).down32 maxPlace
  let lo := if x < -maxPlace then x else max (openLow ts).up32 (-maxPlace)
  max lo (min hi (openReach (Config.openDot (ts.length - 1)) ts))

/-- The sign that R65 gives a zero result. -/
def zeroSign (c : Val) (prods : List (Val × Nat)) (r : Nat) : Nat :=
  if r % 0x80000000 = 0 then
    (if c.isZero && c.isNeg && prods.all (fun q => q.1.isZero && q.1.isNeg) then 0x80000000 else 0)
  else r

/-- The flags of a profile-0 result r for the exact sum x (R59): NX where they differ, OF where r is infinite, UF where x is tiny and r
inexact. DEDUCED, unsafe (log entry 6). -/
def openFlags (x : Dy) (r : Nat) : Nat :=
  match decode .f32 r with
  | .num n m e _ =>
    if Dy.eq x ⟨sm n m, e⟩ then 0 else fNX ||| (if magBelowPow x.m.natAbs x.e (-126) then fUF else 0)
  | _ => fOF ||| fNX

/-- A dot product under profile 0; special values and the sign of zero follow R65. DESIGN CHOICE, safe (log entry 6). -/
def openDot (c : Val) (prods : List (Val × Nat)) : Nat × Nat :=
  match dotSpecial c prods with
  | some r => r
  | none =>
    let ts := c.dy :: prods.map (·.1.dy)
    let r := codeOf32 (openSum ts)
    (zeroSign c prods r, openFlags (Dy.sum ts) r)

end Sys2Proof.Machine
end

