-- ==== Sys2Proof/Machine/Xarith.lean ====
section
/-! DEFINITION. Element-wise arithmetic, comparison, selection, logic, conversions, special functions and scales of X (spec 08,
R202 to R212). -/

namespace Sys2Proof.Machine

open Sys2Proof

/-- A float operation on decoded values, or an integer operation on integers modulo 2^w, element by element (R202). -/
def arithX (i : Instr) (latF latI : Nat) (s : State) (ff : Val → Val → Val → Val × Nat) (fi : Int → Int → Int → Int) : Out :=
  xRun i s .v fun _ k => k.each (if k.f.isInt then latI else latF) fun dm e =>
    if k.f.isInt then
      { code := wrapNat k.w (fi (intVal k.f (k.src k.a e)) (intVal k.f (k.src k.b e)) (intVal k.f (k.src k.cc e))) }
    else k.round dm e (ff (decode k.f (k.src k.a e)) (decode k.f (k.src k.b e)) (decode k.f (k.src k.cc e)))

/-- a·b + c with each part exact, and the flags of its parts (R61, R202). -/
def fmaV (a b c : Val) : Val × Nat :=
  let p := mulV a b
  let r := addV p.1 c
  (r.1, p.2 ||| r.2)

def negMulAdd (a b c : Val) : Val × Nat :=
  let p := mulV a b
  let r := addV p.1.neg c
  (r.1, p.2 ||| r.2)

def execVadd (x : XArgs) (s : State) : Out := arithX (.vadd x) 4 2 s (fun a b _ => addV a b) fun a b _ => a + b
def execVsub (x : XArgs) (s : State) : Out := arithX (.vsub x) 4 2 s (fun a b _ => addV a b.neg) fun a b _ => a - b
def execVmul (x : XArgs) (s : State) : Out := arithX (.vmul x) 4 2 s (fun a b _ => mulV a b) fun a b _ => a * b
def execVfma (x : XArgs) (s : State) : Out := arithX (.vfma x) 5 5 s fmaV fun _ _ _ => 0
def execVfms (x : XArgs) (s : State) : Out := arithX (.vfms x) 5 5 s (fun a b c => fmaV a b c.neg) fun _ _ _ => 0
def execVfnma (x : XArgs) (s : State) : Out := arithX (.vfnma x) 5 5 s negMulAdd fun _ _ _ => 0
def execVdiv (x : XArgs) (s : State) : Out := arithX (.vdiv x) 12 12 s (fun a b _ => divV a b) fun _ _ _ => 0
def execVabs (x : XArgs) (s : State) : Out :=
  arithX (.vabs x) 4 2 s (fun a _ _ => (a.abs, 0)) fun a _ _ => if a < 0 then -a else a
def execVneg (x : XArgs) (s : State) : Out := arithX (.vneg x) 4 2 s (fun a _ _ => (a.neg, 0)) fun a _ _ => -a

/-- Saturating integer sums (R48, R202). -/
def satX (i : Instr) (s : State) (fi : Int → Int → Int) : Out :=
  xRun i s .v fun _ k => k.each 2 fun _ e =>
    let r := clampInt k.f (fi (intVal k.f (k.src k.a e)) (intVal k.f (k.src k.b e)))
    { code := r.1, flags := r.2 }

def execVadds (x : XArgs) (s : State) : Out := satX (.vadds x) s (· + ·)
def execVsubs (x : XArgs) (s : State) : Out := satX (.vsubs x) s (· - ·)

/-- Minimum and maximum (R203). -/
def minMaxX (i : Instr) (s : State) (isMax prop : Bool) : Out :=
  xRun i s .v fun _ k => k.each k.lat42 fun _ e =>
    let r := minMax isMax prop k.f (k.src k.a e) (k.src k.b e)
    { code := r.1, flags := r.2 }

def execVmin (x : XArgs) (s : State) : Out := minMaxX (.vmin x) s false false
def execVmax (x : XArgs) (s : State) : Out := minMaxX (.vmax x) s true false
def execVminp (x : XArgs) (s : State) : Out := minMaxX (.vminp x) s false true
def execVmaxp (x : XArgs) (s : State) : Out := minMaxX (.vmaxp x) s true true

/-- The relations of R204. -/
inductive Cmp where
  | eq | ne | lt | le | un
deriving DecidableEq, Repr

def Cmp.ofInts (r : Cmp) (a b : Int) : Bool :=
  match r with
  | .eq => decide (a = b)
  | .ne => decide (a ≠ b)
  | .lt => decide (a < b)
  | .le => decide (a ≤ b)
  | .un => false

/-- A float comparison and its NV (R204). -/
def Cmp.ofVals (r : Cmp) (a b : Val) : Bool × Nat :=
  let nan := a.isNan || b.isNan
  let sig := a.isSnan || b.isSnan
  match r with
  | .eq => (eqV a b, if sig then fNV else 0)
  | .ne => (!eqV a b, if sig then fNV else 0)
  | .lt => (ltV a b, if nan then fNV else 0)
  | .le => (!nan && (ltV a b || eqV a b), if nan then fNV else 0)
  | .un => (nan, if sig then fNV else 0)

def cmpX (i : Instr) (s : State) (r : Cmp) : Out :=
  xRun i s .p fun _ k => predRes (k.d % 16) k.w k.lat42 ((List.range k.n).map fun e =>
    let a := k.src k.a e
    let b := k.src k.b e
    if k.f.isInt then (r.ofInts (intVal k.f a) (intVal k.f b), 0) else r.ofVals (decode k.f a) (decode k.f b))

def execVceq (x : XArgs) (s : State) : Out := cmpX (.vceq x) s .eq
def execVcne (x : XArgs) (s : State) : Out := cmpX (.vcne x) s .ne
def execVclt (x : XArgs) (s : State) : Out := cmpX (.vclt x) s .lt
def execVcle (x : XArgs) (s : State) : Out := cmpX (.vcle x) s .le
def execVcun (x : XArgs) (s : State) : Out := cmpX (.vcun x) s .un

/-- Bit e·w/8 of a predicate (R205). -/
def XCtx.pbit (k : XCtx) (n e : Nat) : Bool := bitAt (sget 0 k.c.p (n % 16)).toNat (e * k.w / 8)

/-- The predicate that C names (R132). -/
def predC (x : XArgs) : Nat := x.cN.getD 0 % 16

def execVsel (x : XArgs) (s : State) : Out :=
  xRun (.vsel x) s .v fun _ k => k.each 2 fun _ e =>
    { code := if k.pbit (predC x) e then k.src k.a e else k.src k.b e }

/-- Bitwise operations and shifts on element codes (R206). -/
def bitX (i : Instr) (s : State) (g : Nat → Nat → Nat → Nat) : Out :=
  xRun i s .v fun _ k => k.each 2 fun _ e => { code := g k.w (k.src k.a e) (k.src k.b e) % 2 ^ k.w }

def execVand (x : XArgs) (s : State) : Out := bitX (.vand x) s fun _ a b => a &&& b
def execVor (x : XArgs) (s : State) : Out := bitX (.vor x) s fun _ a b => a ||| b
def execVxor (x : XArgs) (s : State) : Out := bitX (.vxor x) s fun _ a b => a ^^^ b
def execVandn (x : XArgs) (s : State) : Out := bitX (.vandn x) s fun w a b => a &&& (2 ^ w - 1 - b)
def execVshl (x : XArgs) (s : State) : Out := bitX (.vshl x) s fun w a b => a * 2 ^ (b % w)
def execVshr (x : XArgs) (s : State) : Out := bitX (.vshr x) s fun w a b => a / 2 ^ (b % w)
def execVsra (x : XArgs) (s : State) : Out :=
  bitX (.vsra x) s fun w a b => wrapNat w (signed w a / ((2 ^ (b % w) : Nat) : Int))

-- Conversions and moves (R207, R208, R212) ---------------------------------------------------------------------------------

/-- One element converted from format sf to the instruction's format. -/
def XCtx.cvt (k : XCtx) (sf : Fmt) (dm : MapV) (e code : Nat) : El :=
  if sf.isInt && k.f.isInt then
    let v := intVal sf code
    if k.x.satB then let r := clampInt k.f v; { code := r.1, flags := r.2 } else { code := wrapNat k.w v }
  else k.round dm e (decode sf code, 0)

/-- The positions that part P of a widening move takes (R207, R218). -/
def partIdx (p n : Nat) : List (Option Nat) := (List.range n).map fun j => some (p * n + j)

/-- The map class of a part: KEEP for P = 0, GATHER beyond (R207, R212, R218). -/
def partClass (p n : Nat) : MapClass := if p = 0 then .keep else .gather (partIdx p n)

/-- The coordinates a narrowing destination takes from two sources of n elements each; a source without coordinates
gives void positions (R207, R225). -/
def joinCoords (a c : MapV) (n w : Nat) : List Coord :=
  let one (v : MapV) : List Coord := (List.range n).map fun e => if v.known then coordAllAt v e w else voidCoord
  one a ++ one c

def execVcvt (x : XArgs) (s : State) : Out :=
  xRun (.vcvt x) s .v fun _ k =>
    let sf := (fmtOfCode x.b.toNat).getD .f32
    let A := k.a.getD 0
    let C := k.cc.getD 0
    let p := x.immN
    if sf.width > k.w then
      let n := sf.count
      let m := k.mapTo (.filled (joinCoords (k.c.mapOf A) (k.c.mapOf C) n sf.width)) k.w k.n
      let dm := k.view m
      vecRes k.d k.w 3 m ((List.range k.n).map fun j =>
        k.cvt sf dm j (if j < n then k.elem sf A j else k.elem sf C (j - n)))
    else
      let m := k.mapTo (partClass p k.n) k.w k.n
      let dm := k.view m
      vecRes k.d k.w 3 m ((List.range k.n).map fun j => k.cvt sf dm j (k.elem sf A (p * k.n + j)))

def execVmov (x : XArgs) (s : State) : Out :=
  xRun (.vmov x) s .v fun _ k => k.each 2 fun _ e => { code := k.src k.a e }

/-- DEDUCED, unsafe (log entry 23). -/
def execVmovE (x : XArgs) (s : State) : Out :=
  xRun (.vmovE x) s .e fun _ k =>
    .ok { lat := 2, dst := .e (k.d % 16), val := k.elem .f32 (k.a.getD 0) (x.b.toNat % 64) }

def execVdq (x : XArgs) (s : State) : Out :=
  xRun (.vdq x) s .v fun _ k =>
    let sf := (fmtOfCode x.b.toNat).getD .f32
    let p := x.immN
    let sc := signed 8 (k.scalar k.cc)
    let m := k.mapTo (partClass p k.n) k.w k.n
    let dm := k.view m
    vecRes k.d k.w 3 m ((List.range k.n).map fun j =>
      k.roundTo k.f x.mode false dm j ((decode sf (k.elem sf (k.a.getD 0) (p * k.n + j))).scale (-sc), 0))

-- Special functions, complex products and scales (R209 to R211) ---------------------------------------------------------------

def specX (i : Instr) (s : State) (g : Special) : Out :=
  xRun i s .v fun _ k => k.each 12 fun dm e => k.round dm e (specialV g (decode k.f (k.src k.a e)))

def execVsqrt (x : XArgs) (s : State) : Out := specX (.vsqrt x) s .sqrt
def execVrcp (x : XArgs) (s : State) : Out := specX (.vrcp x) s .rcp
def execVrsq (x : XArgs) (s : State) : Out := specX (.vrsq x) s .rsq
def execVexp2 (x : XArgs) (s : State) : Out := specX (.vexp2 x) s .exp2
def execVlog2 (x : XArgs) (s : State) : Out := specX (.vlog2 x) s .log2
def execVsinp (x : XArgs) (s : State) : Out := specX (.vsinp x) s .sinp
def execVcosp (x : XArgs) (s : State) : Out := specX (.vcosp x) s .cosp

/-- DEDUCED, unsafe (log entry 26). -/
def execVcmul (x : XArgs) (s : State) : Out :=
  xRun (.vcmul x) s .v fun _ k => k.each 5 fun dm e =>
    let v (o : Option Nat) (i : Nat) : Val := decode k.f (k.src o i)
    let r := e / 2 * 2
    let ar := v k.a r
    let ai := v k.a (r + 1)
    let br := v k.b r
    let bi := if bitAt x.immN 0 then (v k.b (r + 1)).neg else v k.b (r + 1)
    let neg (t : Val × Nat) : Val × Nat := (t.1.neg, t.2)
    let c : Val := match k.cc with
      | some n => if n = 112 then .zero false else v k.cc e
      | none => .zero false
    let sum := if e % 2 = 0 then exactSum [mulV ar br, neg (mulV ai bi), asTerm c] else exactSum [mulV ar bi, mulV ai br, asTerm c]
    k.round dm e sum

/-- VSCAL: `f32` elements; the instruction's format is the scale's, and its width is 32 for maps (R211). -/
def execVscal (x : XArgs) (s : State) : Out :=
  xRun (.vscal x) s .v fun _ k =>
    let bl := x.immN % 8
    let m := k.mapTo .keep 32 64
    let dm := k.view m
    let f32 (o : Option Nat) (e : Nat) : Val := decode .f32 (k.elem .f32 (o.getD 0) e)
    vecRes k.d 32 5 m ((List.range 64).map fun e =>
      let sc := decode k.f (k.src k.b (e / 2 ^ bl))
      k.roundTo .f32 x.mode false dm e (scaleAcc (f32 k.cc e) (f32 k.a e) sc))

end Sys2Proof.Machine
end

