-- ==== Sys2Proof/Machine/Xcoord.lean ====
section
/-! DEFINITION. The coordinate instructions and the lane movements of X (spec 08, R213 to R217). -/

namespace Sys2Proof.Machine

open Sys2Proof

/-- CMSET (R213): only the map is written; n of the image is the destination class's own (R77). -/
def execCmset (x : XArgs) (s : State) : Out :=
  xRun (.cmset x) s .v fun _ k =>
    let im := ofImage ((List.range 9).map fun i => k.elem .f32 (k.a.getD 0) i) none
    .ok { lat := 2, dst := .v k.d, keep := true, map := some (.keep im.1), img := im.2 }

/-- DEDUCED, unsafe (log entry 26). -/
def execCmget (x : XArgs) (s : State) : Out :=
  xRun (.cmget x) s .v fun _ k =>
    .ok { lat := 2, dst := .v k.d, val := pack 32 (imageOf (k.c.mapOf (k.a.getD 0)).m)
          map := some (k.mapTo .keep 32 64) }

/-- A copy of A under a map class; the map keeps the width that the carrier's map has. -/
def XCtx.copyAs (k : XCtx) (cls : MapClass) : XStep :=
  let A := k.a.getD 0
  .ok { lat := 2, dst := .v k.d, val := k.c.rawOf A % 2 ^ 2048
        map := some (match k.ref with
          | some v => destMap cls v v.m.ew (2048 / v.m.ew.bits)
          | none => .keep .nil) }

def execCmslice (x : XArgs) (s : State) : Out :=
  xRun (.cmslice x) s .v fun _ k =>
    k.copyAs (.slice (Q4.mk' fun d => BitVec.ofNat 32 (k.elem .i32 (k.b.getD 0) d)))

def execCmperm (x : XArgs) (s : State) : Out :=
  xRun (.cmperm x) s .v fun _ k => k.copyAs (.perm (Q4.mk' fun d => field x.immN (2 * d) 2))

/-- CMCHK (R87, R213): 64 positions at 32-bit width. -/
def execCmchk (x : XArgs) (s : State) : Out :=
  xRun (.cmchk x) s .none fun _ k =>
    match mapCheck k.sourceMaps 64 32 with
    | some t => .error t
    | none => .ok { lat := 0 }

def execPcrd (x : XArgs) (s : State) : Out :=
  xRun (.pcrd x) s .p fun _ k =>
    let al : Q4 Int := Q4.mk' fun d => signed 3 (field x.immN (3 * d) 3)
    let rel := field x.immN 12 3
    let imm := signed 32 (k.scalar k.b)
    let els := (List.range k.n).map fun e =>
      match coordSum (k.ref.getD .nil) e k.w al imm with
      | some v => relHolds rel v
      | none => none
    if els.any Option.isNone then .error { code := tcMapLost }
    else predRes (k.d % 16) k.w 2 (els.map fun e => (e.getD false, 0))

/-- The coordinates of element e as the mixer takes them, at a width (R215). -/
def coordsAt (v : MapV) (e w : Nat) : Coord := coordAllAt v e w

def execVhash (x : XArgs) (s : State) : Out :=
  xRun (.vhash x) s .v fun _ k =>
    let nk := k.c.nkey
    let seed := if k.b = some 112 then keySeed nk else k.scalar k.b
    let step := match k.cc with
      | some n => if n = 112 then keyStep nk else k.scalar k.cc
      | none => keyStep nk
    if !k.refKnown then .error { code := tcMapLost }
    else
      let v := k.ref.getD .nil
      vecRes k.d 32 12 (k.mapTo .keep 32 64) ((List.range 64).map fun e =>
        { code := hashAt seed step v.m.tag (coordsAt v e 32) })

def execVtwid (x : XArgs) (s : State) : Out :=
  xRun (.vtwid x) s .v fun _ k =>
    if !k.refKnown then .error { code := tcMapLost }
    else
      let v := k.ref.getD .nil
      let N := k.scalar k.b
      let ax := field x.immN 0 2
      let bx := field x.immN 2 2
      let neg := bitAt x.immN 4
      let pairs := (List.range (k.n / 2)).map fun i =>
        twid ((coordAt v (2 * i) k.w ax).getD 0) ((coordAt v (2 * i) k.w bx).getD 0) N k.f
      vecRes k.d k.w 12 (k.mapTo .keep k.w k.n) (pairs.flatMap fun r =>
        let si := if neg && r.2.1 != 0 && !(decode k.f r.2.1).isNan then codeNeg k.f r.2.1 else r.2.1
        [{ code := r.1, flags := r.2.2 }, { code := si }])
where
  /-- The sign bit turned: −si of a value that is no NaN (R216). -/
  codeNeg (f : Fmt) (c : Nat) : Nat := c ^^^ 2 ^ (f.width - 1)

-- Lane movement (R217) ----------------------------------------------------------------------------------------------------------

/-- The encoded row width differs from the map's (R217). -/
def XCtx.rowMismatch (k : XCtx) (lw : Nat) : Bool := match k.ref with
  | some v => v.known && v.m.lw.toNat != lw
  | none => false

/-- A movement that copies the elements at `idx`, none giving zero, under a map class. -/
def XCtx.move (k : XCtx) (cls : MapClass) (idx : Nat → Option Nat) : XStep :=
  vecRes k.d k.w 6 (k.mapTo cls k.w k.n) ((List.range k.n).map fun j =>
    { code := match idx j with
        | some i => k.src k.a i
        | none => 0 })

def laneX (i : Instr) (s : State) (lw : Nat) (f : XCtx → XStep) : Out :=
  xRun i s .v fun _ k => if k.rowMismatch lw then .error { code := tcMismatch } else f k

def execVperm (x : XArgs) (s : State) : Out :=
  xRun (.vperm x) s .v fun _ k =>
    let idx (j : Nat) : Option Nat := if k.src k.b j < k.n then some (k.src k.b j) else none
    k.move (.gather ((List.range k.n).map idx)) idx

/-- Row-width field of a lane movement. -/
def lwOf (x : XArgs) : Nat := field x.immN 0 4

def execVxpose (x : XArgs) (s : State) : Out :=
  laneX (.vxpose x) s (lwOf x) fun k =>
    let W := 2 ^ lwOf x
    let H := k.n / W
    k.move .trans fun j => some (j % H * W + j / H)

def execVreshp (x : XArgs) (s : State) : Out :=
  laneX (.vreshp x) s (lwOf x) fun k => k.move (.reshape (field x.immN 4 4)) some

def execVbce (x : XArgs) (s : State) : Out :=
  laneX (.vbce x) s (lwOf x) fun k => k.move (.bcastE (x.immN / 256)) fun _ => some (x.immN / 256)

def execVbcr (x : XArgs) (s : State) : Out :=
  laneX (.vbcr x) s (lwOf x) fun k =>
    let W := 2 ^ lwOf x
    k.move (.bcastRow (x.immN / 256)) fun j => some (x.immN / 256 * W + j % W)

def execVbcc (x : XArgs) (s : State) : Out :=
  laneX (.vbcc x) s (lwOf x) fun k =>
    let W := 2 ^ lwOf x
    k.move (.bcastCol (x.immN / 256)) fun j => some (j / W * W + x.immN / 256)

def execVcompact (x : XArgs) (s : State) : Out :=
  xRun (.vcompact x) s .v fun _ k =>
    let sel := (List.range k.n).filter fun e => k.pbit (predC x) e
    let idx (j : Nat) : Option Nat := sel[j]?
    k.move (.gather ((List.range k.n).map idx)) idx

/-- The reduction of a list of element codes: the value before rounding for a float sum, or the result itself (R217). -/
inductive Red where
  | exact (v : Val × Nat)
  | code (c flags : Nat)
deriving DecidableEq, Repr

/-- A reduction of one group. A NaN that is left is the canonical one, of a group of one element too (R47). -/
def XCtx.reduce (k : XCtx) (op : Nat) (els : List Nat) : Red :=
  match op with
  | 0 => if k.f.isInt then .code (wrapNat k.w (els.foldl (fun a c => a + intVal k.f c) 0)) 0
    else .exact (exactSum (els.map fun c => asTerm (decode k.f c)))
  | o =>
    match els with
    | [] => .code 0 0
    | c :: cs =>
      let r := cs.foldl (fun (a : Nat × Nat) c => let y := minMax (o == 1) false k.f a.1 c; (y.1, a.2 ||| y.2)) (c, 0)
      .code (if !k.f.isInt && (decode k.f r.1).isNan then nanCode k.f else r.1) (if !k.f.isInt && els.any (fun c => (decode k.f c).isSnan) then fNV else 0)

/-- A reduction of each of `groups`, placed at every position j of the group `pos j` (R217). -/
def XCtx.reduceX (k : XCtx) (op : Nat) (cls : MapClass) (groups : List (List Nat)) (pos : Nat → Nat) : XStep :=
  let m := k.mapTo cls k.w k.n
  let dm := k.view m
  let rs := groups.map fun g => k.reduce op (g.map fun i => k.src k.a i)
  vecRes k.d k.w 6 m ((List.range k.n).map fun j =>
    match rs.getD (pos j) (.code 0 0) with
    | .code c fl => { code := c, flags := fl }
    | .exact v => k.round dm j v)

def execVredq (x : XArgs) (s : State) : Out :=
  laneX (.vredq x) s (lwOf x) fun k =>
    let W := 2 ^ lwOf x
    k.reduceX (field x.immN 4 2) .redQ ((List.range (k.n / W)).map fun r => (List.range W).map fun q => r * W + q) fun j => j / W

def execVredr (x : XArgs) (s : State) : Out :=
  laneX (.vredr x) s (lwOf x) fun k =>
    let W := 2 ^ lwOf x
    k.reduceX (field x.immN 4 2) .redR ((List.range W).map fun q => (List.range (k.n / W)).map fun r => r * W + q) fun j => j % W

end Sys2Proof.Machine
end

