-- ==== Sys2Proof/Machine/Rule.lean ====
section
/-! DEFINITION. Rule programs: their images and their runs (spec 22, R418, R419). A pass runs the meanings of the X instructions on a
core of its own. -/

namespace Sys2Proof.Machine

open Sys2Proof

/-- What an instruction that a rule image may hold does (R418); none for every other one. -/
def ruleStep (i : Instr) (s : State) : Option Out :=
  match i with
  | .vadd x => some (execVadd x s) | .vsub x => some (execVsub x s) | .vmul x => some (execVmul x s) | .vfma x => some (execVfma x s)
  | .vfms x => some (execVfms x s) | .vfnma x => some (execVfnma x s) | .vdiv x => some (execVdiv x s) | .vmin x => some (execVmin x s)
  | .vmax x => some (execVmax x s) | .vminp x => some (execVminp x s) | .vmaxp x => some (execVmaxp x s) | .vabs x => some (execVabs x s)
  | .vneg x => some (execVneg x s) | .vceq x => some (execVceq x s) | .vcne x => some (execVcne x s) | .vclt x => some (execVclt x s)
  | .vcle x => some (execVcle x s) | .vcun x => some (execVcun x s) | .vsel x => some (execVsel x s) | .vand x => some (execVand x s)
  | .vor x => some (execVor x s) | .vxor x => some (execVxor x s) | .vandn x => some (execVandn x s) | .vshl x => some (execVshl x s)
  | .vshr x => some (execVshr x s) | .vsra x => some (execVsra x s) | .vadds x => some (execVadds x s) | .vsubs x => some (execVsubs x s)
  | .vsqrt x => some (execVsqrt x s) | .vrcp x => some (execVrcp x s) | .vrsq x => some (execVrsq x s) | .vexp2 x => some (execVexp2 x s)
  | .vlog2 x => some (execVlog2 x s) | .vsinp x => some (execVsinp x s) | .vcosp x => some (execVcosp x s) | .vmov x => some (execVmov x s)
  | .vhash x => some (execVhash x s)
  | _ => none

/-- The extension words that stand at the head of a list. -/
def takeExt (xmask : Nat) : Nat → List IWord → List IWord
  | _, [] => []
  | i, w :: ws => if bitAt xmask i then w :: takeExt xmask (i + 1) ws else []

/-- The instruction words with the extension words that follow each. -/
def ruleWords (xmask : Nat) : Nat → List IWord → List (IWord × List IWord)
  | _, [] => []
  | i, w :: ws => if bitAt xmask i then ruleWords xmask (i + 1) ws else (w, takeExt xmask (i + 1) ws) :: ruleWords xmask (i + 1) ws

/-- An operand code that a rule may name (R418): no `w`, chain slot or `lq`, and of the vectors only `v0` to `v15`. -/
def ruleOperand (o : Option Nat) : Bool := match o with
  | some n => decide (n < 16) || decide (n > 76)
  | none => true

/-- An instruction that a rule image may hold (R418). -/
def ruleOk (i : Instr) : Bool :=
  match xSpec i with
  | none => false
  | some (sp, x) =>
    let o := operandsOf sp x
    let d := x.d.toNat
    let pred := match i with
      | .vceq _ | .vcne _ | .vclt _ | .vcle _ | .vcun _ => decide (d < 4)
      | .vsel _ => decide (d < 16) && decide (x.cN.getD 0 % 16 < 4)
      | _ => decide (d < 16)
    (ruleStep i State.reset).isSome && x.st == 0 && !x.pb && !x.pa && (x.t == 0 || x.t == 3)
      && (match x.oper with
        | some y => !y.fv && !y.ovf && !y.mchk
        | none => true)
      && x.prf.isNone && x.slu.isNone && pred && ruleOperand o.1 && ruleOperand o.2.1 && ruleOperand o.2.2

/-- The instructions of an image. -/
def ruleInstrs (xmask : Nat) (image : List IWord) : Option (List Instr) := (ruleWords xmask 0 image).mapM fun w => Sys2Proof.decode .x w.1 w.2

/-- The unit on which passes run: no quad has it. -/
def ruleUnit : Nat := 2 ^ 40
def ruleSeq : SeqId := { unit := ruleUnit, kind := .x }

/-- The start of a pass (R419): the noise key, TAG, HYP, the element number, the step, and the lanes of `v0` to `v3` as registers.
DEDUCED, unsafe (log entry 64). -/
def ruleStart (seed tag : Nat) (hyp : List Nat) (base step : Nat) (regs : List Nat) : State :=
  let m : CMap := { CMap.nil with mode := .affine, tag := BitVec.ofNat 16 tag, lw := 6, ew := .w32
                                  base := { c0 := BitVec.ofNat 32 base, c1 := BitVec.ofNat 32 step, c2 := 0, c3 := 0 }
                                  qs := { c0 := 1, c1 := 0, c2 := 0, c3 := 0 } }
  let c : Core := { Core.init with v := (List.range 16).map fun i => (i, BitVec.ofNat 2048 (regs.getD i 0), m)
                                   e := hyp.mapIdx fun i h => (i, BitVec.ofNat 32 h)
                                   nkey := BitVec.ofNat 64 (seed + step * 2 ^ 32) }
  { State.reset.setCore ruleUnit c with cur := ruleSeq }

/-- One instruction of a pass: it reads the results of every earlier one. DEDUCED, unsafe (log entry 64). -/
def ruleOne (s : State) (i : Instr) : State :=
  match ruleStep i s with
  | some (.next s) => s.landX ruleUnit ((s.core ruleUnit).xnext + 32) false
  | _ => s

/-- A pass: `v1`, `v2` and `v3` at its end, the flags it raises, and whether an instruction of it traps. -/
def rulePass (is : List Instr) (s : State) : List Nat × Nat × Bool :=
  let s := is.foldl ruleOne s
  let k := s.ctl { unit := ruleUnit, kind := .k }
  ((List.range 3).map fun i => (sget ((0 : Vec), CMap.nil) (s.core ruleUnit).v (i + 1)).1.toNat, k.xst.toNat, k.mode != .normal)

/-- The image passes R418; one whose instructions would trap in every pass, for want of a map, does not meet their entries.
DEDUCED, unsafe (log entry 64). -/
def ruleImageOk (xmask : Nat) (image : List IWord) : Bool :=
  !bitAt xmask 0 &&
  match ruleInstrs xmask image with
  | none => false
  | some is => decide (is.length ≤ 32) && is.all ruleOk && !(rulePass is (ruleStart 0 0 [] 0 0 [])).2.2

end Sys2Proof.Machine
end

