-- ==== Sys2Proof/Machine/Basin.lean ====
section
/-! DEFINITION. Basins: parameter groups, pushes, steps, decisions, commits, the buddy, publications and subscriptions (spec 22, R414
to R436). -/

namespace Sys2Proof.Machine

open Sys2Proof

-- The fields of a group record (R415) ------------------------------------------------------------------------------------------------

def grF (w : List Word) (i lo n : Nat) : Nat := field (w.getD i 0).toNat lo n
def grPgid (w : List Word) : Nat := grF w 0 0 20
def grPrim (w : List Word) : Nat := grF w 0 20 11
def grBuddy (w : List Word) : Nat := grF w 0 31 11
def grSkip (w : List Word) : Bool := grF w 0 42 1 == 1
def grFmt (b : Nat) : Fmt := if b = 1 then .bf16 else .f32
def grM1 (w : List Word) : Fmt := grFmt (grF w 0 43 1)
def grM2 (w : List Word) : Fmt := grFmt (grF w 0 44 1)
def grSr (w : List Word) : Bool := grF w 0 45 1 == 1
def grGf (w : List Word) : Fmt := grFmt (grF w 0 46 1)
def grSsid (w : List Word) : Nat := grF w 0 48 8
def grNblk (w : List Word) : Nat := grF w 1 0 32
def grStep0 (w : List Word) : Nat := grF w 1 32 32
def grBase (w : List Word) (i : Nat) : Nat := (w.getD (2 + i) 0).toNat
def grGid (w : List Word) : Nat := grF w 5 0 20
def grTmo (w : List Word) : Nat := grF w 5 32 32
def grSeed (w : List Word) : Nat := grF w 6 0 32
def grNrw (w : List Word) : Nat := grF w 6 32 7
def grXmask (w : List Word) : Nat := (w.getD 7 0).toNat
/-- Halves of the words from `i` on, lower half first: `n` of them. -/
def grHalves (w : List Word) (i n : Nat) : List Nat := (List.range n).map fun j => grF w (i + j / 2) (32 * (j % 2)) 32
def grHyp (w : List Word) : List Nat := grHalves w 8 16
def grRule (w : List Word) : List IWord := ((grHalves w 16 64).take (grNrw w)).map (BitVec.ofNat 32)

/-- The checks of R432 that need no look at the pod. -/
def grOk (w : List Word) : Bool :=
  grF w 0 47 1 == 0 && grF w 0 56 8 == 0 && grF w 5 20 12 == 0 && grF w 6 39 25 == 0 && decide (grXmask w < 2 ^ grNrw w)
    && ((grHalves w 16 64).drop (grNrw w)).all (· == 0)
    && grPgid w != 0 && decide (1 ≤ grNblk w) && decide (grNblk w ≤ 2 ^ 20) && decide (1 ≤ grNrw w) && decide (grNrw w ≤ 64)
    && ((List.range 3).all fun i => grBase w i % 2 ^ 16 == 0) && grPrim w / 2 != grBuddy w / 2 && ruleImageOk (grXmask w) (grRule w)

/-- Elements of a block (R416). -/
def blockLen : Nat := 8192

/-- The state arrays of `n` blocks from block `b` on: `w`, `m1`, `m2`, each an address and a length (R416). -/
def grArrays (w : List Word) (b n : Nat) : List (Nat × Nat) :=
  [(0, 4), (1, (grM1 w).width / 8), (2, (grM2 w).width / 8)].map fun x => (grBase w x.1 + blockLen * b * x.2, blockLen * n * x.2)

-- Groups -------------------------------------------------------------------------------------------------------------------------------

def pgKey (asid pgid : Nat) : Nat := asid * 2 ^ 20 + pgid

def State.pg (s : State) (asid pgid : Nat) : Option PGroup := if pgid < 2 ^ 20 then s.basin.lookup (pgKey asid pgid) else none
def State.setPg (s : State) (g : PGroup) : State := { s with basin := sset s.basin (pgKey g.asid (grPgid g.words)) g }
def PGroup.pgid (g : PGroup) : Nat := grPgid g.words
def PGroup.md (g : PGroup) : Nat := g.prim / 2

/-- An event of a group's primary (R435, R446). -/
def State.pgEvent (s : State) (g : PGroup) (kind code payload : Nat) : State :=
  s.post g.md kind (some g.asid) (srcHub (8 + g.prim % 2)) code (g.pgid + payload * 2 ^ 32)

/-- A counter of R434 rises. -/
def PGroup.tally (g : PGroup) (i : Nat) : PGroup := { g with counts := sset g.counts i (min (sget 0 g.counts i + 1) 0xFFFFFFFF) }

/-- The contributions of a block that are there without a gap from CI 0 on: how many. -/
def Blk.ready (b : Blk) : Nat := ((List.range b.nc).takeWhile fun i => b.got.any fun c => c.ci == i).length

/-- A block is complete (R422). -/
def Blk.full (b : Blk) : Bool := b.ready == b.nc

/-- The contributions that a group buffers (R421). DEDUCED, unsafe (log entry 66). -/
def PGroup.buffered (g : PGroup) : Nat :=
  g.now.foldl (fun a x => a + (x.2.got.length - x.2.ready)) 0 + g.next.foldl (fun a x => a + x.2.got.length) 0

/-- The contributions that a basin buffers, over all its groups. -/
def State.basinLoad (s : State) (n : Nat) : Nat := s.basin.foldl (fun a x => if x.2.prim = n then a + x.2.buffered else a) 0

/-- Blocks of the current step that are not complete. -/
def PGroup.missing (g : PGroup) : Nat := grNblk g.words - (g.now.filter fun x => x.2.full).length

-- Gradients and rules (R419, R422) --------------------------------------------------------------------------------------------------------

/-- The element codes of a byte list, for elements of two and of four bytes. -/
def codes16 : List Byte → List Nat
  | a :: b :: t => leNat [a, b] :: codes16 t
  | _ => []

def codes32 : List Byte → List Nat
  | a :: b :: c :: d :: t => leNat [a, b, c, d] :: codes32 t
  | _ => []

def codesOf (f : Fmt) (bs : List Byte) : List Nat := if f.width = 32 then codes32 bs else codes16 bs

/-- A finite f32 code. -/
def finite32 (x : Nat) : Bool := field x 23 8 != 255

/-- The gradient of a block after one more contribution, and its NF (R422). -/
def addContrib (gf : Fmt) (acc : Option (List Nat) × Bool) (c : Contrib) : Option (List Nat) × Bool :=
  let xs := (codesOf gf c.pay).map fun x => decode gf x
  let sums := match acc.1 with
    | none => xs.map fun v => (convert .f32 v .rne false 0).1
    | some l => (l.zip xs).map fun p => (convert .f32 (addV (decode .f32 p.1) p.2).1 .rne false 0).1
  (some sums, acc.2 || c.nf || sums.any fun x => !finite32 x)

/-- The reduced gradient of a block and its NF, from its contributions in ascending CI (R422). -/
def Blk.reduce (gf : Fmt) (b : Blk) : List Nat × Bool :=
  let r := ((List.range b.nc).filterMap fun i => b.got.find? fun c => c.ci == i).foldl (addContrib gf) (none, false)
  (r.1.getD [], r.2)

/-- Elements `n` from `i` on, as a register of f32 lanes. -/
def lanesAt (xs : List Nat) (i n : Nat) : Nat := pack 32 ((xs.drop i).take n)

/-- The noise word of an element of a group at a step (R419, R429). DEDUCED, unsafe (log entry 65). -/
def pgNoise (w : List Word) (e step : Nat) : Nat :=
  vhash (grSeed w) (grPgid w % 2 ^ 16) (e % 2 ^ 32) step 0 0 step

/-- A block after a step (R419): new `w`, `m1` and `m2` as bytes, and the flags of the rule. DEDUCED, unsafe (log entry 65). -/
def ruleBlock (w : List Word) (hyp : List Nat) (step b : Nat) (g : List Nat) (state : List (List Byte)) : List (List Byte) × Nat :=
  let is := (ruleInstrs (grXmask w) (grRule w)).getD []
  let fs := [Fmt.f32, grM1 w, grM2 w]
  let old := (fs.zip state).map fun x => (codesOf x.1 x.2).map fun c => if x.1 = .f32 then c else (convert .f32 (decode x.1 c) .rne false 0).1
  let passes := (List.range 128).map fun p =>
    rulePass is (ruleStart (grSeed w) (grPgid w) hyp (blockLen * b + 64 * p) step ((g :: old).map fun xs => lanesAt xs (64 * p) 64))
  let mode : Rm := if grSr w then .sr else .rne
  ((List.range 3).map fun i =>
    let f := fs.getD i .f32
    (passes.mapIdx fun p r => (p, r.1.getD i 0)).flatMap fun pr => (List.range 64).flatMap fun e =>
      let c := field pr.2 (32 * e) 32
      leBytes (f.width / 8) (if f = .f32 then c else (convert f (decode .f32 c) mode false (pgNoise w (blockLen * b + 64 * pr.1 + e) step)).1),
    passes.foldl (fun a r => a ||| r.2.1) 0)

-- State pages (R416, R425) -----------------------------------------------------------------------------------------------------------------

/-- The basin's own read of a state array: whether a word of it is uncorrectable (R392). -/
def State.stateBad (s : State) (md asid a n : Nat) : State × Bool :=
  (linesIn a n).foldl (fun r l => let t := r.1.touchLine md asid l; (t.1, r.2 || t.2)) (s, false)

/-- The state of a block on a module, and whether it is uncorrectable. -/
def State.readBlock (s : State) (md : Nat) (g : PGroup) (b : Nat) : State × List (List Byte) × Bool :=
  let r := (grArrays g.words b 1).foldl (fun (r : State × Bool) x =>
    let t := r.1.stateBad md g.asid x.1 x.2
    (t.1, r.2 || t.2)) (s, false)
  (r.1, (grArrays g.words b 1).map fun x => memBytes r.1.mem (r.1.vkey md g.asid x.1) x.2, r.2)

/-- The state of a block is written on a module. -/
def State.writeBlock (s : State) (md : Nat) (g : PGroup) (b : Nat) (bytes : List (List Byte)) : State :=
  s.write (((grArrays g.words b 1).zip bytes).flatMap fun x => cellsOf (s.vkey md g.asid x.1.1) x.2)

/-- A block's home on a module is a sound frame from now on, for every reader: the errors of the old one are gone, and all its lines count by
themselves, whatever else the page records (R392, R425, R426). DEDUCED, unsafe (log entry 66). -/
def State.freshLines (s : State) (md : Nat) (g : PGroup) (b : Nat) : State :=
  let lines := (grArrays g.words b 1).flatMap fun x => linesIn x.1 x.2
  let keys := lines.map fun (l : Nat) => s.vkey md g.asid l / 64 * 64
  let c := s.ctx md g.asid
  { s with latent := s.latent.filter fun k => !keys.contains k }.setCtx md g.asid { c with pages := c.pages.map fun (p : Page) =>
    let new := lines.filter fun (l : Nat) => decide (p.va ≤ l) && decide (l < p.va + p.size) && !p.moved.contains l
    if new.isEmpty then p else { p with moved := new ++ p.moved } }

/-- State copied from module `src` to module `dst` takes along the errors of the lines that it comes from: they stand in the copy too, for a
read to find. DEDUCED, unsafe (log entry 66). -/
def State.carryErrors (s : State) (src dst asid a n : Nat) : State :=
  { s with latent := ((linesIn a n).filter fun l => (s.touchLine src asid l).2).map (fun l => s.vkey dst asid l / 64 * 64) ++ s.latent }

/-- The pages of a group's state become its own, or cease to be (R416). -/
def State.holdPages (s : State) (g : PGroup) (md : Nat) : State :=
  let c := s.ctx md g.asid
  let ars := grArrays g.words 0 (grNblk g.words)
  s.setCtx md g.asid { c with pages := c.pages.map fun (p : Page) =>
    if p.gone.isEmpty && ars.any (fun x => p.touches x.1 x.2) then { p with inf := p.inf + 1, basin := some (pgKey g.asid g.pgid) } else p }

def State.releasePages (s : State) (g : PGroup) : State :=
  let key := pgKey g.asid g.pgid
  s.ctxs.foldl (fun s x => if x.1 % 2048 = g.asid then
    x.2.pages.foldl (fun s p => if p.basin = some key then
      let c := s.ctx (x.1 / 2048) g.asid
      (s.setCtx (x.1 / 2048) g.asid (c.updPage p.va fun p => { p with inf := p.inf - 1, basin := none })).settle (x.1 / 2048) g.asid p.va
    else s) s else s) s

-- Publication (R428) -------------------------------------------------------------------------------------------------------------------------

/-- The weights of a group's blocks, as the basin reads them: an error in a line is found now, and the line's bytes are free (R392).
DEDUCED, unsafe (log entry 65). DESIGN CHOICE, safe (log entry 96). -/
def State.weights (s : State) (g : PGroup) (b n : Nat) : State × List Byte :=
  match grArrays g.words b n with
  | x :: _ =>
    let r := s.stateBad g.md g.asid x.1 x.2
    let key (l : Nat) : Nat := r.1.vkey g.md g.asid l
    (r.1, if r.2 then (linesIn x.1 x.2).flatMap fun l =>
        if (r.1.touchLine g.md g.asid l).2 then leBytes 64 (Config.lostLine s.tick l) else memBytes r.1.mem (key l) 64
      else memBytes r.1.mem (key x.1) x.2)
  | [] => (s, [])

/-- A newer publication replaces a delivery that waits (R429). -/
def Sub.renew (x : Sub) (p : Publication) : Sub := { x with due := some p, lag := if x.due.isSome then min (x.lag + 1) 0xFFFF else x.lag }

/-- Step 1 of R428: the gauge receives a partial per block and closes; the exponents of the generation closed. -/
def State.publishGauge (s : State) (g : PGroup) : State × Option (List Int) :=
  let gid := grGid g.words
  if gid = 0 then (s, none)
  else
    let s := (List.range (grNblk g.words)).foldl (fun s b =>
      let r := s.weights g b 1
      r.1.mergeNow g.md g.asid gid (partialOf .f32 (codes32 r.2))) s
    let c := s.ctx g.md g.asid
    let r := c.gauge gid
    if r.st = 1 then
      let r := r.close none s.tick
      (s.setCtx g.md g.asid (c.setGauge gid r), some r.sx)
    else (s, none)

/-- The group publishes step `step` with an outcome (R417, R428). -/
def State.publish (s : State) (g : PGroup) (step out : Nat) : State :=
  let r := s.publishGauge g
  let t := g.subs.foldl (fun (t : State × SMap Sub) x =>
    let y := t.1.weights g x.2.b0 x.2.nb
    (y.1, t.2 ++ [(x.1, x.2.renew { step := step, out := out, sx := r.2, w := y.2 })])) (r.1, [])
  let g := { g with
    cur := (step + 1) % 2 ^ 32, last := out, st := 1, sx := r.2, decided := none, abandoned := false
    job := if g.buddy.isSome ∧ out ≠ 0 then some { step := step, out := out, hyp := g.hyp, blks := g.now } else none
    acked := g.buddy.isNone || out == 0
    now := g.next, next := [], first := if g.next.isEmpty then none else some s.clock
    subs := t.2 }
  t.1.setPg g

-- Commit and recovery (R425) -------------------------------------------------------------------------------------------------------------------

/-- Spare frames in use at a basin. DEDUCED, unsafe (log entry 66). -/
def State.sparesUsed (s : State) (n : Nat) : Nat := s.basin.foldl (fun a x => if x.2.prim = n then a + x.2.spare.length else a) 0

/-- A block is committed: the group after it, and whether it could be. -/
def State.commitBlock (s : State) (g : PGroup) (b : Nat) : State × PGroup × Bool :=
  let grad := ((sget { nc := 0, got := [] } g.now b).reduce (grGf g.words)).1
  let r := s.readBlock g.md g b
  if !r.2.2 then
    let y := ruleBlock g.words g.hyp g.cur b grad r.2.1
    (r.1.writeBlock g.md g b y.1, { g with flg := g.flg ||| y.2 }, true)
  else
    let m := match g.buddy with
      | some n => if r.1.present (n / 2) && r.1.reachable g.md (n / 2) && g.lost != some n then
          let y := r.1.readBlock (n / 2) g b
          (y.1, if y.2.2 then none else some y.2.1) else (r.1, none)
      | none => (r.1, none)
    match m.2 with
    | none => (m.1.pgEvent g 0x123 0 b, g, false)
    | some st =>
      if m.1.sparesUsed g.prim ≥ 64 then (m.1.pgEvent g 0x123 0 b, g, false)
      else
        let y := ruleBlock g.words g.hyp g.cur b grad st
        let g := { g with flg := g.flg ||| y.2, spare := b :: g.spare.filter (· != b) }.tally 7
        ((((m.1.setPg g).freshLines g.md g b).writeBlock g.md g b y.1).pgEvent g 0x122 0 b, g, true)

/-- Step 3 of R427: a buddy that acts for a failed primary has published its first step, or halted: it is the primary, and BFAILOVER is posted. -/
def State.tookOver (s : State) (asid pgid : Nat) : State :=
  match s.pg asid pgid with
  | some g => if g.takeover.isSome then (s.setPg { g with takeover := none }).pgEvent g 0x124 g.prim 0 else s
  | none => s

/-- A delivered decision is carried out, once the buddy holds the step before (R425, R426, R428): every block is committed in
ascending order, and the step is published; a POISONED block halts the group. -/
def State.commitGroup (s : State) (g : PGroup) : State :=
  match g.decided with
  | none => s.setPg g
  | some out =>
    if !g.acked then s.setPg g
    else
      let r : State × PGroup × Bool := if out = 1 then
          (List.range (grNblk g.words)).foldl (fun r b => if r.2.2 then r.1.commitBlock r.2.1 b else r) (s, g, true)
        else (s, g, true)
      (if r.2.2 then r.1.publish r.2.1 g.cur out else r.1.setPg { r.2.1 with st := 5, decided := none }).tookOver g.asid g.pgid

-- Pushes and steps (R421 to R424) -----------------------------------------------------------------------------------------------------------------

/-- The primary decides a push (R421): its code, and the group after it. DEDUCED, unsafe (log entry 66). -/
def State.push (s : State) (g : PGroup) (step b ci ncm1 : Nat) (nf : Bool) (pay : List Byte) : Nat × PGroup :=
  let blks := if step = g.cur then g.now else g.next
  let old := blks.lookup b
  let blk : Blk := old.getD { nc := ncm1 + 1, got := [] }
  let later := step ≠ g.cur
  if g.st = 5 then (7, g)
  else if step < g.cur ∨ (step = g.cur ∧ g.abandoned) then (3, g.tally 3)
  else if step ≥ g.cur + 2 then (4, g.tally 4)
  else if b ≥ grNblk g.words ∨ blk.nc ≠ ncm1 + 1 then (6, g.tally 6)
  else if blk.got.any (fun c => c.ci == ci) then (2, g.tally 2)
  else if (later ∨ blk.ready < ci) ∧ s.basinLoad g.prim ≥ 256 then (5, g.tally 5)
  else
    let blk := { blk with got := { ci := ci, nf := nf, pay := pay } :: blk.got }
    if later then (1, { g with next := sset g.next b blk }.tally 1)
    else
      let g := { g with now := sset g.now b blk, first := if g.first.isNone then some s.clock else g.first }.tally 1
      (0, if g.st = 2 ∧ g.missing = 0 then { g with st := 3 } else g)

/-- The step closes (R423). DEDUCED, unsafe (log entry 66). -/
def State.closeStep (s : State) (g : PGroup) : State :=
  if g.missing = 0 then s.setPg { g with st := 3 }
  else if !grSkip g.words then s.setPg { g with st := 2, first := some s.clock }
  else
    (s.pgEvent g 0x121 0 g.cur).setPg ({ g with st := 3, now := [], abandoned := true }.tally 9)

/-- A group's primary is there: its module takes part, and has not lost what the basin held. -/
def State.primUp (s : State) (g : PGroup) : Bool := s.present g.md && g.lost != some g.prim

/-- BASIN_STEP_TMO (R423): TMO has passed in the current step of group ev.i of context ev.asid. -/
def execBasinStepTmo (s : State) : Out :=
  .next (match s.pg s.ev.asid s.ev.i with
    | none => s
    | some g =>
      let due : Bool := match g.first with
        | some t => grTmo g.words != 0 && decide (s.clock ≥ t + 1000 * grTmo g.words)
        | none => false
      if !due || !s.primUp g then s
      else if g.st = 1 then s.closeStep g
      else if g.st = 2 then (s.pgEvent g 0x120 (min g.missing 0xFFFF) g.cur).setPg { g with first := some s.clock }
      else s)

/-- The groups of a step set. -/
def State.stepSet (s : State) (asid ssid : Nat) : List PGroup :=
  (s.basin.map Prod.snd).filter fun g => g.asid == asid && grSsid g.words == ssid

/-- BASIN_DECISION (R424): every group of step set ev.i of context ev.asid is READY at one step, and the decision reaches every
primary. DEDUCED, unsafe (log entry 46). -/
def execBasinDecision (s : State) : Out :=
  let gs := s.stepSet s.ev.asid s.ev.i
  .next (match gs with
    | [] => s
    | g0 :: _ =>
      if gs.any (fun g => g.st != 3 || g.cur != g0.cur || !s.primUp g || !s.reachable g0.md g.md) then s
      else
        let nf := gs.any fun g => g.now.any fun x => x.2.full && (x.2.reduce (grGf g.words)).2
        gs.foldl (fun s g => s.commitGroup { g with
          st := 4, hyp := g.hypNext.getD g.hyp, hypNext := none, decided := some (if g.abandoned then 3 else if nf then 2 else 1) }) s)

-- The buddy (R426, R427) -----------------------------------------------------------------------------------------------------------------------------

/-- The buddy runs a published step on its mirror; a block whose mirror is uncorrectable is copied from the primary, where `copy`
says that the primary has it. Answers whether every block came out. -/
def State.mirrorStep (s : State) (g : PGroup) (bd : Nat) (copy : Bool) : State × Bool :=
  match g.job with
  | none => (s, true)
  | some j =>
    if j.out ≠ 1 then (s, true)
    else (List.range (grNblk g.words)).foldl (fun r b =>
      if !r.2 then r
      else
        let y := r.1.readBlock (bd / 2) g b
        if !y.2.2 then
          let grad := ((sget { nc := 0, got := [] } j.blks b).reduce (grGf g.words)).1
          (y.1.writeBlock (bd / 2) g b (ruleBlock g.words j.hyp j.step b grad y.2.1).1, true)
        else if copy then
          let z := y.1.readBlock g.md g b
          let s := (z.1.freshLines (bd / 2) g b).writeBlock (bd / 2) g b z.2.1
          (if z.2.2 then (grArrays g.words b 1).foldl (fun s x => s.carryErrors g.md (bd / 2) g.asid x.1 x.2) s else s, true)
        else (y.1.pgEvent { g with prim := bd } 0x123 0 b, false)) (s, true)

/-- A module takes part and another one reaches it. -/
def State.linked (s : State) (m n : Nat) : Bool := s.present m && s.present n && s.reachable m n

/-- A group's primary and its buddy are both there, and in reach of each other. -/
def State.tied (s : State) (g : PGroup) (bd : Nat) : Bool := s.linked g.md (bd / 2) && g.lost.isNone

/-- BUDDY_MIRROR_STEP (R426): the buddy of group ev.i of context ev.asid brings its mirror to the published step. -/
def execBuddyMirrorStep (s : State) : Out :=
  .next (match s.pg s.ev.asid s.ev.i with
    | none => s
    | some g => match g.buddy with
      | none => s
      | some bd => if g.job.isNone || !s.tied g bd then s else (s.mirrorStep g bd true).1.setPg { g with job := none })

/-- BASIN_BUDDY_ACK (R426): the buddy's acknowledgement of the published step reaches the primary, which may now commit the next. -/
def execBasinBuddyAck (s : State) : Out :=
  .next (match s.pg s.ev.asid s.ev.i with
    | none => s
    | some g => match g.buddy with
      | none => s
      | some bd => if g.acked || g.job.isSome || !s.tied g bd then s else s.commitGroup { g with acked := true })

/-- BFAILOVER (R427): the primary's module is lost to the buddy, or firmware isolates its basin (ev.val = 1): the buddy of group ev.i acts for
it, with none of its own. It commits the current step from its mirror once that is decided, publishes it, and then is the primary
(`tookOver`). DEDUCED, unsafe (log entries 46, 66). -/
def execBfailover (s : State) : Out :=
  .next (match s.pg s.ev.asid s.ev.i with
    | none => s
    | some g => match g.buddy with
      | none => s
      | some bd =>
        if !s.present (bd / 2) || g.lost == some bd || (s.linked (bd / 2) g.md && g.lost.isNone && s.ev.val != 1) then s
        else
          let r := s.mirrorStep g bd false
          let g := { g with prim := bd, buddy := none, spare := [], job := none, acked := true, lost := none, takeover := some g.prim }
          if r.2 then r.1.commitGroup g else (r.1.setPg { g with st := 5 }).tookOver g.asid g.pgid)

/-- BNOBUDDY (R427): the buddy of group ev.i is lost to the primary, or firmware isolates its basin (ev.val = 1). -/
def execBnobuddy (s : State) : Out :=
  .next (match s.pg s.ev.asid s.ev.i with
    | none => s
    | some g => match g.buddy with
      | none => s
      | some bd =>
        if !s.primUp g || (s.tied g bd && s.ev.val != 1) then s
        else
          let g := { g with buddy := none, job := none, acked := true, lost := none }
          (s.pgEvent g 0x125 bd 0).commitGroup g)

-- Subscriptions (R429) ---------------------------------------------------------------------------------------------------------------------------------

/-- The elements that a delivery writes, as bytes, and σ. -/
def Sub.content (x : Sub) (g : PGroup) (p : Publication) : List Byte × Int :=
  let f := (fmtOfCode x.ofmt).getD .f32
  let sg : Int := match f.isB8, p.sx with
    | true, some l => l.getD f.b8Index 0
    | _, _ => 0
  (((codes32 p.w).mapIdx fun e c => (e, c)).flatMap fun y =>
    leBytes (f.width / 8) (convert f ((decode .f32 y.2).scale sg) .rne false (pgNoise g.words (blockLen * x.b0 + y.1) p.step)).1, sg)

/-- The destination of a subscription: its length in bytes. -/
def Sub.len (x : Sub) : Nat := x.nb * blockLen * (((fmtOfCode x.ofmt).getD .f32).width / 8)

/-- A context holds the quad of a unit now. -/
def State.holdsUnit (s : State) (asid u : Nat) : Bool :=
  let gid := (s.quad (quadOf u)).grp
  gid != 0 && (s.group gid).asid == asid

/-- SUBSCRIPTION_DELIVERY (R429): the delivery of subscription ev.j of group ev.i of context ev.asid; a BSUB that waits for it completes
(R436); while the quads it writes to are not the context's, it waits (R324). DEDUCED, unsafe (log entry 66). -/
def execSubscriptionDelivery (s : State) : Out :=
  .next (match s.pg s.ev.asid s.ev.i with
    | none => s
    | some g => match g.subs.lookup s.ev.j with
      | none => s
      | some x => match x.due with
        | none => s
        | some p =>
          let dst : Range := ((x.dst : Int), x.len)
          if !s.primUp g || !s.linked g.md (modOf x.q.unit) || !([x.q.unit, x.dst / 2 ^ 20, x.stw / 2 ^ 20].all (s.holdsUnit g.asid)) || !s.allEngine [dst] then s
          else
            let y := x.content g p
            let s := (s.engWrite (cellsOf x.dst y.1)).1
            let s := (granules x.dst x.len).foldl (fun s a => s.setOwner (a * 4096) 1 false) s
            let word := p.step + p.out * 2 ^ 32 + wrapNat 8 y.2 * 2 ^ 40 + x.lag * 2 ^ 48
            let s := (s.healWords x.stw 8).write (cellsOf x.stw (leBytes 8 word))
            let s := s.setPg { g with subs := sset g.subs s.ev.j { x with due := none, lag := 0, wait := none } }
            match x.wait with
            | some d => s.answer x.q d (s.ev.j * 2 ^ 8)
            | none => s)

/-- Subscriptions end: a BSUB that waits for one of them issues again. -/
def State.cancelSubs (s : State) (l : List Sub) : State :=
  l.foldl (fun s x => if x.wait.isSome then s.setCtl x.q { s.ctl x.q with wait := false } else s) s

/-- A group ceases to be (R430). DEDUCED, unsafe (log entry 66). -/
def State.unregister (s : State) (g : PGroup) : State :=
  let s := (s.releasePages g).cancelSubs (g.subs.map Prod.snd)
  { s with basin := s.basin.filter fun x => x.1 != pgKey g.asid g.pgid }

/-- The context of an ASID on a module enters KILLING (R430). -/
def State.killBasins (s : State) (md asid : Nat) : State :=
  ((s.basin.map Prod.snd).filter fun g => g.asid == asid && ((g.md == md && g.lost != some g.prim) || (match g.buddy with
    | some b => b / 2 == md && g.lost != some b
    | none => false))).foldl State.unregister s

-- The basin instructions (R431 to R434) --------------------------------------------------------------------------------------------------------------------

/-- An instruction that only a QU issues (R131). -/
def onQu (s : State) (f : SeqId → State) : Out := .next (if s.cur.kind = .qu then f s.cur else s.illegal s.cur)

/-- A request to a group's primary: k[D] ← 8 where no such group is registered; the stream waits while the primary cannot be
reached. -/
def State.askBasin (s : State) (q : SeqId) (d : BitVec 5) (pgid : Nat) (f : PGroup → State) : State :=
  match s.pg (s.asidOf q) pgid with
  | none => s.finK q d 8
  | some g => if s.primUp g && s.reachable (modOf q.unit) g.md then f g else s

/-- The buddy of a group cannot be reached from its primary: what needs its receipt waits for BNOBUDDY (R421, R427, R431). -/
def State.buddyAway (s : State) (g : PGroup) : Bool :=
  match g.buddy with
  | some b => !s.tied g b
  | none => false

/-- The check of a payload or buffer of `n` elements of `sz` bytes that must lie in one unit. -/
def State.payCheck (s : State) (q : SeqId) (a n sz : Nat) : Option Trap :=
  match s.cause15 q a sz with
  | some c => some { code := tcAddr, addr := a, info := c }
  | none =>
    let size := if a / 2 ^ 20 % 8 < 4 then 0x80000 else 2 ^ 20
    if a % 2 ^ 20 + n * sz > size then some { code := tcAddr, addr := a, info := 3 } else none

/-- BPUSH (R420, R421, R431); a push that is kept waits for the buddy's receipt. -/
def execBpush (d a : BitVec 5) (s : State) : Out :=
  onK s fun q =>
    let ea := (s.getK q a).toNat
    match s.recCheck q ea 32 with
    | some t => s.trapRead q t ea 32
    | none =>
      let w := s.words q ea 4
      let pgid := grF w 0 0 20
      let ci := grF w 2 0 12
      let ncm1 := grF w 2 12 12
      let pay := (w.getD 3 0).toNat
      if grF w 0 21 43 ≠ 0 ∨ grF w 1 52 12 ≠ 0 ∨ grF w 2 24 40 ≠ 0 ∨ ci > ncm1 ∨ pgid = 0 then s.trap q { code := tcOpnd }
      else match s.pg (s.asidOf q) pgid with
        | none => s.finK q d 8
        | some g =>
          let sz := (grGf g.words).width / 8
          match (match s.payCheck q pay blockLen sz with
            | some t => some t
            | none => firstSome (fun i => s.readCheck q (pay + sz * i) sz sz) (List.range blockLen)) with
          | some t => s.trapRead q t pay (blockLen * sz)
          | none => s.askBasin q d pgid fun g =>
            let r := s.push g (grF w 1 0 32) (grF w 1 32 20) ci ncm1 (grF w 0 20 1 == 1) (s.bytes q pay (blockLen * sz))
            if r.1 < 2 && s.buddyAway g then s else (s.setPg r.2).finK q d (BitVec.ofNat 64 r.1)

/-- BCLOSE (R423, R431). -/
def execBclose (d a b : BitVec 5) (s : State) : Out :=
  onQu s fun q =>
    let pgid := (s.getK q a).toNat
    let step := (s.getK q b).toNat
    if pgid ≥ 2 ^ 20 ∨ step ≥ 2 ^ 32 then s.trap q { code := tcOpnd }
    else s.askBasin q d pgid fun g =>
      if g.st = 5 then s.finK q d 7
      else if step ≠ g.cur then s.finK q d 2
      else if g.st ≠ 1 then s.finK q d 1
      else (s.closeStep g).finK q d 0

/-- A subscription is made, and receives the latest publication (R429). DEDUCED, unsafe (log entry 66). -/
def State.subscribe (s : State) (q : SeqId) (d : BitVec 5) (g : PGroup) (w : List Word) : State :=
  match (span 1 64).find? fun i => (g.subs.lookup i).isNone with
  | none => s.finK q d 5
  | some i =>
    let x : Sub := { q := q, ofmt := grF w 0 20 6, b0 := grF w 1 0 20, nb := grF w 1 20 20, dst := (w.getD 2 0).toNat
                     stw := (w.getD 3 0).toNat, due := none, lag := 0, wait := some d }
    let y := s.weights g x.b0 x.nb
    let s := y.1
    let x := x.renew { step := (g.cur + 2 ^ 32 - 1) % 2 ^ 32, out := g.last, sx := g.sx, w := y.2 }
    (s.setPg { g with subs := sset g.subs i x }).setCtl q { s.ctl q with wait := true }

/-- BSUB (R429, R431, R433). DEDUCED, unsafe (log entry 50). -/
def execBsub (d a b : BitVec 5) (s : State) : Out :=
  onK s fun q =>
    let ea := (s.getK q a).toNat
    let id := (s.getK q b).toNat
    if (s.ctl q).wait then s
    else if id > 64 then s.trap q { code := tcOpnd }
    else if id ≠ 0 then s.askBasin q d ea fun g =>
      if g.st = 5 then s.finK q d 7
      else match g.subs.lookup id with
        | none => s.finK q d 9
        | some x => ((s.cancelSubs [x]).setPg { g with subs := sdel g.subs id }).finK q d (BitVec.ofNat 64 (id * 2 ^ 8))
    else match s.recCheck q ea 32 with
      | some t => s.trapRead q t ea 32
      | none =>
        let w := s.words q ea 4
        let f := fmtOfCode (grF w 0 20 6)
        let fmtOk := match f with
          | some f => f == .f32 || f == .bf16 || f == .f16 || f.isB8
          | none => false
        let sz := (f.getD .f32).width / 8
        let b0 := grF w 1 0 20
        let nb := grF w 1 20 20
        let g := s.pg (s.asidOf q) (grF w 0 0 20)
        let bad : Bool := match g with
          | some g => ((f.getD .f32).isB8 && grGid g.words == 0) || decide (b0 + nb > grNblk g.words)
          | none => false
        let stw := (w.getD 3 0).toNat
        if grF w 0 26 38 ≠ 0 ∨ grF w 1 40 24 ≠ 0 ∨ !fmtOk ∨ nb = 0 ∨ bad then s.trap q { code := tcOpnd }
        else match s.payCheck q (w.getD 2 0).toNat (nb * blockLen) sz with
          | some t => s.trap q t
          | none => match s.cause15 q stw 8 with
            | some c => s.trap q { code := tcAddr, addr := stw, info := c }
            | none => s.askBasin q d (grF w 0 0 20) fun g => if g.st = 5 then s.finK q d 7 else s.subscribe q d g w

/-- A module's pages do not serve a group's state (R432, code 2). -/
def State.stateUnfit (s : State) (w : List Word) (asid md : Nat) : Bool :=
  (grArrays w 0 (grNblk w)).any fun x =>
    s.runCode md asid x.1 x.2 true true != 0
      || ((s.ctx md asid).pagesOf [x]).any fun p => match p.2 with
        | some p => p.tier != 1 || !p.r || !p.w
        | none => true

/-- Groups that a basin holds, as primary or as buddy. -/
def State.basinHolds (s : State) (n : Nat) : Nat := (s.basin.filter fun x => x.2.prim == n || x.2.buddy == some n).length

/-- The code of a registration (R432). DEDUCED, unsafe (log entry 64). -/
def State.registerCode (s : State) (q : SeqId) (w : List Word) : Nat :=
  let asid := s.asidOf q
  let md := modOf q.unit
  let p := grPrim w
  let b := grBuddy w
  let away (n : Nat) : Bool := !s.present (n / 2) || !s.reachable md (n / 2)
  if (s.pg asid (grPgid w)).isSome then 1
  else if away p || away b then 5
  else if s.basinHolds p ≥ 4096 ∨ s.basinHolds b ≥ 4096 then 6
  else if s.stateUnfit w asid (p / 2) || s.stateUnfit w asid (b / 2) then 2
  else if grGid w ≠ 0 ∧ ((s.ctx (p / 2) asid).gauge (grGid w)).st ≠ 1 then 3
  else if (s.stepSet asid (grSsid w)).any (fun g => g.cur != grStep0 w) then 4
  else 0

/-- Registration (R416, R417): the state is copied to the mirror, the pages are held, and the initial state is published. -/
def State.register (s : State) (q : SeqId) (w : List Word) : State :=
  let g : PGroup := { asid := s.asidOf q, words := w, st := 1, prim := grPrim w, buddy := some (grBuddy w), hyp := grHyp w, hypNext := none
                      cur := grStep0 w, last := 0, now := [], next := [], first := none, abandoned := false, decided := none, job := none
                      acked := true, counts := [], flg := 0, spare := [], subs := [], sx := none }
  let s := (s.holdPages g g.md).holdPages g (grBuddy w / 2)
  let s := (grArrays w 0 (grNblk w)).foldl (fun s x =>
    let r := s.stateBad g.md g.asid x.1 x.2
    let s := (r.1.pageWrite (grBuddy w / 2) g.asid [(x.1, memBytes r.1.mem (r.1.vkey g.md g.asid x.1) x.2)]).1
    if r.2 then s.carryErrors g.md (grBuddy w / 2) g.asid x.1 x.2 else s) s
  s.publish g ((grStep0 w + 2 ^ 32 - 1) % 2 ^ 32) 0

/-- BRULE (R415, R417, R431, R432); a gauge id beyond the context's table traps before any code is tested (R97). DEDUCED, unsafe (log entry 78). -/
def execBrule (d a b : BitVec 5) (s : State) : Out :=
  onQu s fun q =>
    let ea := (s.getK q a).toNat
    let form := (s.getK q b).toNat
    if form ≥ 3 then s.trap q { code := tcOpnd }
    else if form = 1 then
      if ea ≥ 2 ^ 20 then s.trap q { code := tcOpnd } else s.askBasin q d ea fun g => (s.unregister g).finK q d 0
    else match s.recCheck q ea 384 with
      | some t => s.trapRead q t ea 384
      | none =>
        let w := s.words q ea 48
        if form = 2 then s.askBasin q d (grPgid w) fun g =>
          if g.st = 5 then s.finK q d 7
          else if s.buddyAway g then s
          else (s.setPg { g with hypNext := some (grHyp w) }).finK q d 0
        else if !grOk w then s.trap q { code := tcOpnd }
        else if grGid w ≥ 2 ^ (s.ctxOf q).gtsz then s.trap q { code := tcGaugeId }
        else
          let code := s.registerCode q w
          (if code = 0 then s.register q w else s).finK q d (BitVec.ofNat 64 code)

/-- An item of BSTAT (R434). -/
def PGroup.item (g : PGroup) (i : Nat) : Nat :=
  if i = 0 then g.cur + g.st * 2 ^ 32 + g.last * 2 ^ 35 + (if g.buddy.isNone && g.takeover.isNone then 2 ^ 37 else 0)
    + g.takeover.getD g.prim * 2 ^ 38
  else if i = 8 then g.flg
  else sget 0 g.counts i

/-- BSTAT (R431, R434): a group that is not registered shows zero. DEDUCED, unsafe (log entry 66). -/
def execBstat (d a b : BitVec 5) (s : State) : Out :=
  onK s fun q =>
    let i := (s.getK q b).toNat
    if i ≥ 10 then s.trap q { code := tcOpnd }
    else match s.pg (s.asidOf q) (s.getK q a).toNat with
      | none => s.finK q d 0
      | some g => if s.primUp g && s.reachable (modOf q.unit) g.md then s.finK q d (BitVec.ofNat 64 (g.item i)) else s

end Sys2Proof.Machine
end

