-- ==== Sys2Proof/Machine/Queue.lean ====
section
/-! DEFINITION. The host command queues and the event log: records, appends, the scheduler's choice, the records that name no
context or kernel, and the queue instructions (spec 14, R328 to R336, R345 to R348). -/

namespace Sys2Proof.Machine

open Sys2Proof

def Hub.queue (h : Hub) (q : Nat) : HostQ := sget .init h.queues q
def State.hostQ (s : State) (md q : Nat) : HostQ := (s.hub md).queue q
def State.setHostQ (s : State) (md q : Nat) (x : HostQ) : State :=
  let h := s.hub md
  s.setHub md { h with queues := sset h.queues q x }

/-- The context of a queue; queue 0 has none (R334). -/
def HostQ.ctx (x : HostQ) (q : Nat) : Option Nat := if q = 0 ∨ x.st = 0 then none else some x.asid

-- Completion (R331) ------------------------------------------------------------------------------------------------------------

/-- A record completes: it counts in DONE of its own binding, and posts QDONE under EVT. DEDUCED, unsafe (log entry 54). -/
def State.complete (s : State) (md : Nat) (r : Rec) : State :=
  let x := s.hostQ md r.q
  let s := s.setHostQ md r.q { x with pend := x.pend.filter (· != r.id), done := if x.epoch = r.epoch then x.done + 1 else x.done }
  if r.evt then s.post md 1 r.asid (srcQueue r.q) 0 r.utag else s

-- The states of a context, as they are reported (R447) ---------------------------------------------------------------------------

/-- A CTXSTATE event for the state a context enters. -/
def State.ctxEvent (s : State) (md asid : Nat) (st : CtxState) (why kcode : Nat) : State :=
  s.post md 0x10 (some asid) (srcHub 0) st.code (why + kcode * 2 ^ 16)

/-- A refused request. -/
def State.ctxRefuse (s : State) (md asid : Nat) (req cause : Nat) : State :=
  s.post md 0x10 (some asid) (srcHub 0) (s.ctx md asid).st.code (req + cause * 2 ^ 8 + 2 ^ 63)

/-- A context enters a state, `say` reports it, and the records that wait for that state complete. -/
def State.shiftCtx (s : State) (md asid : Nat) (st : CtxState) (say : State → State) : State :=
  let c := s.ctx md asid
  let due := c.waiting.filter fun w => w.2 == st
  due.foldl (fun s w => s.complete md w.1) (say (s.setCtx md asid { c with st := st, waiting := c.waiting.filter fun w => w.2 != st }))

/-- A context enters a state on its way through R311, which is reported (R447). -/
def State.enterCtx (s : State) (md asid : Nat) (st : CtxState) (why kcode : Nat) : State :=
  s.shiftCtx md asid st fun s => s.ctxEvent md asid st why kcode

/-- A context becomes RUNNING with its first group, or READY with the end of its last one: R311 gives these moves no event, and the log of R396
holds none. DEDUCED, unsafe (log entry 85). -/
def State.moveCtx (s : State) (md asid : Nat) (st : CtxState) : State := s.shiftCtx md asid st id

-- Reading records (R330, R333) ------------------------------------------------------------------------------------------------------

/-- A read of one aligned piece of a line by the queue unit, or its code of R159: at a bus address for queue 0, else in the bound
context. DEDUCED, unsafe (log entry 54). -/
def State.hubRead (s : State) (md q a n : Nat) (wr : Bool) : Except Nat Nat :=
  if q = 0 then .ok (memNat s.mem (hostKey md a) n)
  else
    let asid := (s.hostQ md q).asid
    let code := s.runCode md asid a n (!wr) wr
    if code ≠ 0 then .error code
    else if !wr && (s.touchLine md asid a).2 then .error 5
    else .ok (memNat s.mem (s.vkey md asid a) n)

def recKind (w : List Word) : Nat := field (w.getD 0 0).toNat 0 8
def recEvt (w : List Word) : Bool := bitAt (w.getD 0 0).toNat 8
def recWait (w : List Word) : Bool := bitAt (w.getD 0 0).toNat 9
def recUtag (w : List Word) : Nat := field (w.getD 0 0).toNat 32 32
/-- Operand word i of a record. -/
def recOp (w : List Word) (i : Nat) : Nat := (w.getD i 0).toNat

/-- Operand words of each kind (R331). -/
def recUses : List Nat := [0, 1, 1, 2, 1, 3, 2, 1, 5, 3, 2, 1]

/-- Launch words (R331). -/
def kwKernel (kw : Nat) : Nat := field kw 0 32
def kwQuads (kw : Nat) : Nat := field kw 32 10
def kwOk (kw : Nat) : Bool := decide (kw < 2 ^ 42) && decide (1 ≤ kwQuads kw) && decide (kwQuads kw ≤ 512)

/-- Check 2 of R333. -/
def recOk (w : List Word) : Bool :=
  let k := recKind w
  decide (k < 12) && field (w.getD 0 0).toNat 10 22 == 0
    && ((List.range 6).all fun i => decide (i < recUses.getD k 0) || recOp w (i + 1) == 0)
    && (match k with
      | 2 | 3 | 4 => decide (recOp w 1 < 2048)
      | 5 => decide (1 ≤ recOp w 1) && decide (recOp w 1 ≤ 63) && decide (recOp w 2 < 2048) && decide (recOp w 3 < 512)
          && field (recOp w 3) 2 2 == 0
      | 8 => kwOk (recOp w 1)
      | 9 => recOp w 1 % 8 == 0 && decide (recOp w 3 < 4)
      | 10 => recOp w 1 % 8 == 0
      | _ => true)

/-- Check 3 of R333. -/
def kindAllowed (q k : Nat) : Bool := if 1 ≤ k ∧ k ≤ 5 then q == 0 else if 6 ≤ k ∧ k ≤ 8 then q != 0 else true

/-- How the head of a queue stands: there is none; it fails R333 with ERR and PCODE; it is blocked (R334); it can start. -/
inductive Fate where
  | none
  | bad (err pcode : Nat)
  | blocked
  | ready (w : List Word)
deriving DecidableEq, Repr

/-- The words of a record at an address. -/
def wordsOfNat (v : Nat) (n : Nat) : List Word := (List.range n).map fun i => BitVec.ofNat 64 (v / 2 ^ (64 * i))

/-- The head of a queue, read and checked (R333, R334). DEDUCED, unsafe (log entry 54). -/
def State.headFate (s : State) (md q : Nat) : Fate :=
  let x := s.hostQ md q
  if x.st ≠ 1 then .none
  else match x.recs with
    | [] => .none
    | r :: _ => match s.hubRead md q r.addr 64 false with
      | .error code => .bad 2 code
      | .ok v =>
        let w := wordsOfNat v 8
        let k := recKind w
        if r.addr % 64 ≠ 0 ∨ !recOk w then .bad 1 0
        else if !kindAllowed q k then .bad 3 0
        else match if k = 9 ∨ k = 10 then s.hubRead md q (recOp w 1) 8 (k == 10) else .ok 0 with
          | .error code => .bad 2 code
          | .ok _ =>
            let st := (s.ctx md x.asid).st
            if (recWait w && !x.pend.isEmpty) || (k == 8 && (st == .yielding || st == .saved)) || (k == 9 && x.polled) then .blocked
            else .ready w

-- The scheduler (R335, R336) ---------------------------------------------------------------------------------------------------------

def Ctx.kernel (c : Ctx) (n : Nat) : Kernel := sget .none c.kernels n
def Ctx.setKernel (c : Ctx) (n : Nat) (k : Kernel) : Ctx := { c with kernels := sset c.kernels n k }

/-- The groups of a context on a module that stand in one of the states. -/
def State.groupsIn (s : State) (md asid : Nat) (f : GState → Bool) : List (Nat × Group) :=
  s.groups.filter fun x => x.2.md == md && x.2.asid == asid && f x.2.st

def GState.alive (g : GState) : Bool := g == .pending || g == .starting || g == .running

/-- A quad can be taken: no group holds it, and its hardware is sound. -/
def State.quadFree (s : State) (md qn : Nat) : Bool :=
  (s.quad (quadIx md qn)).grp == 0 && !((s.hub md).broken.any fun u => qnOf u == qn) && !(s.hub md).dark

/-- QB: the lowest quad number at which nq quads are free. -/
def State.placeGroup (s : State) (md nq : Nat) : Option Nat :=
  (List.range (513 - nq)).find? fun b => (span b nq).all (s.quadFree md)

/-- A launch's kernel and shape are refused (R274, R448): the cause. -/
def Ctx.launchCause (c : Ctx) (kw : Nat) : Option Nat :=
  let k := c.kernel (kwKernel kw)
  if !(k.st == .loaded || k.st == .active) then some 1
  else if kwQuads kw < k.qmin ∨ kwQuads kw > k.qmax then some 2
  else none

/-- A launch finds too few free quads (R336). -/
def State.lacks (s : State) (md asid kw : Nat) : Bool :=
  ((s.ctx md asid).launchCause kw).isNone && (s.placeGroup md (kwQuads kw)).isNone

/-- A context may have one more group (R353). DEDUCED, unsafe (log entry 56). -/
def State.hasRoom (s : State) (md asid : Nat) : Bool := decide ((s.groupsIn md asid GState.alive).length < 1024)

/-- A launch of this context can start a group (R311). DEDUCED, unsafe (log entry 56). -/
def State.launchable (s : State) (md asid : Nat) : Bool :=
  let st := (s.ctx md asid).st
  st == .ready || st == .running

/-- The table entries with a due launch that can start, lowest first. -/
def State.dueEntries (s : State) (md : Nat) : List Nat :=
  ((s.hub md).tt.filter fun x => match x.2.due with
    | some d => s.launchable md d.owner && s.hasRoom md d.owner
    | none => false).map Prod.fst

/-- The head of a queue, where the scheduler may start it or stop the queue for it: a launch only while its context has room. -/
def State.headWords (s : State) (md q : Nat) : Option (List Word) :=
  match s.headFate md q with
  | .bad _ _ => some []
  | .ready w => if recKind w = 8 ∧ !s.hasRoom md (s.hostQ md q).asid then none else some w
  | _ => none

/-- The launch of a queue or of QF that holds the scheduler, while it can still be started (R336). -/
def State.holding (s : State) (md : Nat) : Option LRef :=
  match (s.hub md).held with
  | some (.queue q) => match s.headWords md q with
    | some w => if recKind w = 8 then some (.queue q) else none
    | none => none
  | some (.table _) => none
  | some (.group g) => if (s.hub md).pending.any (fun l => l.gid == g && s.launchable md l.asid) then some (.group g) else none
  | none => none

/-- The place that QF launches of a level take in the round, after queue 63. DEDUCED, unsafe (log entry 56). -/
def qfTurn : Nat := 64

/-- What a place of a level's round could start: a record, or the oldest launch by QF; of the launches only those that `ok` lets start. -/
def State.turnRef (s : State) (md lvl : Nat) (ok : LRef → Bool) (q : Nat) : Option LRef :=
  if q = qfTurn then
    ((s.hub md).pending.find? fun l => l.level == lvl && s.launchable md l.asid && ok (.group l.gid)).map fun l => LRef.group l.gid
  else if (s.hostQ md q).pri ≠ lvl then none
  else match s.headWords md q with
    | some w => if recKind w = 8 ∧ !ok (.queue q) then none else some (.queue q)
    | none => none

/-- The weight of a place. -/
def Hub.weight (h : Hub) (q : Nat) : Nat := if q = qfTurn then 1 else (h.queue q).wtm1 + 1

/-- The order of a level's places: the one in turn while its weight lasts, then the following ones, round again. DEDUCED, unsafe (log entry 56). -/
def Hub.order (h : Hub) (lvl : Nat) : List Nat :=
  let t := sget (1, 0) h.rr lvl
  let rest := span (t.1 + 1) (qfTurn - t.1) ++ span 1 t.1
  if t.2 < h.weight t.1 then t.1 :: rest else rest

/-- A launch finds too few free quads, by its place. -/
def State.refLacks (s : State) (md : Nat) (r : LRef) : Bool :=
  match r with
  | .queue q => match s.headFate md q with
    | .ready w => s.lacks md (s.hostQ md q).asid (recOp w 1)
    | _ => false
  | .table e => match (sget TTEntry.zero (s.hub md).tt e).due with
    | some d => s.lacks md d.owner (d.words.getD 3 0).toNat
    | none => false
  | .group g => match (s.hub md).pending.find? fun l => l.gid == g with
    | some l => s.lacks md l.asid l.kw
    | none => false

/-- The scheduler's choice among the heads of queues 1 to 63 and the launches by QF (R335), of the launches only those of `ok`. -/
def State.pickLevel (s : State) (md : Nat) (ok : LRef → Bool) : Option LRef :=
  firstSome (fun lvl => firstSome (s.turnRef md lvl ok) ((s.hub md).order lvl)) (List.range 4)

/-- The scheduler's choice (R335, R336): the head of queue 0; else the lowest due launch of the table, unless it waits for quads, when no
launch but a lower entry's may pass it; else by level, where a launch that waits for quads lets no other launch pass.
DEDUCED, unsafe (log entry 56). -/
def State.chosen (s : State) (md : Nat) : Option LRef :=
  match s.headFate md 0 with
  | .bad _ _ | .ready _ => some (.queue 0)
  | _ => match (s.dueEntries md).head? with
    | some e => if s.refLacks md (.table e) then s.pickLevel md fun _ => false else some (.table e)
    | none => match s.holding md with
      | some r => s.pickLevel md fun x => decide (x = r) && !s.refLacks md r
      | none => s.pickLevel md fun _ => true

/-- A start at a place of a level counts towards its weight. -/
def State.countTurn (s : State) (md lvl q : Nat) : State :=
  let h := s.hub md
  let t := sget (1, 0) h.rr lvl
  s.setHub md { h with rr := sset h.rr lvl (if t.1 = q ∧ t.2 < h.weight q then (q, t.2 + 1) else (q, 1)) }

/-- The head of a queue starts (R332 to R335). DEDUCED, unsafe (log entry 55). -/
def State.startRec (s : State) (md q : Nat) (w : List Word) : Rec × State :=
  let x := s.hostQ md q
  let r : Rec := { q := q, epoch := x.epoch, id := s.ids, evt := recEvt w, utag := recUtag w, asid := x.ctx q }
  let pins := match x.recs with
    | y :: _ => y.pins
    | [] => []
  let s := { s with ids := s.ids + 1 }.setHostQ md q
    { x with recs := x.recs.drop 1, started := x.started + 1, pend := x.pend ++ [r.id], polled := false }
  let s := if q = 0 then s else s.countTurn md x.pri q
  (r, s.unpin x.asid pins)

/-- A read that the queue unit makes of a line, where it translates: whether its error is known, and the error that it finds (R392). -/
def State.hubFinds (s : State) (md q a n : Nat) : State × Bool :=
  let asid := (s.hostQ md q).asid
  if s.runCode md asid a n true false = 0 then s.touchLine md asid a else (s, false)

/-- The head fails R333: the queue stops. The error that its reads found, of the record or of the word that a WAITV names, is recorded. -/
def State.stopQueue (s : State) (md q err pcode : Nat) : State :=
  let x := s.hostQ md q
  let s := if err = 2 ∧ pcode = 5 ∧ q ≠ 0 then match x.recs with
      | [] => s
      | r :: _ =>
        let t := s.hubFinds md q r.addr 64
        let w := wordsOfNat (memNat s.mem (s.vkey md x.asid r.addr) 64) 8
        if !t.2 && recKind w == 9 then (t.1.hubFinds md q (recOp w 1) 8).1 else t.1
    else s
  (s.setHostQ md q { s.hostQ md q with st := 4, err := err, pcode := pcode }).post md 2 (x.ctx q) (srcQueue q) err x.started

/-- A step of the scheduler at queue ev.i of module ev.md, where it chooses that queue: a head that fails its checks stops the queue;
a record of the step's kind does `f`. -/
def onHead (s : State) (kind : Nat) (f : Nat → Nat → List Word → State) : Out :=
  let md := s.ev.md
  let q := s.ev.i
  .next <|
    if s.chosen md ≠ some (.queue q) then s
    else match s.headFate md q with
      | .bad err pcode => s.stopQueue md q err pcode
      | .ready w => if recKind w = kind then f md q w else s
      | _ => s

/-- A record that starts at once; `f` tells what comes of it. -/
def onRecord (s : State) (kind : Nat) (f : State → Nat → Rec → List Word → State) : Out :=
  onHead s kind fun md q w => let r := s.startRec md q w; f r.2 md r.1 w

/-- A record that starts and completes at once. -/
def onRecordDone (s : State) (kind : Nat) (f : State → Nat → Rec → List Word → State) : Out :=
  onRecord s kind fun s md r w => (f s md r w).complete md r

def execCmdNop (s : State) : Out := onRecordDone s 0 fun s _ _ _ => s

def execCmdEvent (s : State) : Out :=
  onRecordDone s 0x0B fun s md r w => s.post md 4 r.asid (srcQueue r.q) 0 (recOp w 1)

/-- The condition of a WAITV (R331). -/
def waitvHolds (rel v x : Nat) : Bool :=
  if rel = 0 then v == x else if rel = 1 then v != x else if rel = 2 then decide (v ≥ x) else decide (v < x)

def State.waitvTrue (s : State) (md q : Nat) (w : List Word) : Bool :=
  match s.hubRead md q (recOp w 1) 8 false with
  | .ok v => waitvHolds (recOp w 3) v (recOp w 2)
  | .error _ => false

/-- WAITV: it starts and completes when its condition holds; otherwise its queue is BLOCKED. -/
def execWaitv (s : State) : Out :=
  onHead s 9 fun md q w =>
    if s.waitvTrue md q w then let r := s.startRec md q w; r.2.complete md r.1
    else s.setHostQ md q { s.hostQ md q with polled := true }

/-- WAITV_POLL: the blocked WAITV at the head of queue ev.i re-reads its word; once its condition holds, the queue is ACTIVE. -/
def execWaitvPoll (s : State) : Out :=
  let md := s.ev.md
  let q := s.ev.i
  let x := s.hostQ md q
  let s' := s.setHostQ md q { x with polled := false }
  .next (match s'.headFate md q with
    | .ready w => if x.polled && (recKind w != 9 || s.waitvTrue md q w) then s' else s
    | _ => s)

/-- WRITEV: one aligned 8-byte write that performs at every scope. -/
def execWritev (s : State) : Out :=
  onRecordDone s 0x0A fun s md r w =>
    let a := recOp w 1
    let bs := leBytes 8 (recOp w 2)
    match r.asid with
    | none => s.write (cellsOf (hostKey md a) bs)
    | some asid => (s.pageWrite md asid [(a, bs)]).1

-- Binding (R334) ------------------------------------------------------------------------------------------------------------------------

/-- Unstarted records are discarded; their pages are no longer pinned, and a held launch among them holds nothing. -/
def State.discard (s : State) (md q : Nat) : State :=
  let x := s.hostQ md q
  let h := s.hub md
  let s := s.setHub md { h with held := if h.held = some (.queue q) then none else h.held }
  x.recs.foldl (fun s r => s.unpin x.asid r.pins) (s.setHostQ md q { x with recs := [], polled := false })

/-- A queue becomes UNBOUND. DEDUCED, unsafe (log entry 54). -/
def State.unbind (s : State) (md q : Nat) : State :=
  let s := s.discard md q
  s.setHostQ md q { s.hostQ md q with st := 0 }

/-- A queue becomes IDLE for a context, its counters zero. -/
def State.bind (s : State) (md q asid pri wtm1 : Nat) : State :=
  let s := s.discard md q
  let x := s.hostQ md q
  s.setHostQ md q { x with st := 1, asid := asid, pri := pri, wtm1 := wtm1, app := 0, started := 0, done := 0, err := 0, pcode := 0
                           epoch := x.epoch + 1 }

def execQbind (s : State) : Out :=
  onRecordDone s 5 fun s md _ w =>
    let q := recOp w 1
    let asid := recOp w 2
    let pri := field (recOp w 3) 0 2
    let wtm1 := field (recOp w 3) 4 4
    let x := s.hostQ md q
    let st := (s.ctx md asid).st
    if bitAt (recOp w 3) 8 then (if x.st = 0 then s else s.unbind md q)
    else if st = .free ∨ st = .killing ∨ st = .dead then s.ctxRefuse md asid 5 1
    else if x.st = 1 ∧ x.asid = asid then s.setHostQ md q { x with pri := pri, wtm1 := wtm1 }
    else s.bind md q asid pri wtm1

-- Appends (R332) and registers (R329, R347) -----------------------------------------------------------------------------------------------

/-- NEXT of a record takes an address; a record whose page is gone or sealed is left alone. DEDUCED, unsafe (log entry 55). -/
def State.linkRec (s : State) (md q rec next : Nat) : State :=
  let a := rec + 56
  if q = 0 then s.write (cellsOf (hostKey md a) (leBytes 8 next))
  else
    let asid := (s.hostQ md q).asid
    match s.homeNow md asid a with
    | some (m, _) => if s.sealedAt asid m a 8 then s else (s.pageWrite md asid [(a, leBytes 8 next)]).1
    | none => s

/-- An append (R332, R334): APP after it, or 0 where it is discarded with an APPERR event. DEDUCED, unsafe (log entry 55). -/
def State.append (s : State) (md q : Nat) (r : QRec) : Nat × State :=
  let x := s.hostQ md q
  if x.st ≠ 1 then (0, s.post md 3 (x.ctx q) (srcQueue q) x.st r.addr)
  else
    let s := match x.recs.getLast? with
      | some l => s.linkRec md q l.addr r.addr
      | none => s
    (x.app + 1, s.setHostQ md q { x with recs := x.recs ++ [r], app := x.app + 1 })

/-- The host appends the record at an address to a queue (R332). -/
def State.hostAppend (s : State) (md q a : Nat) : State :=
  if (s.hub md).power = .ready ∧ q < 64 then (s.append md q { addr := a, pins := [] }).2 else s

/-- APPEND: the host appends the record at ev.addr to queue ev.i. -/
def execAppend (s : State) : Out := .next (s.hostAppend s.ev.md s.ev.i s.ev.addr)

/-- The host has read the log up to EVRD: the ids of REFUSED kernels whose event it has read are free (R274). -/
def State.freeRefused (s : State) (md : Nat) : State :=
  let h := s.hub md
  let read := h.noted.filter fun x => decide (x.1 ≤ h.evrd)
  let s := s.setHub md { h with noted := h.noted.filter fun x => decide (x.1 > h.evrd) }
  read.foldl (fun s x =>
    let c := s.ctx md x.2.1
    if (c.kernel x.2.2).st == .refused then s.setCtx md x.2.1 { c with kernels := c.kernels.filter (·.1 != x.2.2) } else s) s

/-- The host has consumed `v` records of the event log (R347). -/
def State.hostConsume (s : State) (md v : Nat) : State :=
  let h := s.hub md
  if h.power = .off then s else ((s.setHub md { h with evrd := v }).freeRefused md).drainEvents md 1025

/-- EVRD (R347): the host has consumed ev.val records. -/
def execEvrd (s : State) : Out := .next (s.hostConsume s.ev.md s.ev.val)

-- The queue instructions (R348) --------------------------------------------------------------------------------------------------------------

/-- STATE of a queue (R329, R334). -/
def State.queueState (s : State) (md q : Nat) : Nat :=
  let x := s.hostQ md q
  if x.st ≠ 1 then x.st
  else if x.recs.isEmpty then 1
  else if s.headFate md q = .blocked then 3 else 2

/-- STATUS (R329). -/
def State.queueStatus (s : State) (md q : Nat) : Nat :=
  let x := s.hostQ md q
  s.queueState md q + x.pri * 2 ^ 4 + x.wtm1 * 2 ^ 6 + x.asid * 2 ^ 10 + x.err * 2 ^ 32 + x.pcode * 2 ^ 40

/-- A queue operand: a queue of 1 to 63 bound to the issuing context. -/
def onQueue (s : State) (x : BitVec 5) (f : SeqId → Nat → State) : Out :=
  onK s fun q =>
    let n := (s.getK q x).toNat
    let y := s.hostQ (modOf q.unit) n
    if n = 0 ∨ n > 63 ∨ y.st = 0 ∨ y.asid ≠ s.asidOf q then s.trap q { code := tcOpnd } else f q n

def execCqapp (d a b : BitVec 5) (s : State) : Out :=
  onQueue s b fun q n =>
    let md := modOf q.unit
    let asid := s.asidOf q
    let va := (s.getK q a).toNat
    let code := s.runCode md asid va 64 true false
    if va % 64 ≠ 0 then s.trap q { code := tcOpnd }
    else if code ≠ 0 then s.trap q { code := tcPage, addr := va, info := code }
    else
      let pins := if (s.hostQ md n).st = 1 then s.pinsFor md asid [(va, 64)] else []
      let r := (s.pin asid pins).append md n { addr := va, pins := pins }
      r.2.finK q d (BitVec.ofNat 64 r.1)

def execCqtail (d a : BitVec 5) (s : State) : Out :=
  onQueue s a fun q n => s.finK q d (BitVec.ofNat 64 (s.hostQ (modOf q.unit) n).app)

def execCqstat (d a b : BitVec 5) (s : State) : Out :=
  onQueue s a fun q n =>
    let md := modOf q.unit
    match (s.getK q b).toNat with
    | 0 => s.finK q d (BitVec.ofNat 64 (s.queueStatus md n))
    | 1 => s.finK q d (BitVec.ofNat 64 (s.hostQ md n).started)
    | 2 => s.finK q d (BitVec.ofNat 64 (s.hostQ md n).done)
    | _ => s.trap q { code := tcOpnd }

/-- EVPOST: a SOFT event (R346). -/
def execEvpost (a b : BitVec 5) (s : State) : Out :=
  onK s fun q =>
    let code := (s.getK q b).toNat
    if code ≥ 2 ^ 16 then s.trap q { code := tcOpnd }
    else (s.post (modOf q.unit) 0x30 (some (s.asidOf q)) (srcOf q) code (s.getK q a).toNat).fin q

end Sys2Proof.Machine
end

