-- ==== Sys2Proof/Machine/Group.lean ====
section
/-! DEFINITION. Groups: creation, retirement, the instructions of a group and the loop sequencer (spec 15, R349 to R363; 10, R263 to
R268, R274; 14, R331, R335, R336). -/

namespace Sys2Proof.Machine

open Sys2Proof

-- Handles (R349, R355) ------------------------------------------------------------------------------------------------------------

/-- The n-th handle of a context: they count from 1 and skip 0 when they wrap. -/
def handleNo (n : Nat) : Nat := (n - 1) % (2 ^ 32 - 1) + 1

/-- A handle is given to group `g`. -/
def State.newHandle (s : State) (md asid g : Nat) : Nat × State :=
  let c := s.ctx md asid
  let n := c.handles + 1
  (handleNo n, s.setCtx md asid { c with handles := n, byHandle := sset c.byHandle n g })

/-- The group with a handle among the 65 536 most recent ones. -/
def Ctx.groupOf (c : Ctx) (h : Nat) : Option Nat :=
  let age := (handleNo c.handles + (2 ^ 32 - 1) - h) % (2 ^ 32 - 1)
  if h = 0 ∨ h ≥ 2 ^ 32 ∨ c.handles = 0 ∨ age ≥ 65536 ∨ age ≥ c.handles then none
  else some (sget 0 c.byHandle (c.handles - age))

-- The members of a range of quads ---------------------------------------------------------------------------------------------------

/-- The quads `lo` to `lo + n − 1`, as quad indices of the pod, hold a unit. -/
def inQuads (lo n u : Nat) : Bool := decide (lo ≤ quadOf u) && decide (quadOf u < lo + n)

/-- Everything the quads hold is as before any group; their scratchpads' bytes stay (R351, R363). -/
def State.resetQuads (s : State) (lo n : Nat) : State :=
  let keep {α : Type} (m : SMap α) (f : Nat → Nat) : SMap α := m.filter fun x => !inQuads lo n (f x.1)
  let word (w : Nat) : Bool := !inQuads lo n (w / 2 ^ 20)
  { s with ctls := keep s.ctls (· / 4), cores := keep s.cores id, quads := keep s.quads (· * 8), engine := keep s.engine (· / 256)
           latent := s.latent.filter word, bad := s.bad.filter word }

/-- Bytes of the quads' scratchpads become zero, and stores in flight to them are overtaken (R268, R352). -/
def State.zeroQuads (s : State) (lo n : Nat) : State :=
  let here (a : Nat) : Bool := inQuads lo n (a / 2 ^ 20)
  { s with mem := s.mem.filter fun c => !here c.1
           transit := s.transit.map fun st => { st with cells := st.cells.filter fun c => !here c.1 } }

-- What the loader's tables write at group start (R265, R266, R268) ------------------------------------------------------------------

/-- The units that a data image addresses in a group whose first unit is `base`. -/
def DataImage.units (d : DataImage) (base nq : Nat) : List Nat :=
  match d.tgt with
  | 0 => (List.range (4 * nq)).map fun i => base + i / 4 * 8 + i % 4
  | 1 => (List.range nq).map fun i => base + i * 8 + 4
  | 2 => [base + d.rank / 4 * 8 + d.rank % 4]
  | _ => [base + d.rank * 8 + 4]

/-- The bytes that a data image writes. -/
def DataImage.content (d : DataImage) : List Byte :=
  if d.fill then (List.range d.size).map fun i => d.bytes.getD (i % 8) 0 else d.bytes.take d.size

/-- The bytes of the data images and nest records, in the order of R268. -/
def Kernel.startCells (k : Kernel) (base nq : Nat) : List (Nat × Byte) :=
  (k.datas.flatMap fun d => (d.units base nq).flatMap fun u => cellsOf (unitBase u + d.off) d.content) ++
  (k.nests.flatMap fun x => (List.range (4 * nq)).flatMap fun i =>
    cellsOf (unitBase (base + i / 4 * 8 + i % 4) + x.1) (x.2.flatMap fun w => leBytes 8 w.toNat))

/-- A ring from its table word (R265). -/
def ringOfWord (u w : Nat) : Ring :=
  { base := unitBase u + field w 0 20, cap := field w 20 9, esz := field w 29 3, tr := bitAt w 32, head := 0, tail := 0 }

/-- The core of a unit at group start (R351): a stream that the kernel lacks has ended. -/
def Kernel.startCore (k : Kernel) (u : Nat) : Core :=
  let p (i : Nat) : Pos := if bitAt k.strm i then .next k.base else .ended
  { Core.init with lpos := p 1, xpos := p 2, spos := p 3
                   mx := { Matrix.init with rings := k.rings.foldl (fun m r => sset m r.1 (ringOfWord u r.2)) [] } }

def Kernel.startCtl (k : Kernel) (clock i : Nat) : Ctl :=
  { Ctl.init with pos := if bitAt k.strm i then .next k.base else .ended, cycBase := clock }

/-- The members of the quads take their state at group start (R351, R352). -/
def State.startMembers (s : State) (k : Kernel) (lo nq gid : Nat) : State :=
  (List.range nq).foldl (fun s i =>
    let u := (lo + i) * 8
    let s := (List.range 4).foldl (fun s c =>
      (s.setCore (u + c) { k.startCore (u + c) with xsync := s.tick }).setCtl { unit := u + c, kind := .k } (k.startCtl s.clock 0)) s
    let s := (s.setCtl { unit := u + 4, kind := .qf } (k.startCtl s.clock 4)).setCtl { unit := u + 4, kind := .qu } (k.startCtl s.clock 5)
    s.setQuad (lo + i) { Quad.init with grp := gid }) s

/-- A group's own copy of the descriptor table, relocated by G (R263). -/
def Kernel.groupDescs (k : Kernel) (G : Nat) : SMap (List Word) :=
  k.descs.mapIdx fun i d => (i, if d.2 then d.1.set 0 (d.1.getD 0 0 + BitVec.ofNat 64 G) else d.1)

-- Creation (R349) -----------------------------------------------------------------------------------------------------------------------

/-- The relocation base G (R263). -/
def Group.base (g : Group) : Nat := quadIx g.md g.qb * 2 ^ 23

/-- A group holds quads, or their contents are saved. -/
def GState.placed (g : GState) : Bool := g == .starting || g == .running

/-- The initialisation of group `gid` is performed (R352): its quads hold what its kernel's tables give, and every stream starts (R361). -/
def State.initGroup (s : State) (gid : Nat) : State :=
  let g := s.group gid
  let k := (s.ctx g.md g.asid).kernel g.kernel
  let lo := quadIx g.md g.qb
  let s := (s.zeroQuads lo g.nq).resetQuads lo g.nq
  let s := { s with mem := memWrite s.mem (k.startCells (lo * 8) g.nq) }
  (s.startMembers k lo g.nq gid).setGroup gid { g with st := .running }

/-- Group `gid` with handle `h` starts at quad `qb` (R349): it takes its quads and is STARTING. With ev.j = 1 its initialisation is yet to
come; else it is performed with the start (R361). DEDUCED, unsafe (log entry 46). -/
def State.startGroup (s : State) (md asid gid h kw qb : Nat) (args : List Word) (src : Source) (level : Nat) : State :=
  let c := s.ctx md asid
  let k := c.kernel (kwKernel kw)
  let nq := kwQuads kw
  let lo := quadIx md qb
  let g : Group := { md := md, asid := asid, handle := h, kernel := kwKernel kw, kw := kw, qb := qb, nq := nq, args := args
                     st := .starting, desc := k.groupDescs (lo * 2 ^ 23), ndesc := k.descs.length, src := src, level := level }
  let s := (span lo nq).foldl (fun s ix => s.setQuad ix { s.quad ix with grp := gid }) (s.resetQuads lo nq)
  let s := s.setGroup gid g
  let c := s.ctx md asid
  let s := s.setCtx md asid (c.setKernel (kwKernel kw) { k with st := .active, groups := k.groups + 1 })
  let s := if s.ev.j = 1 then s else s.initGroup gid
  if c.st = .ready then s.moveCtx md asid .running else s

/-- A new group for a launch of the host or the table. -/
def State.newGroup (s : State) (md asid kw qb : Nat) (args : List Word) (src : Source) (level : Nat) : Nat × State :=
  let gid := s.ids
  let r := { s with ids := s.ids + 1 }.newHandle md asid gid
  (gid, r.2.startGroup md asid gid r.1 kw qb args src level)

-- The scheduler's launches (R335, R336, R343) --------------------------------------------------------------------------------------------

/-- A LAUNCHREF event (R446, R448). -/
def State.launchRef (s : State) (md asid src cause kw : Nat) : State := s.post md 0x13 (some asid) src cause kw

/-- A host LAUNCH at the head of a queue: refused, started, or none where quads are lacking. -/
def State.tryQueue (s : State) (md q : Nat) (w : List Word) : Option State :=
  let x := s.hostQ md q
  let kw := recOp w 1
  match (s.ctx md x.asid).launchCause kw with
  | some cause =>
    let r := s.startRec md q w
    some ((r.2.launchRef md x.asid (srcQueue q) cause kw).complete md r.1)
  | none => (s.placeGroup md (kwQuads kw)).map fun qb =>
    let r := s.startRec md q w
    (r.2.newGroup md x.asid kw qb ((w.drop 2).take 4) (.host r.1) x.pri).2

/-- A due launch of the table. DEDUCED, unsafe (log entry 56). -/
def State.tryTable (s : State) (md e : Nat) : Option State :=
  let h := s.hub md
  let t := sget TTEntry.zero h.tt e
  match t.due with
  | none => some s
  | some d =>
    let kw := (d.words.getD 3 0).toNat
    let set (s : State) (t : TTEntry) : State := let h := s.hub md; s.setHub md { h with tt := sset h.tt e t }
    match (s.ctx md d.owner).launchCause kw with
    | some cause => some ((set s { t with due := none }).launchRef md d.owner (srcHub 3) cause kw)
    | none => (s.placeGroup md (kwQuads kw)).map fun qb =>
      let r := s.newGroup md d.owner kw qb ((d.words.drop 4).take 4) (.table e) 0
      let s := set r.2 { t with due := none, launched := (t.launched + 1) % 2 ^ 32, group := r.1 }
      if bitAt (d.words.getD 0 0).toNat 1 then s.post md 0x20 (some d.owner) (srcHub 3) e (Config.ttPayload 0x20 d.slot) else s

/-- A launch by QF that waits at the scheduler. -/
def State.tryPending (s : State) (md gid : Nat) : Option State :=
  let h := s.hub md
  match h.pending.find? fun l => l.gid == gid with
  | none => some s
  | some l =>
    let s' := (s.setHub md { h with pending := h.pending.filter fun l => l.gid != gid }).countTurn md l.level qfTurn
    match (s.ctx md l.asid).launchCause l.kw with
    | some cause => some ((s'.setGroup gid { s'.group gid with st := .refused }).launchRef md l.asid (srcOf l.q) cause l.kw)
    | none => (s.placeGroup md (kwQuads l.kw)).map fun qb =>
      s'.startGroup md l.asid gid (s'.group gid).handle l.kw qb l.args (.group l.q) l.level

def State.tryLaunch (s : State) (md : Nat) (r : LRef) : Option State :=
  match r with
  | .queue q => match s.headFate md q with
    | .ready w => s.tryQueue md q w
    | _ => some s
  | .table e => s.tryTable md e
  | .group g => s.tryPending md g

/-- A launch is started or refused, or holds the scheduler until it can be (R336). -/
def State.launchOrHold (s : State) (md : Nat) (r : LRef) : State :=
  match s.tryLaunch md r with
  | some s => let h := s.hub md; s.setHub md { h with held := if h.held = some r then none else h.held }
  | none => match r with
    | .table _ => s
    | _ => let h := s.hub md; s.setHub md { h with held := some r }

/-- CMD_LAUNCH (R331): the LAUNCH at the head of queue ev.i, where the scheduler chooses that queue. -/
def execCmdLaunch (s : State) : Out := onHead s 8 fun md q _ => s.launchOrHold md (.queue q)

/-- The launch that GROUP_CREATE serves: the one chosen, where it is of the table or of QF, or has held the scheduler. -/
def State.launchDue (s : State) (md : Nat) : Option LRef :=
  match s.chosen md with
  | some (.queue q) => if s.holding md = some (.queue q) then some (.queue q) else none
  | r => r

/-- GROUP_CREATE (R349): the scheduler of module ev.md starts a launch. DEDUCED, unsafe (log entry 46). -/
def execGroupCreate (s : State) : Out :=
  .next (match s.launchDue s.ev.md with
    | some r => s.launchOrHold s.ev.md r
    | none => s)

-- Retirement (R362, R363) -----------------------------------------------------------------------------------------------------------------

def Pos.isOver : Pos → Bool
  | .ended => true
  | _ => false

/-- A core has finished: its streams have ended, their instructions are complete, its engines are empty, and it is in no trap. -/
def State.coreDone (s : State) (u : Nat) : Bool :=
  let c := s.core u
  let k := s.ctl { unit := u, kind := .k }
  k.pos.isOver && k.mode == .normal && c.lpos.isOver && c.xpos.isOver && c.spos.isOver && c.pend.isEmpty && c.lq.all (·.present)
    && c.spend.isEmpty && c.mx.queue.isEmpty && c.ix.queue.isEmpty

def State.ctlDone (s : State) (q : SeqId) : Bool := (s.ctl q).pos.isOver && (s.ctl q).mode == .normal

/-- The sequencers K, QF and QU of a group, by unit. -/
def Group.ctlSeqs (g : Group) : List SeqId :=
  (List.range g.nq).flatMap fun i =>
    let u := (quadIx g.md g.qb + i) * 8
    ((List.range 4).map fun c => { unit := u + c, kind := SeqKind.k }) ++ [{ unit := u + 4, kind := .qf }, { unit := u + 4, kind := .qu }]

/-- A sequencer belongs to a group. -/
def Group.has (g : Group) (q : SeqId) : Bool := inQuads (quadIx g.md g.qb) g.nq q.unit

/-- The conditions of R362. -/
def State.groupDone (s : State) (g : Group) : Bool :=
  (g.ctlSeqs.all fun q => if q.kind == .k then s.coreDone q.unit else s.ctlDone q)
    && ((s.ctx g.md g.asid).chains.all fun x => x.2.cmds.all fun m => !g.has m.enq)
    && (s.sessions.all fun x => !(x.asid == g.asid && g.has x.q) || x.st ≥ 2)

/-- Partials that streams of a group have sent reach their home units. -/
def State.mergeParts (s : State) (g : Group) : State :=
  let c := s.ctx g.md g.asid
  let mine := c.parts.filter fun p => g.has p.src
  s.setCtx g.md g.asid (mine.foldl Ctx.applyPart { c with parts := c.parts.filter fun p => !g.has p.src })

/-- A kernel loses its last group while it unloads, or is unloaded at once: its image is unmapped and its records complete (R274).
DEDUCED, unsafe (log entry 53). -/
def State.unloadKernel (s : State) (md asid kid : Nat) : State :=
  let c := s.ctx md asid
  let k := c.kernel kid
  let c := c.setKernel kid { k with st := .unloaded, descs := [], rings := [], nests := [], yields := [], datas := [], region := [], unload := [], load := none }
  let s := (c.pages.filter fun p => p.fw && p.x && decide (k.base ≤ p.va) && decide (p.va < k.base + 32 * k.lines)).foldl
    (fun s p => if p.busy then s.setCtx md asid ((s.ctx md asid).updPage p.va fun p => { p with gone := [{ unit := 2 ^ 40, kind := .k }] }) else s.freePage md asid p)
    (s.setCtx md asid c)
  k.unload.foldl (fun s r => s.complete md r) s

/-- The group count of a kernel falls (R274). DEDUCED, unsafe (log entry 53). -/
def State.dropKernel (s : State) (md asid kid : Nat) : State :=
  let c := s.ctx md asid
  let k := c.kernel kid
  let n := k.groups - 1
  let s := s.setCtx md asid (c.setKernel kid { k with groups := n, st := if n = 0 ∧ k.st = .active then .loaded else k.st })
  if n = 0 ∧ k.st = .unloading then s.unloadKernel md asid kid else s

/-- The quads of a group become free, with all that its members held (R363, steps 2 and 3). -/
def State.freeQuads (s : State) (gid : Nat) (g : Group) : State :=
  let s := (s.resetQuads (quadIx g.md g.qb) g.nq).forget fun id q => id == g.asid && g.has q
  { s with sessions := s.sessions.filter fun x => !(x.asid == g.asid && g.has x.q)
           dieBars := s.dieBars.filter fun x => x.1 / 64 / 8 != gid, pkgBars := s.pkgBars.filter fun x => x.1 / 64 != gid
           basin := s.basin.map fun x => (x.1, { x.2 with subs := x.2.subs.filter fun y => !(x.2.asid == g.asid && g.has y.2.q) }) }

/-- The host LAUNCH record of a group completes (R331). DEDUCED, unsafe (log entry 59). -/
def State.launchDone (s : State) (g : Group) : State :=
  match g.src with
  | .host r => s.complete g.md r
  | _ => s

/-- GRPFAULT events for the engine fault records that no stop has delivered (R363, step 1). -/
def State.postFaults (s : State) (g : Group) : State :=
  g.ctlSeqs.foldl (fun s q => (s.ctl q).faults.foldl (fun s r => s.post g.md 0x100 (some g.asid) (srcOf q) r.code r.num) s) s

/-- A group retires (R363). DEDUCED, unsafe (log entry 59). -/
def State.retireGroup (s : State) (gid : Nat) (g : Group) : State :=
  let s := s.land fun st => g.has st.who
  let s := ((s.mergeParts g).postFaults g).freeQuads gid g
  let s := (s.dropKernel g.md g.asid g.kernel).launchDone g
  let s := s.setGroup gid { g with st := .retired, desc := [] }
  if (s.ctx g.md g.asid).st = .running ∧ (s.groupsIn g.md g.asid GState.placed).isEmpty then s.moveCtx g.md g.asid .ready else s

/-- GROUP_RETIRE: the group with handle ev.i of context ev.asid on module ev.md, once R362 holds; the context is RUNNING or YIELDING, so that
its quads hold it. DEDUCED, unsafe (log entries 46, 59). -/
def execGroupRetire (s : State) : Out :=
  let md := s.ev.md
  let asid := s.ev.asid
  let st := (s.ctx md asid).st
  .next (match s.groups.find? fun x => x.2.md == md && x.2.asid == asid && x.2.handle == s.ev.i && x.2.st == .running && s.groupDone x.2 with
    | none => s
    | some (gid, g) => if st == .running || st == .yielding then s.retireGroup gid g else s)

-- The instructions of the group (R353 to R355) ------------------------------------------------------------------------------------------------

/-- An instruction that only a QF issues (R131). -/
def onQf (s : State) (f : SeqId → State) : Out := .next (if s.cur.kind = .qf then f s.cur else s.illegal s.cur)

def execLaunch (d a b : BitVec 5) (s : State) : Out :=
  onQf s fun q =>
    let md := modOf q.unit
    let asid := s.asidOf q
    let kw := (s.getK q a).toNat
    let ea := (s.getK q b).toNat
    if !kwOk kw then s.trap q { code := tcOpnd }
    else match s.placeCheck q ea 32 with
      | some t => s.trap q t
      | none =>
        if s.fenceOpen q 5 || (s.groupsIn md asid GState.alive).length ≥ 1024 then s
        else match s.recCheck q ea 32 with
        | some t => s.trapRead q t ea 32
        | none =>
          let gid := s.ids
          let level := (s.grpOf q).level
          let args := s.words q ea 4
          let r := { s with ids := s.ids + 1 }.newHandle md asid gid
          let g : Group := { Group.none with md := md, asid := asid, handle := r.1, kernel := kwKernel kw, kw := kw, nq := kwQuads kw
                                             args := args, st := .pending, src := .group q, level := level }
          let s := r.2.setGroup gid g
          let h := s.hub md
          (s.setHub md { h with pending := h.pending ++ [{ asid := asid, kw := kw, args := args, q := q, level := level, gid := gid }] }).finK
            q d (BitVec.ofNat 64 r.1)

def execGrpid (d a : BitVec 5) (s : State) : Out :=
  onK s fun q =>
    let g := s.grpOf q
    match (s.getK q a).toNat with
    | 0 => s.finK q d (BitVec.ofNat 64 (s.logical q))
    | 1 => s.finK q d (BitVec.ofNat 64 g.nq)
    | 2 => s.finK q d (BitVec.ofNat 64 g.base)
    | 7 => s.finK q d (BitVec.ofNat 64 g.handle)
    | n => if n < 8 then s.finK q d (g.args.getD (n - 3) 0) else s.trap q { code := tcOpnd }

def execGrpwait (d a : BitVec 5) (s : State) : Out :=
  onK s fun q =>
    let h := (s.getK q a).toNat
    match if h = (s.grpOf q).handle then none else (s.ctxOf q).groupOf h with
    | none => s.trap q { code := tcOpnd }
    | some gid =>
      let st := (s.group gid).st
      if st.alive then s else s.finK q d (ofBool (st == .refused))

-- The loop sequencer (R356 to R360) -----------------------------------------------------------------------------------------------------------

/-- A nest from its record; none where R357 refuses it. -/
def nestOf (w : List Word) : Option Nest :=
  let n (i : Nat) : Nat := (w.getD i 0).toNat
  let lv : Nest := (List.range (n 0)).map fun i => (field (n (i + 1)) 0 32, field (n (i + 1)) 32 3)
  if n 0 = 0 ∨ n 0 > 6 ∨ n 7 ≠ 0 then none
  else if (List.range (n 0)).any fun i => n (i + 1) ≥ 2 ^ 35 then none
  else if lv.any fun l => l.1 = 0 ∨ l.1 > 2 ^ 24 ∨ l.2 > 5 then none
  else if !decide ((lv.map Prod.snd).Nodup) ∨ (lv.foldl (fun a l => a * l.1) 1) > 2 ^ 32 then none
  else some lv

def execLsqdef (a : BitVec 5) (s : State) : Out :=
  onQf s fun q =>
    let ea := (s.getK q a).toNat
    match s.recCheck q ea 64 with
    | some t => s.trapRead q t ea 64
    | none => match nestOf (s.words q ea 8) with
      | none => s.trap q { code := tcOpnd }
      | some n => (s.setQuad (quadOf q.unit) { s.quad (quadOf q.unit) with nest := some n }).fin q

/-- Tiles of a nest. -/
def Nest.total (n : Nest) : Nat := n.foldl (fun a l => a * l.1) 1

def execLsqgo (d : BitVec 5) (s : State) : Out :=
  onQf s fun q =>
    let x := s.quad (quadOf q.unit)
    match x.nest with
    | none => s.trap q { code := tcOpnd }
    | some n =>
      if s.fenceOpen q 2 then s
      else
        let p := 4 * (s.grpOf q).nq
        let l := 4 * s.logical q
        let pass := (x.pass + 1) % 2 ^ 32
        let at' (i : Nat) : Nat := (l + i) * n.total / p
        let x := { x with pass := pass, passNest := n, cur := (List.range 4).map fun c => (c, at' c),
                              hi := (List.range 4).map fun c => (c, at' (c + 1)), passRel := s.tells q 2 }
        (s.setQuad (quadOf q.unit) x).finK q d (BitVec.ofNat 64 pass)

/-- The tile indices of a nest for a tile number, the last level varying fastest (R359). -/
def Nest.tile (n : Nest) (t : Nat) : SMap Nat :=
  (n.reverse.foldl (fun (r : SMap Nat × Nat) l => (sset r.1 l.2 (r.2 % l.1), r.2 / l.1)) ([], t)).1

/-- LSQNEXT (R359); a draw observes the LSQGO of its pass (R360). -/
def execLsqnext (d a b : BitVec 5) (s : State) : Out :=
  onCoreK s fun q =>
    let ea := (s.getK q a).toNat
    let want := (s.getK q b).toNat
    let x := s.quad (quadOf q.unit)
    let c := q.unit % 8
    match s.recWriteCheck q ea 32 with
    | some t => s.trapRead q t ea 32
    | none =>
      if want ≥ 2 ^ 32 then s.trap q { code := tcOpnd }
      else if x.pass < want then s
      else
        let t := sget 0 x.cur c
        if x.pass ≠ want ∨ t ≥ sget 0 x.hi c then s.finK q d 0
        else
          let idx := Nest.tile x.passNest t
          let bs := ((List.range 6).flatMap fun i => leBytes 4 (sget 0 idx i)) ++ leBytes 4 t ++ leBytes 4 x.pass
          let s := (s.mark q x.passRel).setQuad (quadOf q.unit) { x with cur := sset x.cur c (t + 1) }
          ((s.healWords ea 32).store q 1 (cellsOf ea bs)).2.finK q d 1

end Sys2Proof.Machine
end

