-- ==== Sys2Proof/Machine/Matrix.lean ====
section
/-! DEFINITION. The matrix engine (spec 09, R228 to R248): rings, nests, MGO and its steps, snapshots, drains, zeroing and
scaling, and the life of a queued operation. -/

namespace Sys2Proof.Machine

open Sys2Proof

def State.mx (s : State) (u : Nat) : Matrix := (s.core u).mx
def State.setMx (s : State) (u : Nat) (m : Matrix) : State := s.setCore u { s.core u with mx := m }

/-- The core an engine event concerns, as its K. -/
def kOf (u : Nat) : SeqId := { unit := u, kind := .k }

-- Records (R235); their reads wait for stores of the stream itself to the record (R291, R294 to R299)

def execMnest (a : BitVec 5) (s : State) : Out :=
  onCoreK s fun q =>
    let ea := (s.getK q a).toNat
    match s.recCheck q ea 56 with
    | some t => s.trapRead q t ea 56
    | none => if s.ownOpen q ea 56 then s else (s.setMx q.unit { s.mx q.unit with nest := s.words q ea 7 }).fin q

def execMtpb (a : BitVec 5) (s : State) : Out :=
  onCoreK s fun q =>
    let ea := (s.getK q a).toNat
    match s.recCheck q ea 64 with
    | some t => s.trapRead q t ea 64
    | none => if s.ownOpen q ea 64 then s else (s.setMx q.unit { s.mx q.unit with tpb := s.words q ea 8 }).fin q

-- Rings (R231, R232)

/-- An operation names a ring. -/
def MxOp.names (o : MxOp) (rg : Nat) : Bool :=
  match o.kind with
  | .go _ tpb _ => tpbRingA tpb == rg || tpbRingB tpb == rg
  | _ => false

/-- The ring that MRING.DEF defines, where its operands are good (R231, R232). -/
def ringOf (u base cw : Nat) : Option Ring :=
  let r : Ring := { base := base, cap := field cw 0 9, esz := field cw 9 3, tr := bitAt cw 12, head := 0, tail := 0 }
  let off := base % 2 ^ 20
  let fin := off + r.cap * r.size
  let arr := decide (off ≥ 0x70000) && decide (fin ≤ 0x80000)
  if decide (base / 2 ^ 20 = u) && decide (r.esz < 4) && decide (base % r.size = 0) && decide (1 ≤ r.cap) && decide (r.cap ≤ 256)
      && decide (cw < 2 ^ 13) && (decide (fin ≤ 0x70000) || arr) && (!r.tr || arr) then some r
  else none

def execMringDef (a b : BitVec 5) (rg : BitVec 3) (s : State) : Out :=
  onCoreK s fun q =>
    let m := s.mx q.unit
    let base := (s.getK q a).toNat
    if m.queue.any (·.names rg.toNat) then s
    else match s.cause14 q base with
      | some c => s.trap q { code := tcAddr, addr := base, info := c }
      | none => match ringOf q.unit base (s.getK q b).toNat with
        | none => s.trap q { code := tcOpnd }
        | some r => (s.setMx q.unit { m with rings := sset m.rings rg.toNat r }).fin q

/-- Entries given and not taken (R231). -/
def Ring.held (r : Ring) : Nat := r.tail - r.head

def execMringPush (a : BitVec 5) (rg : BitVec 3) (s : State) : Out :=
  onCoreK s fun q =>
    let m := s.mx q.unit
    let r := m.ring rg.toNat
    let n := (s.getK q a).toNat
    if r.cap = 0 ∨ n ≥ 2 ^ 32 ∨ r.held + n > r.cap then s.trap q { code := tcOpnd }
    else (s.setMx q.unit { m with rings := sset m.rings rg.toNat { r with tail := r.tail + n } }).fin q

def execMringRd (d : BitVec 5) (rg : BitVec 3) (s : State) : Out :=
  onCoreK s fun q =>
    let r := (s.mx q.unit).ring rg.toNat
    if r.cap = 0 then s.trap q { code := tcOpnd } else s.finK q d (BitVec.ofNat 64 (r.head % 2 ^ 32 + r.tail % 2 ^ 32 * 2 ^ 32))

-- The nest (R236 to R239)

/-- A level of a loop nest, its count derived where CS is 1 (R236). -/
structure Level where
  count : Nat
  axis  : Nat
  astr  : Int
  bstr  : Int
  tstr  : Nat
deriving DecidableEq, Repr

/-- The sizes of a product: M, N and K. -/
structure Dims where
  m : Nat
  n : Nat
  k : Nat
deriving DecidableEq, Repr

def Dims.ok (x : Dims) : Bool := [x.m, x.n, x.k].all fun v => decide (1 ≤ v) && decide (v ≤ 2 ^ 24)

/-- A level word (R236); none where it is invalid (R238). -/
def levelOf (x : Dims) (w : Nat) : Option Level :=
  let axis := field w 32 2
  let cs := field w 34 2
  let cnt := if cs = 1 then (if axis = 0 then ceilDiv x.m 32 else if axis = 1 then ceilDiv x.n 64 else ceilDiv x.k 16) else field w 0 32
  if decide (cs ≤ 1) && (cs == 0 || axis != 3) && field w 54 10 == 0 && (cs == 1 || (decide (1 ≤ cnt) && decide (cnt ≤ 2 ^ 24))) then
    some { count := cnt, axis := axis, astr := signed 8 (w / 2 ^ 36), bstr := signed 8 (w / 2 ^ 44), tstr := field w 52 2 }
  else none

/-- The levels of a valid nest (R238). -/
def levelsOf (x : Dims) (nest : List Word) : Option (List Level) :=
  let h := (nest.getD 0 0).toNat
  let nlev := field h 0 3
  let ws := (List.range nlev).map fun i => (nest.getD (1 + i) 0).toNat
  let derived := (ws.filter fun w => field w 34 2 == 1).map fun w => field w 32 2
  match ws.mapM (levelOf x) with
  | none => none
  | some ls =>
    if decide (1 ≤ nlev) && decide (nlev ≤ 6) && field h 5 59 == 0 && derived.eraseDups == derived
        && decide (ls.foldl (fun p l => p * l.count) 1 ≤ 2 ^ 32) then some ls
    else none

/-- Where a walk stands: the radix numbers of the M, N and K levels, the tile and the offsets. -/
structure NestAt where
  mt : Nat
  nt : Nat
  kt : Nat
  t  : Nat
  oa : Int
  ob : Int
deriving DecidableEq, Repr

/-- One level's index added (R239). -/
def NestAt.down (p : NestAt) (l : Level) (i : Nat) : NestAt :=
  { mt := if l.axis = 0 then p.mt * l.count + i else p.mt
    nt := if l.axis = 1 then p.nt * l.count + i else p.nt
    kt := if l.axis = 2 then p.kt * l.count + i else p.kt
    t := p.t + i * l.tstr, oa := p.oa + i * l.astr, ob := p.ob + i * l.bstr }

/-- The step at a point of the nest, none when it is wholly masked; an offset outside 0 to CAP − 1 makes it an error. -/
def stepAt (x : Dims) (capA capB : Nat) (p : NestAt) : Option (Option MStep) :=
  if 32 * p.mt ≥ x.m ∨ 64 * p.nt ≥ x.n ∨ 16 * p.kt ≥ x.k then none
  else if 0 ≤ p.oa ∧ p.oa < capA ∧ 0 ≤ p.ob ∧ p.ob < capB then
    some (some { t := p.t % 4, mt := p.mt, nt := p.nt, kt := p.kt, mv := min 32 (x.m - 32 * p.mt), nv := min 64 (x.n - 64 * p.nt)
                 kv := min 16 (x.k - 16 * p.kt), oa := p.oa.toNat, ob := p.ob.toNat })
  else some none

/-- The steps of a nest that are not wholly masked, in nest order, the last level varying fastest (R239). -/
def walkNest (x : Dims) (capA capB : Nat) : List Level → NestAt → List (Option MStep)
  | [], p => (stepAt x capA capB p).toList
  | l :: ls, p => (List.range l.count).flatMap fun i => walkNest x capA capB ls (p.down l i)

/-- The class of an operand format, with the entry-size codes of A and B (R237). -/
def operandClass (f : Fmt) : Option (Nat × Nat × Nat) :=
  if f = .bf16 ∨ f = .f16 then some (0, 1, 2)
  else if f.isB8 then some (1, 0, 1)
  else if f = .f32 then some (2, 2, 3)
  else none

def tpbFmtA (tpb : List Word) : Option Fmt := fmtOfCode (field (tpb.getD 0 0).toNat 0 6)
def tpbFmtB (tpb : List Word) : Option Fmt := fmtOfCode (field (tpb.getD 0 0).toNat 6 6)

/-- The parameter block is valid against the rings (R238). -/
def Matrix.tpbOk (m : Matrix) (tpb : List Word) : Bool :=
  let w (i : Nat) : Nat := (tpb.getD i 0).toNat
  let ra := m.ring (tpbRingA tpb)
  let rb := m.ring (tpbRingB tpb)
  match tpbFmtA tpb, tpbFmtB tpb with
  | some fa, some fb => match operandClass fa, operandClass fb with
    | some ca, some cb =>
      ca == cb && field (w 0) 21 43 == 0 && field (w 2) 16 48 == 0 && [4, 5, 6, 7].all (fun i => w i == 0)
        && tpbRingA tpb != tpbRingB tpb && ra.cap != 0 && rb.cap != 0 && ra.esz == ca.2.1 && rb.esz == ca.2.2
    | _, _ => false
  | _, _ => false

/-- The steps an MGO queues; none where a check of R238 fails. -/
def Matrix.plan (m : Matrix) (x : Dims) : Option (List MStep) :=
  match levelsOf x m.nest with
  | none => none
  | some ls =>
    if x.ok && m.tpbOk m.tpb then
      let t0 := field (m.nest.getD 0 0).toNat 3 2
      (walkNest x (m.ring (tpbRingA m.tpb)).cap (m.ring (tpbRingB m.tpb)).cap ls
        { mt := 0, nt := 0, kt := 0, t := t0, oa := 0, ob := 0 }).mapM id
    else none

/-- An operation enters the queue (R229). DEDUCED, safe (log entry 36). -/
def State.queueMx (s : State) (u : Nat) (k : MxKind) : Nat × State :=
  let m := s.mx u
  let o : MxOp := { num := m.last + 1, kind := k, order := s.ids, doomed := !m.bad.isEmpty, running := false, step := 0, hidden := []
                    elems := [], next := [], flags := 0 }
  (o.num, { s with ids := s.ids + 1 }.setMx u { m with last := o.num, queue := m.queue ++ [o] })

/-- The end of an instruction that queues an operation. -/
def State.queued (s : State) (q : SeqId) (d : BitVec 5) (k : MxKind) : State :=
  let r := s.queueMx q.unit k
  r.2.finK q d (BitVec.ofNat 64 r.1)

/-- The queue is full (R229). DEDUCED, safe (log entry 36). -/
def State.mxFull (s : State) (u : Nat) : Bool := decide ((s.mx u).queue.length ≥ 8)

def execMgo (d a b : BitVec 5) (prf : BitVec 8) (s : State) : Out :=
  onCoreK s fun q =>
    let x : Nat := (s.getK q a).toNat
    let k : Nat := (s.getK q b).toNat
    if s.mxFull q.unit then s
    else if k ≥ 2 ^ 32 then s.trap q { code := tcOpnd }
    else match (s.mx q.unit).plan { m := x % 2 ^ 32, n := x / 2 ^ 32, k := k } with
      | none => s.trap q { code := tcOpnd }
      | some steps => s.queued q d (.go steps (s.mx q.unit).tpb prf.toNat)

/-- MWAIT (R242). -/
def execMwait (d a : BitVec 5) (s : State) : Out :=
  onCoreK s fun q =>
    let m := s.mx q.unit
    let n := (s.getK q a).toNat
    if m.moc < n then s
    else
      let hit := m.bad.any fun x => decide (x ≤ n)
      (s.setMx q.unit { m with bad := m.bad.filter fun x => decide (x > n) }).finK q d
        (BitVec.ofNat 64 (m.moc % 2 ^ 63 + (if hit then 2 ^ 63 else 0)))

def Matrix.tile (m : Matrix) (t : Nat) : Tile := sget .init m.tiles t
def Matrix.setTile (m : Matrix) (t : Nat) (x : Tile) : Matrix := { m with tiles := sset m.tiles t x }

/-- A range lies wholly in the issuing core's own scratchpad or wholly in its quad scratchpad (R243, R246). -/
def ownOrQuad (u a n : Nat) : Bool :=
  let off := a % 2 ^ 20
  (decide (a / 2 ^ 20 = u) && decide (off + n ≤ 0x80000)) || (decide (a / 2 ^ 20 = quadOf u * 8 + 4) && decide (off + n ≤ 2 ^ 20))

/-- MSNAP (R243). -/
def execMsnap (d a : BitVec 5) (rel : Bool) (t : BitVec 2) (s : State) : Out :=
  onCoreK s fun q =>
    let ga := (s.getK q a).toNat
    match s.cause14 q ga with
    | some c => s.trap q { code := tcAddr, addr := ga, info := c }
    | none =>
      if ga % 4096 ≠ 0 ∨ !ownOrQuad q.unit ga 8192 then s.trap q { code := tcOpnd }
      else match [ga, ga + 4096].find? fun g => !s.isEngine g with
        | some g => s.trap q { code := tcOwner, addr := g }
        | none =>
          if s.claims.any fun c => anyMeets (c.rd ++ c.wr) [((ga : Int), 8192)] then s
          else
            let x := (s.mx q.unit).tile t.toNat
            let bytes := (List.range 2048).flatMap fun i => leBytes 4 (sget 0 x.val i)
            let s := (s.engWrite (cellsOf ga bytes)).1
            let s := if rel then s.setOwner ga 2 false else s
            s.finK q d (BitVec.ofNat 64 (x.sc % 2 ^ 32 + x.wop % 2 ^ 32 * 2 ^ 32))

def execMzero (d : BitVec 5) (mask : BitVec 4) (s : State) : Out :=
  onCoreK s fun q => if s.mxFull q.unit then s else s.queued q d (.zero mask.toNat)

/-- A format that a drain converts to (R245). DEDUCED, unsafe (log entry 38). -/
def drainFmt (f : Fmt) : Bool := f.isFloat

def execMdrain (d a b : BitVec 5) (za key rel ovf : Bool) (rm t : BitVec 2) (s : State) : Out :=
  onCoreK s fun q =>
    let n := (s.getK q a).toNat
    if s.mxFull q.unit then s
    else match s.desc q n with
      | .error t => s.trap q t
      | .ok ds =>
        if !drainFmt ds.fmt || (ovf && !ds.fmt.isB8) then s.trap q { code := tcOpnd }
        else s.queued q d (.drain t.toNat ((s.grpOf q).descWords n) rm.toNat ovf rel za (if key then some (s.getK q b) else none)
          (s.core q.unit).nkey)

def execMscale (d a b : BitVec 5) (sfmt : BitVec 6) (src dst : BitVec 2) (prf : BitVec 8) (s : State) : Out :=
  onCoreK s fun q =>
    let ga := (s.getK q a).toNat
    let kb := (s.getK q b).toNat
    let w := ((fmtOfCode sfmt.toNat).getD .f32).width / 8
    if s.mxFull q.unit then s
    else match s.cause14 q ga with
      | some c => s.trap q { code := tcAddr, addr := ga, info := c }
      | none =>
        if ga % w ≠ 0 ∨ !ownOrQuad q.unit ga (96 * w) ∨ kb ≥ 3 then s.trap q { code := tcOpnd }
        else s.queued q d (.scale src.toNat dst.toNat sfmt.toNat ga kb prf.toNat (s.core q.unit).nkey)

-- The life of an operation (R248) ------------------------------------------------------------------------------------------------

/-- The operation at the head leaves the queue, and MOC takes its number; after a fault or a cancellation every operation that
is queued is to be cancelled in its turn. -/
def Matrix.leave (m : Matrix) (o : MxOp) (ok : Bool) : Matrix :=
  let rest := m.queue.drop 1
  if ok then { m with queue := rest, moc := o.num }
  else { m with queue := rest.map fun x => { x with doomed := true }, moc := o.num, bad := m.bad ++ [o.num] }

/-- The operation at the head faults: its tiles keep their last visible state (R248, R319), and the flags of what it had made visible are
not set, as for no operation that does not retire (R240, R242). DEDUCED, unsafe (log entry 87). -/
def State.mxFault (s : State) (u : Nat) (o : MxOp) (t : Trap) : State :=
  (s.setMx u ((s.mx u).leave o false)).engFault (kOf u) o.num 0 1 t

/-- The context of a core is running, so that its engines go on (R323). DEDUCED, unsafe (log entry 39). -/
def State.ctxRuns (s : State) (u : Nat) : Bool := (s.ctxOf (kOf u)).st == .running

/-- MATRIX_OP_START (R248): the operation at the head of core ev.i's queue starts, or is cancelled. -/
def execMatrixOpStart (s : State) : Out :=
  let u := s.ev.i
  let m := s.mx u
  match m.queue with
  | [] => .next s
  | o :: _ =>
    if o.running || !s.ctxRuns u then .next s
    else if o.doomed then .next (s.setMx u (m.leave o false))
    else if s.clear (m.claim u o) then
      .next (s.setMx u { m with queue := { o with running := true } :: m.queue.drop 1 })
    else .next s

-- Steps of an MGO (R239 to R241)

/-- The dot product of an element over its first n terms (R240). -/
def MxElem.dot (e : MxElem) (prf : Nat) (fa fb : Fmt) (n : Nat) : Nat × Nat :=
  let ts := e.terms.reverse.take n
  let prods := ts.map fun t => mulV (decode fa t.1) (decode fb t.2)
  let c := decode .f32 e.c
  match profileOf prf with
  | some p => frozenDot p c prods
  | none => openDot c prods

/-- Terms in whole groups. DEDUCED, unsafe (log entry 37). -/
def MxElem.whole (e : MxElem) (prf : Nat) : Nat := e.terms.length / profileG prf * profileG prf

/-- Element (x, y) of an X × Y entry (R233). -/
def entryIx (tr : Bool) (nx ny x y : Nat) : Nat := if tr then y * nx + x else x * ny + y

/-- Code i of the packed elements of an entry's bytes. -/
def codeAt (w : Nat) (x : Nat) (i : Nat) : Nat := field x (i * w) w

/-- The state of an MGO's elements after one step; the flags are those of groups that a restart discards. -/
def goElems (o : MxOp) (tile : Tile) (st : MStep) (zi : Bool) (prf : Nat) (fa fb : Fmt) (a b : Nat → Nat → Nat) : SMap MxElem × Nat :=
  (List.range st.mv).foldl (fun r i => (List.range st.nv).foldl (fun r j =>
    let ix := 64 * i + j
    let key := 2048 * st.t + ix
    let old := sfind r.1 key
    let restart := zi && st.kt == 0
    let e : MxElem := if restart then { c := 0, terms := [] } else match old with
      | some e => e
      | none => { c := sget 0 tile.val ix, terms := [] }
    let fl := match old with
      | some x => if restart && x.whole prf ≠ 0 then (x.dot prf fa fb (x.whole prf)).2 else 0
      | none => 0
    let e := { e with terms := (List.range st.kv).foldl (fun ts k => (a i k, b k j) :: ts) e.terms }
    (sset r.1 key e, r.2 ||| fl)) r) (o.elems, 0)

/-- A tile takes on the visible values of its elements and the attributes of the steps it has completed (R240, R241).
DEDUCED, unsafe (log entry 37). -/
def Tile.advance (x nx : Tile) (t : Nat) (elems : SMap MxElem) (hid : Nat × Bool) (val : MxElem → Nat × Nat) : Tile × Nat :=
  let mine := elems.filter fun kv => decide (kv.1 / 2048 = t)
  let r := mine.foldl (fun (r : SMap Nat × Nat) kv =>
    let y := val kv.2
    (sset r.1 (kv.1 % 2048) y.1, r.2 ||| y.2)) (x.val, 0)
  ({ nx with val := r.1, sc := ((if hid.2 then 0 else x.sc) + hid.1) % 2 ^ 32 }, r.2)

/-- Both entries of a step are given, and their granules are ENGINE (R234, R36). -/
def State.entriesReady (s : State) (ra rb : Ring) (st : MStep) : Bool :=
  decide (st.oa < ra.held) && decide (st.ob < rb.held)
    && s.allEngine [((ra.entry (ra.head + st.oa) : Int), ra.size), ((rb.entry (rb.head + st.ob) : Int), rb.size)]

/-- A step with its operands read. The flags of every value that becomes visible count, whatever the element's value is in the end.
DEDUCED, unsafe (log entry 87). -/
def Matrix.runStep (m : Matrix) (o : MxOp) (st : MStep) (tpb : List Word) (prf : Nat) (fa fb : Fmt) (ea eb : Nat) : Matrix :=
  let ra := m.ring (tpbRingA tpb)
  let rb := m.ring (tpbRingB tpb)
  let a (i k : Nat) : Nat := codeAt fa.width ea (entryIx ra.tr 32 16 i k)
  let b (k j : Nat) : Nat := codeAt fb.width eb (entryIx rb.tr 16 64 k j)
  let zi := bitAt (tpb.getD 0 0).toNat 18
  let x := m.tile st.t
  let g := goElems o x st zi prf fa fb a b
  let hid := sget (0, false) o.hidden st.t
  let hid := (hid.1 + 1, hid.2 || (zi && st.kt == 0))
  let vis := (List.range st.mv).all fun i => (List.range st.nv).all fun j =>
    match sfind g.1 (2048 * st.t + 64 * i + j) with
    | some e => e.terms.length % profileG prf == 0
    | none => true
  let nx := stepTile tpb st o.num
  let o := { o with step := o.step + 1, elems := g.1, next := sset o.next st.t nx, flags := o.flags ||| g.2
                    hidden := sset o.hidden st.t hid }
  if vis then
    let y := x.advance nx st.t g.1 hid fun e => e.dot prf fa fb (e.whole prf)
    { m.setTile st.t y.1 with queue := { o with hidden := sset o.hidden st.t (0, false), flags := o.flags ||| y.2 } :: m.queue.drop 1 }
  else { m with queue := o :: m.queue.drop 1 }

/-- MGO_STEP_END (R239, R240): the running MGO of core ev.i ends its next step, or faults on an error in an entry (R247). -/
def execMgoStepEnd (s : State) : Out :=
  let u := s.ev.i
  let m := s.mx u
  match m.queue with
  | [] => .next s
  | o :: _ =>
    match o.kind with
    | .go steps tpb prf =>
      match steps[o.step]?, tpbFmtA tpb, tpbFmtB tpb with
      | some st, some fa, some fb =>
        let ra := m.ring (tpbRingA tpb)
        let rb := m.ring (tpbRingB tpb)
        if !o.running || !s.ctxRuns u || !s.entriesReady ra rb st then .next s
        else match s.engRead (modOf u) (ra.entry (ra.head + st.oa)) ra.size with
          | (s, .error t) => .next (s.mxFault u o t)
          | (s, .ok ba) => match s.engRead (modOf u) (rb.entry (rb.head + st.ob)) rb.size with
            | (s, .error t) => .next (s.mxFault u o t)
            | (s, .ok bb) => .next (s.setMx u ((s.mx u).runStep o st tpb prf fa fb (leNat ba) (leNat bb)))
      | _, _, _ => .next s
    | _ => .next s

-- Retirement (R234, R240, R244 to R248)

/-- The end of an MGO: every tile's value becomes visible, and the rings' heads advance. -/
def Matrix.endGo (m : Matrix) (o : MxOp) (steps : List MStep) (tpb : List Word) (prf : Nat) (fa fb : Fmt) : Matrix × Nat :=
  let r := o.next.foldl (fun (r : Matrix × Nat) kv =>
    let y := (r.1.tile kv.1).advance kv.2 kv.1 o.elems (sget (0, false) o.hidden kv.1) fun e => e.dot prf fa fb e.terms.length
    (r.1.setTile kv.1 y.1, r.2 ||| y.2)) (m, o.flags)
  let pop (m : Matrix) (rg n : Nat) : Matrix :=
    let x := m.ring rg
    { m with rings := sset m.rings rg { x with head := x.head + n } }
  (pop (pop r.1 (tpbRingA tpb) (goTake steps MStep.oa)) (tpbRingB tpb) (goTake steps MStep.ob), r.2)

/-- What a drain writes of each element in its order: its exact address, code and flags; or the first fault (R245). -/
def State.drainList (s : State) (u : Nat) (x : Tile) (d : Desc) (rm : Rm) (ovf : Bool) (key : Word) : Except Trap (List (Nat × Nat × Nat)) :=
  let mv : MapV := { m := x.map, xs := [], own := false }
  let ixs := (List.range x.mv).flatMap fun i => (List.range x.nv).map fun j => 64 * i + j
  ixs.foldl (fun r e => match r with
    | .error t => .error t
    | .ok acc =>
      if !mv.known then .error { code := tcMapLost }
      else
        let c := coordAll mv e
        let p : Pt := Q4.mk' fun a => (c.get a).toInt
        if d.bck && !d.inBounds p then .ok acc
        else match addrOk (d.addr p) with
          | .error t => .error t
          | .ok a => match s.cause15 (kOf u) a d.size with
            | some k => .error { code := tcAddr, addr := a, info := k }
            | none =>
              let y := convert d.fmt (decode .f32 (sget 0 x.val e)) rm ovf (hashAt (keySeed key) (keyStep key) d.tag c)
              .ok (acc ++ [(a, y.1, y.2)])) (.ok [])

/-- The final values of element locations, each once. -/
def lastCodes (l : List (Nat × Nat × Nat)) : SMap Nat := l.foldl (fun m x => sset m x.1 x.2.1) []

/-- A tile cleared (R244). -/
def Matrix.zeroTile (m : Matrix) (t : Nat) : Matrix := m.setTile t .init

/-- The drain of a tile (R245); one that writes no element sends no partial. DEDUCED, unsafe (log entries 38, 79). -/
def State.retireDrain (s : State) (u : Nat) (o : MxOp) (t : Nat) (ws : List Word) (rm : Nat) (ovf rel za : Bool) (key : Option Word)
    (nkey : Word) : State :=
  let m := s.mx u
  let x := m.tile t
  match descOf ws with
  | none => s
  | some d =>
    let k := key.getD (if x.keyv then x.key else nkey)
    match s.drainList u x d ((rmOf rm).getD .rne) ovf k with
    | .error tr => s.mxFault u o tr
    | .ok l =>
      let fin := lastCodes l
      if !s.allEngine (fin.map fun kv => ((kv.1 : Int), d.size)) then s
      else
        let cells := fin.flatMap fun kv => cellsOf kv.1 (leBytes d.size kv.2)
        let errs := (fin.filter fun kv => s.errPart cells kv.1 d.size).map Prod.fst
        match errs with
        | a :: _ => (s.findBad (wordsIn a d.size)).mxFault u o { code := tcPoison, addr := a / 8 * 8 }
        | [] =>
          let s := (s.engWrite cells).1
          let s := if d.gid = 0 ∨ fin.isEmpty then s
            else s.mergeNow (modOf u) (s.asidOf (kOf u)) d.gid (partialOf d.fmt (fin.map (·.2)))
          let s := if rel then fin.foldl (fun s kv => s.setOwner kv.1 1 false) s else s
          let m := (s.mx u).leave o true
          (s.setMx u (if za then m.zeroTile t else m)).orXst u (l.foldl (fun f e => f ||| e.2.2) 0)

/-- One element of a scale-accumulate (R246); none where its noise needs a map that is NONE or LOST. -/
def scaleElem (src dst : Tile) (f : Fmt) (sv : Nat → Nat) (rm : Rm) (nkey : Word) (e : Nat) : Option (Nat × Nat) :=
  let mv : MapV := { m := src.map, xs := [], own := false }
  let s := mulV (decode f (sv (e / 64))) (decode f (sv (32 + e % 64)))
  let v := scaleAcc (decode .f32 (sget 0 dst.val e)) (decode .f32 (sget 0 src.val e)) s.1
  if needsNoise .f32 v.1 rm && !mv.known then none
  else
    let y := convert .f32 v.1 rm false ((noiseAt nkey mv e).getD 0)
    some (y.1, y.2 ||| v.2 ||| s.2)

/-- The scale-accumulate of a tile (R246). -/
def State.retireScale (s : State) (u : Nat) (o : MxOp) (src dst sf ga rm : Nat) (nkey : Word) : State :=
  let f := (fmtOfCode sf).getD .f32
  let n := 96 * f.width / 8
  if !s.allEngine [((ga : Int), n)] then s
  else match s.engRead (modOf u) ga n with
    | (s, .error t) => s.mxFault u o t
    | (s, .ok bs) =>
      let m := s.mx u
      let a := m.tile src
      let b := m.tile dst
      let sv (i : Nat) : Nat := codeAt f.width (leNat bs) i
      let ixs := (List.range a.mv).flatMap fun i => (List.range a.nv).map fun j => 64 * i + j
      match ixs.mapM fun e => (scaleElem a b f sv ((rmOf rm).getD .rne) nkey e).map fun y => (e, y) with
      | none => s.mxFault u o { code := tcMapLost }
      | some l =>
        let val := l.foldl (fun v x => sset v x.1 x.2.1) b.val
        let b : Tile := { a with val := val, sc := (b.sc + a.sc) % 2 ^ 32, wop := o.num }
        (s.setMx u ((m.setTile dst b).leave o true)).orXst u (l.foldl (fun fl x => fl ||| x.2.2) 0)

/-- MATRIX_OP_RETIRE (R248): the running operation of core ev.i, its last step ended, retires or faults. It waits while its
granules are STREAM (R36). -/
def execMatrixOpRetire (s : State) : Out :=
  let u := s.ev.i
  let m := s.mx u
  match m.queue with
  | [] => .next s
  | o :: _ =>
    if !o.running || !s.ctxRuns u then .next s
    else match o.kind with
      | .go steps tpb prf =>
        match tpbFmtA tpb, tpbFmtB tpb with
        | some fa, some fb =>
          if o.step < steps.length then .next s
          else
            let r := m.endGo o steps tpb prf fa fb
            .next ((s.setMx u (r.1.leave o true)).orXst u r.2)
        | _, _ => .next s
      | .drain t ws rm ovf rel za key nkey => .next (s.retireDrain u o t ws rm ovf rel za key nkey)
      | .zero mask =>
        .next (s.setMx u (((List.range 4).foldl (fun m t => if bitAt mask t then m.zeroTile t else m) m).leave o true))
      | .scale src dst sf ga rm _ nkey => .next (s.retireScale u o src dst sf ga rm nkey)

end Sys2Proof.Machine
end

