-- ==== Sys2Proof/Machine/Index.lean ====
section
/-! DEFINITION. The index engine (spec 09, R249 to R253): walk descriptors, selections, lists and count words. -/

namespace Sys2Proof.Machine

open Sys2Proof

def State.ix (s : State) (u : Nat) : Index := (s.core u).ix
def State.setIx (s : State) (u : Nat) (x : Index) : State := s.setCore u { s.core u with ix := x }

def execIxdef (a : BitVec 5) (s : State) : Out :=
  onCoreK s fun q =>
    let ea := (s.getK q a).toNat
    match s.recCheck q ea 64 with
    | some t => s.trapRead q t ea 64
    | none => if s.ownOpen q ea 64 then s else (s.setIx q.unit { s.ix q.unit with desc := s.words q ea 8 }).fin q

/-- The checks of IXGO (R250, R251). -/
def walkOk (d : List Word) (list count : Nat) : Bool :=
  let w (i : Nat) : Nat := (d.getD i 0).toNat
  let ext (n : Nat) : Bool := decide (1 ≤ n) && decide (n ≤ 2 ^ 24)
  wdKind d != 3 && field (w 4) 6 3 < 6 && wdF d 5 3 == 0 && wdF d 36 28 == 0 && field (w 4) 9 23 == 0 && field (w 5) 32 32 == 0
    && w 6 == 0 && w 7 == 0 && ext (wdRows d) && ext (wdCols d) && wdF d 8 4 ≤ 8 && wdF d 12 4 ≤ 8 && wdF d 16 4 ≤ 8
    && wdF d 28 8 ≤ wdF d 20 8 && list % wdEntry d == 0 && count % 8 == 0

def execIxgo (d a b : BitVec 5) (rel : Bool) (s : State) : Out :=
  onCoreK s fun q =>
    let x := s.ix q.unit
    let list := (s.getK q a).toNat
    let count := (s.getK q b).toNat
    if x.queue.length ≥ 8 then s
    else if !walkOk x.desc list count then s.trap q { code := tcOpnd }
    else
      let w : Walk := { num := x.last + 1, desc := x.desc, list := list, count := count, rel := rel, order := s.ids
                        doomed := !x.bad.isEmpty, sel := none }
      ({ s with ids := s.ids + 1 }.setIx q.unit { x with last := w.num, queue := x.queue ++ [w] }).finK q d (BitVec.ofNat 64 w.num)

def execIxwait (d a : BitVec 5) (s : State) : Out :=
  onCoreK s fun q =>
    let x := s.ix q.unit
    let n := (s.getK q a).toNat
    if x.ioc < n then s
    else
      let hit := x.bad.any fun i => decide (i ≤ n)
      (s.setIx q.unit { x with bad := x.bad.filter fun i => decide (i > n) }).finK q d
        (BitVec.ofNat 64 (x.ioc % 2 ^ 63 + (if hit then 2 ^ 63 else 0)))

-- Selection (R252) ------------------------------------------------------------------------------------------------------------

/-- The relation of a walk at exact coordinates (R94). -/
def wdRel (d : List Word) (row col : Int) : Bool :=
  let w := (d.getD 4 0).toNat
  (relHolds (field w 6 3) (signed 32 (w / 2 ^ 32) + signed 3 w * row + signed 3 (w / 8) * col)).getD false

/-- Origin of block (bi, bj). -/
def wdBlock (d : List Word) (bi bj : Nat) : Int × Int :=
  (wdRow0 d + (bi * 2 ^ wdF d 8 4 : Nat), wdCol0 d + (bj * 2 ^ wdF d 12 4 : Nat))

/-- MASK and REL: the blocks, in row-major order, that hold a selected element of the region. -/
def wdSelect (d : List Word) (mask : Nat) : List (Int × Int) :=
  let nr := wdRows d
  let nc := wdCols d
  let br := 2 ^ wdF d 8 4
  let bc := 2 ^ wdF d 12 4
  let sel (i j : Nat) : Bool :=
    let rel := wdRel d (wdRow0 d + i) (wdCol0 d + j)
    if wdKind d = 0 then bitAt mask (i * nc + j) && (wdF d 2 1 == 0 || rel) else rel
  (List.range (ceilDiv nr br)).flatMap fun bi => ((List.range (ceilDiv nc bc)).filter fun bj =>
    (span (bi * br) (min br (nr - bi * br))).any fun i => (span (bj * bc) (min bc (nc - bj * bc))).any fun j => sel i j).map (wdBlock d bi)

/-- FIBRE: the entries of the fibre inside the region, repeats of the last block left out. -/
def wdFibre (d : List Word) (fa : Nat) (o0 o1 : Int) (idx : List Int) : List (Int × Int) :=
  idx.foldl (fun acc x =>
    let row := if fa = 0 then x else o0
    let col := if fa = 0 then o1 else x
    let i := row - wdRow0 d
    let j := col - wdCol0 d
    if 0 ≤ i ∧ i < wdRows d ∧ 0 ≤ j ∧ j < wdCols d ∧ (wdF d 2 1 = 0 ∨ wdRel d row col) then
      let b := wdBlock d (i.toNat / 2 ^ wdF d 8 4) (j.toNat / 2 ^ wdF d 12 4)
      if acc.getLast? = some b then acc else acc ++ [b]
    else acc) []

/-- The checks of a range that a walk reads or writes: causes 1 to 4, and alignment where its words have a size. DEDUCED, unsafe (log entry 35). -/
def State.walkCause (s : State) (u a n align : Nat) : Option Trap :=
  match s.spanCause (kOf u) ((a : Int), n) with
  | some t => some t
  | none => if n ≠ 0 ∧ a % align ≠ 0 then some { code := tcAddr, addr := a, info := 5 } else none

/-- A walk reads its source, and nothing where it has no bytes: none while a granule is STREAM (R36), else its selection or its fault. DEDUCED, unsafe (log entry 35). -/
def State.walkRead (s : State) (u : Nat) (d : List Word) : Option (State × Except Trap (List (Int × Int))) :=
  let src := wdSrc d
  let get (s : State) (a n align : Nat) : Option (State × Except Trap (List Byte)) :=
    if n = 0 then some (s, .ok []) else match s.walkCause u a n align with
    | some t => some (s, .error t)
    | none => if s.allEngine [((a : Int), n)] then some (s.engRead (modOf u) a n) else none
  if wdKind d = 1 then some (s, .ok (wdSelect d 0))
  else if wdKind d = 0 then
    match get s src ((wdRows d * wdCols d + 7) / 8) 1 with
    | none => none
    | some (s, .error t) => some (s, .error t)
    | some (s, .ok bs) => some (s, .ok (wdSelect d (leNat bs)))
  else match get s src 64 8 with
    | none => none
    | some (s, .error t) => some (s, .error t)
    | some (s, .ok hs) =>
      let h (i : Nat) : Nat := field (leNat hs) (64 * i) 64
      let fa := field (h 2) 32 2
      if fa ≥ 2 ∨ field (h 2) 34 30 ≠ 0 ∨ h 5 ≠ 0 ∨ h 6 ≠ 0 ∨ h 7 ≠ 0 then some (s, .error { code := tcOpnd, addr := src })
      else
        let cnt := field (h 2) 0 32
        match get s (h 0) (4 * cnt) 4 with
        | none => none
        | some (s, .error t) => some (s, .error t)
        | some (s, .ok bs) =>
          let idx := (List.range cnt).map fun i => signed 32 (leNat ((bs.drop (4 * i)).take 4))
          some (s, .ok (wdFibre d fa (signed 32 (h 3)) (signed 32 (h 3 / 2 ^ 32)) idx))

/-- The walk at the head leaves the queue (R248, R249). -/
def Index.leave (x : Index) (w : Walk) (ok : Bool) : Index :=
  let rest := x.queue.drop 1
  if ok then { x with queue := rest, ioc := w.num }
  else { x with queue := rest.map fun y => { y with doomed := true }, ioc := w.num, bad := x.bad ++ [w.num] }

def State.ixFault (s : State) (u : Nat) (w : Walk) (t : Trap) : State :=
  (s.setIx u ((s.ix u).leave w false)).engFault (kOf u) w.num 0 2 t

/-- Index walks complete while their context yields, and rest once it is saved (R323). DEDUCED, unsafe (log entry 39). -/
def State.ctxMoves (s : State) (u : Nat) : Bool :=
  let st := (s.ctxOf (kOf u)).st
  st == .running || st == .yielding

/-- INDEX_WALK_RUN (R252): the walk at the head of core ev.i's queue reads its source and computes its selection, is cancelled, or
faults. -/
def execIndexWalkRun (s : State) : Out :=
  let u := s.ev.i
  let x := s.ix u
  match x.queue with
  | [] => .next s
  | w :: rest =>
    if w.sel.isSome || !s.ctxMoves u then .next s
    else if w.doomed then .next (s.setIx u (x.leave w false))
    else if !s.clear (s.walkClaim w) then .next s
    else match s.walkRead u w.desc with
      | none => .next s
      | some (s, .error t) => .next (s.ixFault u w t)
      | some (s, .ok l) => .next (s.setIx u { x with queue := { w with sel := some l } :: rest })

-- The list and the count word (R253) ---------------------------------------------------------------------------------------------

/-- The bytes of a list entry; none is void. -/
def wdBytes (d : List Word) (e : Option (Int × Int)) : List Byte :=
  let c (x : Option Int) : Nat := match x with
    | some v => wrapNat 32 v
    | none => 0x80000000
  let row := c (e.map Prod.fst)
  let col := c (e.map Prod.snd)
  if wdF d 3 1 = 1 then leBytes 4 (if wdF d 4 1 = 1 then col else row) else leBytes 4 row ++ leBytes 4 col

/-- The part of a selection that a walk writes, padded and cut to its capacity, and the count word. -/
def wdOutput (d : List Word) (sel : List (Int × Int)) : List Byte × Nat :=
  let c := sel.length
  let p := wdF d 20 8 + 1
  let lo := wdF d 28 8 * c / p
  let hi := (wdF d 28 8 + 1) * c / p
  let part := (sel.drop lo).take (hi - lo)
  let full := ceilDiv part.length (2 ^ wdF d 16 4) * 2 ^ wdF d 16 4
  let ents := (part.map some ++ List.replicate (full - part.length) none).take (wdMax d)
  (ents.flatMap (wdBytes d), part.length + c % 2 ^ 31 * 2 ^ 32 + (if full > wdMax d then 2 ^ 63 else 0))

/-- INDEX_WALK_RETIRE (R253): the running walk writes its list and count word, returns their granules under REL and leaves the
queue; it waits while they are STREAM. -/
def execIndexWalkRetire (s : State) : Out :=
  let u := s.ev.i
  let x := s.ix u
  match x.queue with
  | [] => .next s
  | w :: _ =>
    match w.sel with
    | none => .next s
    | some sel =>
      let out := wdOutput w.desc sel
      let rs : List Range := [((w.list : Int), out.1.length), ((w.count : Int), 8)]
      if !s.ctxMoves u then .next s
      else match firstSome (fun (r : Range) => s.walkCause u r.1.toNat r.2 1) rs with
        | some t => .next (s.ixFault u w t)
        | none =>
          if !s.allEngine rs then .next s
          else match s.engWrite (cellsOf w.list out.1 ++ cellsOf w.count (leBytes 8 out.2)) with
            | (s, some t) => .next (s.ixFault u w t)
            | (s, none) =>
              let s := if w.rel then rs.foldl (fun s r => (granules r.1.toNat r.2).foldl (fun s g => s.setOwner (g * 4096) 1 false) s) s
                else s
              .next (s.setIx u ((s.ix u).leave w true))

end Sys2Proof.Machine
end

