-- ==== Sys2Proof/Machine/Link.lean ====
section
/-! DEFINITION. Towpath: collective sessions, ports, routes and time (spec 21, R397 to R413). -/

namespace Sys2Proof.Machine

open Sys2Proof

-- Sessions (R402 to R406) ----------------------------------------------------------------------------------------------------------

def cdSid (d : List Word) : Nat := field (d.getD 3 0).toNat 0 16
def cdRed (d : List Word) : Nat := cdF d 41 2
def cdBz (d : List Word) : Option Nat := if cdF d 48 1 = 1 then some (cdF d 43 5) else none
def cdTmo (d : List Word) : Nat := field (d.getD 5 0).toNat 0 32
def cdRtab (d : List Word) : Nat := (d.getD 4 0).toNat
/-- What the participants must agree on beside the rank table and SID (R404): the fields of w2, and NPM1. -/
def cdShape (d : List Word) : Nat × Nat := ((d.getD 2 0).toNat, cdNp d)

/-- A format that OP and RED accept (R402). -/
def cdFmtOk (d : List Word) : Bool :=
  match fmtOfCode (cdF d 32 6) with
  | none => false
  | some f =>
    if cdOp d = 0 ∨ cdOp d = 1 ∨ cdOp d = 4 then cdRed d != 3 && (f == .f32 || f == .bf16 || f == .f16 || f == .i32)
    else decide (cdOp d < 5) && cdRed d == 0 && f != .e8m0

/-- A buffer lies in the core unit or the quad unit of its participant. -/
def bufOk (q : SeqId) (a n : Nat) : Bool :=
  let inUnit (u size : Nat) : Bool := decide (unitBase u ≤ a) && decide (a + n ≤ unitBase u + size)
  inUnit (quadOf q.unit * 8 + 4) (2 ^ 20) || (q.kind == .k && inUnit q.unit 0x80000)

/-- Source and destination lie apart, or are equal for ALLRED and BCAST. -/
def cdApart (d : List Word) : Bool :=
  !Range.meets ((cdSrc d : Int), cdSrcLen d) ((cdDst d : Int), cdDstLen d)
    || ((cdOp d == 0 || cdOp d == 2) && cdSrc d == cdDst d && cdSrcLen d == cdDstLen d)

/-- The checks of R410 on a descriptor, but for those of the rank table and the sequencer's sessions. -/
def State.cdOk (s : State) (q : SeqId) (d : List Word) : Bool :=
  let n (i : Nat) : Nat := (d.getD i 0).toNat
  let esz := ((fmtOfCode (cdF d 32 6)).getD .f32).width / 8
  field (n 2) 49 15 == 0 && field (n 3) 40 24 == 0 && field (n 5) 32 32 == 0 && n 6 == 0 && n 7 == 0 && cdFmtOk d
    && decide (1 ≤ cdCount d) && decide (cdCount d ≤ 2 ^ 18) && decide (cdRank d < cdNp d)
    && (match cdBz d with
      | some b => (s.bar (.pod (s.asidOf q) b)).mask != 0
      | none => true)
    && cdSrc d % esz == 0 && cdDst d % esz == 0 && cdRtab d % 8 == 0 && bufOk q (cdSrc d) (cdSrcLen d) && bufOk q (cdDst d) (cdDstLen d)
    && cdApart d

/-- A rank-table entry that R410 accepts, and the sequencer it names (R402). -/
def State.rankOk (s : State) (q : SeqId) (a : Nat) : Bool :=
  let u := a / 2 ^ 20
  (s.cause14 q (u * 2 ^ 20)).isNone && field a 1 19 == 0 && (a % 2 == 0 || u % 8 == 4)

/-- The participants of one session. -/
def State.peers (s : State) (inst : Nat) : List Session := s.sessions.filter fun x => x.inst == inst

/-- A participant's part of a session changes; `order` names it. -/
def State.updSession (s : State) (x : Session) (f : Session → Session) : State :=
  { s with sessions := s.sessions.map fun y => if y.order = x.order then f y else y }

/-- The session with a SID that a sequencer of a context holds open. -/
def State.session (s : State) (q : SeqId) (asid sid : Nat) : Option Session :=
  s.sessions.find? fun x => x.q == q && x.asid == asid && cdSid x.desc == sid

/-- A pod barrier's current generation is aborted (R368). -/
def State.abortBar (s : State) (asid n : Nat) : Nat × State :=
  let b := s.bar (.pod asid n)
  (b.gen, (s.setBar (.pod asid n) { b.complete with abgen := some b.gen }).settleBar (.pod asid n) b.held.length)

def rankSeq (a : Nat) : SeqId :=
  let u := a / 2 ^ 20
  { unit := u, kind := if u % 8 < 4 then .k else if a % 2 = 1 then .qu else .qf }

/-- The sequencers that the rank tables of a session name and that have not joined it. -/
def State.lateRanks (s : State) (inst : Nat) : List SeqId :=
  let ps := s.peers inst
  ((ps.flatMap fun x => x.table.map rankSeq).eraseDups).filter fun q => ps.all fun x => x.q != q

/-- Abort messages with a cause set out to the live participants of a session, and await those that have yet to join; its pod barrier's
generation is aborted once (R326, R368, R406). DEDUCED, unsafe (log entry 61). -/
def State.sendAborts (s : State) (x : Session) (cause : Nat) : State :=
  let first := (s.peers x.inst).all fun y => y.bz.isNone
  let r : Option Nat × State := match cdBz x.desc with
    | some b => if first then let r := s.abortBar x.asid b; (some r.1, r.2) else (none, s)
    | none => (none, s)
  let a : Aborted := { asid := x.asid, sid := cdSid x.desc, inst := x.inst, cause := cause, ranks := s.lateRanks x.inst, bz := r.1 }
  { r.2 with
    sessions := r.2.sessions.map fun y =>
      if y.inst = x.inst then { y with msg := if y.live && y.msg.isNone then some cause else y.msg, bz := if r.1.isSome then r.1 else y.bz } else y
    aborted := if a.ranks.isEmpty || r.2.aborted.any (·.inst == x.inst) then r.2.aborted else a :: r.2.aborted }

/-- A participant enters ABORTED, and its module sends the abort (R406). -/
def State.abortSession (s : State) (x : Session) (cause : Nat) : State :=
  (s.sendAborts x cause).updSession x fun y => { y with st := 3, cause := cause, msg := none }

/-- A participant agrees with one that has joined (R404). -/
def Session.agrees (x y : Session) : Bool :=
  cdShape x.desc == cdShape y.desc && x.table == y.table && cdRank x.desc != cdRank y.desc

/-- The context of a participant runs: its sessions are not suspended (R323). -/
def State.runs (s : State) (x : Session) : Bool := (s.ctx (modOf x.q.unit) x.asid).st == .running

/-- A session's rank table names a sequencer. One that a RUNNING session names and that opens its SID afresh has closed its part of it (R411). -/
def Session.names (x : Session) (q : SeqId) : Bool := x.table.any fun a => rankSeq a == q

/-- A session is recorded (R406): it joins an aborted session that awaits it, when the abort is on its way to it, or the open session of its
SID, JOINING or RUNNING, or begins one; disagreement aborts it, as a sequencer that a RUNNING session does not name disagrees with it (R404).
DEDUCED, unsafe (log entry 61). -/
def State.joinSession (s : State) (q : SeqId) (d : List Word) (table : List Nat) : State :=
  let asid := s.asidOf q
  let same := s.sessions.filter fun x => x.asid == asid && cdSid x.desc == cdSid d && x.msg.isNone
  let joining := same.filter fun x => x.st == 0
  let open' := if joining.isEmpty then same.filter fun x => x.st == 1 && !x.names q else joining
  let inst := match open' with
    | x :: _ => x.inst
    | [] => s.ids
  let x : Session := { q := q, asid := asid, inst := inst, desc := d, table := table, st := 0, cause := 0, since := s.clock, out := []
                       flags := 0, order := s.ids, msg := none, bz := none, held := false }
  let x := { x with pause := if (x :: s.peers inst).all s.runs then none else some s.clock }
  match s.aborted.find? fun a => a.asid == asid && a.sid == cdSid d && a.ranks.contains q with
  | some a =>
    { s with ids := s.ids + 1, sessions := s.sessions ++ [{ x with inst := a.inst, msg := some a.cause, bz := a.bz }] }.forget
      fun id r => id == asid && r == q
  | none =>
    let s := { s with ids := s.ids + 1, sessions := s.sessions ++ [x] }
    if open'.all (fun y => y.st == 0 && x.agrees y) && rankSeq (table.getD (cdRank d) 0) == q then s else s.abortSession x 2

/-- COLL (R410). DEDUCED, unsafe (log entry 61). -/
def execColl (a : BitVec 5) (s : State) : Out :=
  onK s fun q =>
    let ea := (s.getK q a).toNat
    match s.recCheck q ea 64 with
    | some t => s.trapRead q t ea 64
    | none =>
      let d := s.words q ea 8
      let mine := s.sessions.filter fun x => x.q == q && x.asid == s.asidOf q
      if !s.cdOk q d then s.trap q { code := tcOpnd }
      else match s.recCheck q (cdRtab d) (8 * cdNp d) with
        | some t => s.trapRead q t (cdRtab d) (8 * cdNp d)
        | none =>
          let table := (s.words q (cdRtab d) (cdNp d)).map BitVec.toNat
          if !(table.all (s.rankOk q)) ∨ mine.length ≥ 8 ∨ mine.any (fun x => cdSid x.desc == cdSid d) then s.trap q { code := tcOpnd }
          else (s.joinSession q d table).fin q

/-- COLWAIT (R411). -/
def execColwait (d a : BitVec 5) (s : State) : Out :=
  onK s fun q =>
    let v := (s.getK q a).toNat
    match if v < 2 ^ 16 then s.session q (s.asidOf q) v else none with
    | none => s.trap q { code := tcOpnd }
    | some x =>
      if x.live then s
      else { s with sessions := s.sessions.filter fun y => y.order != x.order }.finK q d
        (BitVec.ofNat 64 (if x.st = 3 then 1 + x.cause * 2 ^ 8 else 0))

-- Combining (R403) -------------------------------------------------------------------------------------------------------------------

/-- One node of the tree: a value and the flags it raises. -/
def combineOp (f : Fmt) (red : Nat) (a b : Nat) : Nat × Nat :=
  if red = 0 then
    if f.isInt then (wrapNat 32 (intVal f a + intVal f b), 0)
    else
      let x := addV (decode f a) (decode f b)
      let r := convert f x.1 .rne false 0
      (r.1, x.2 ||| r.2)
  else minMax (red == 1) false f a b

/-- One level of the tree: neighbours combine, a last odd one stays. -/
def combineLevel (f : Fmt) (red : Nat) : List Nat → List Nat × Nat
  | a :: b :: l =>
    let x := combineOp f red a b
    let r := combineLevel f red l
    (x.1 :: r.1, x.2 ||| r.2)
  | l => (l, 0)

/-- `combine` of R403; `fuel` levels suffice for 4096 ranks. -/
def combine (f : Fmt) (red : Nat) : Nat → List Nat → Nat × Nat
  | 0, l => (l.headD 0, 0)
  | n + 1, l =>
    if l.length ≤ 1 then (l.headD 0, 0)
    else
      let x := combineLevel f red l
      let r := combine f red n x.1
      (r.1, x.2 ||| r.2)

/-- The combined array of the sources of all ranks, as bytes, and its flags. -/
def combineAll (f : Fmt) (red : Nat) (srcs : List (List Byte)) (elems : Nat) : List Byte × Nat :=
  let sz := f.width / 8
  (List.range elems).foldl (fun r i =>
    let x := combine f red 13 (srcs.map fun s => leNat ((s.drop (i * sz)).take sz))
    (r.1 ++ leBytes sz x.1, r.2 ||| x.2)) ([], 0)

/-- What a rank receives, and the flags of the session, from the sources in rank order (R402, R403). -/
def collResult (d : List Word) (srcs : List (List Byte)) (rank : Nat) : List Byte × Nat :=
  let f := (fmtOfCode (cdF d 32 6)).getD .f32
  match cdOp d with
  | 2 => (srcs.headD [], 0)
  | 3 => (srcs.flatten, 0)
  | 4 =>
    let r := combineAll f (cdRed d) srcs (cdNp d * cdCount d)
    ((r.1.drop (rank * cdBlock d)).take (cdBlock d), r.2)
  | _ => combineAll f (cdRed d) srcs (cdCount d)

/-- The participants of a session, in rank order. -/
def rankOrder (l : List Session) : List Session :=
  (List.range l.length).filterMap fun r => l.find? fun x => cdRank x.desc == r

/-- The sources of a session in rank order; a bad word makes an engine fault at its owner, and the session holds. DEDUCED, unsafe (log entry 61). -/
def State.readSources (s : State) (l : List Session) : State × Option (List (List Byte)) :=
  l.foldl (fun r x =>
    match r.2 with
    | none => r
    | some acc => match r.1.engRead (modOf x.q.unit) (cdSrc x.desc) (cdSrcLen x.desc) with
      | (s, .ok bs) => (s, some (acc ++ [bs]))
      | (s, .error t) =>
        let s : State := { s with sessions := s.sessions.map fun y => if y.inst = x.inst then { y with held := true } else y }
        (s.engFault x.q (cdSid x.desc) 0 3 t, none)) (s, some [])

/-- COLL_ALL_JOINED (R405, R406): every rank of the session with SID ev.i of context ev.asid has joined and its source granules are
ENGINE: the sources are read and combining begins. DEDUCED, unsafe (log entry 61). -/
def execCollAllJoined (s : State) : Out :=
  let l := s.sessions.filter fun x => x.asid == s.ev.asid && cdSid x.desc == s.ev.i && x.st == 0
  .next (match l with
    | [] => s
    | x :: _ =>
      let ps := rankOrder (s.peers x.inst)
      if ps.length != cdNp x.desc || ps.any (fun y => y.st != 0 || y.msg.isSome || y.held || !s.runs y || !s.allEngine y.claim.rd
          || !s.clear { y.claim with wr := [] }) then s
      else match s.readSources ps with
        | (s, none) => s
        | (s, some srcs) =>
          { s with sessions := s.sessions.map fun y => if y.inst = x.inst then
              let r := collResult y.desc srcs (cdRank y.desc)
              { y with st := 1, out := r.1, flags := r.2 } else y })

/-- COLL_SESSION_DONE (R405): the participant ev.q of the session with SID ev.i of context ev.asid has its destination written, its destination
granules return to STREAM, and its session is DONE. DEDUCED, unsafe (log entry 61). -/
def execCollSessionDone (s : State) : Out :=
  let q := s.ev.q
  .next (match s.session q s.ev.asid s.ev.i with
    | none => s
    | some x =>
      let dst : Range := ((cdDst x.desc : Int), cdDstLen x.desc)
      if x.st != 1 || x.msg.isSome || !s.runs x || !s.allEngine [dst] || !s.clear { x.claim with rd := [] } then s
      else
        let r := if x.writes then s.engWrite (cellsOf (cdDst x.desc) x.out) else (s, none)
        let s := (granules dst.1.toNat dst.2).foldl (fun s g => s.setOwner (g * 4096) 1 false) r.1
        let s := s.updSession x fun y => { y with st := 2 }
        let c := s.ctl q
        let s := s.setCtl q { c with xst := c.xst ||| BitVec.ofNat 32 x.flags }
        match r.2 with
        | some t => s.engFault q s.ev.i 0 3 t
        | none => s)

/-- COLL_TIMEOUT (R406): TMO has elapsed at participant ev.q of the session with SID ev.i of context ev.asid. DEDUCED, unsafe (log entry 61). -/
def execCollTimeout (s : State) : Out :=
  .next (match s.session s.ev.q s.ev.asid s.ev.i with
    | none => s
    | some x =>
      if x.live && x.msg.isNone && cdTmo x.desc != 0 && decide (s.clock ≥ x.since + cdTmo x.desc * 1000)
          && (s.peers x.inst).all s.runs then s.abortSession x 3
      else s)

/-- COLL_ABORT (R406): the abort message reaches participant ev.q of the session with SID ev.i of context ev.asid. A kill posts its event (R326).
DEDUCED, unsafe (log entry 61). -/
def execCollAbort (s : State) : Out :=
  let q := s.ev.q
  .next (match s.session q s.ev.asid s.ev.i with
    | none => s
    | some x => match x.msg with
      | none => s
      | some cause =>
        let s := s.updSession x fun y => { y with st := 3, cause := cause, msg := none }
        if cause = 1 then
          s.post (modOf q.unit) 0x115 (some x.asid) (srcOf q) cause (s.ev.i + x.bz.getD 0 % 2 ^ 32 * 2 ^ 32)
        else s)

-- Ports and routes (R397 to R401, R412) ------------------------------------------------------------------------------------------------

def State.port (s : State) (md n : Nat) : Port := sget .init (s.hub md).ports n
def State.setPort (s : State) (md n : Nat) (p : Port) : State := let h := s.hub md; s.setHub md { h with ports := sset h.ports n p }

/-- The hub unit of a port's events (R446). -/
def portSrc (n : Nat) : Nat := srcHub (if n < 48 then 6 else 7)

/-- The modules that take part in the pod. -/
def State.modules (s : State) : List Nat := (s.hubs.map Prod.fst).filter s.present

/-- Stores and signals of module m's streams in flight to module n are dropped (R401): how many, and the pod without them. -/
def State.dropStores (s : State) (m n : Nat) : Nat × State :=
  let hit (st : Store) : Bool := modOf st.who.unit == m && st.cells.any fun c => modOf (c.1 / 2 ^ 20) == n
  let toSem (p : SPend) : Bool := match p.sem with
    | some (qd, _, _) => modOf (qd * 8) == n
    | none => false
  let sems := (s.cores.filter fun x => modOf x.1 == m).flatMap fun x => x.2.spend.filter toSem
  ((s.transit.filter hit).length + sems.length,
    { s with cores := s.cores.map fun x =>
               if modOf x.1 = m then (x.1, { x.2 with spend := x.2.spend.map fun p => if toSem p then { p with sem := none } else p }) else x
             transit := s.transit.map fun st => if hit st then { st with cells := st.cells.filter fun c => modOf (c.1 / 2 ^ 20) != n } else st })

/-- A module that m no longer reaches (R401): UNREACH, and the sessions with participants at both ends are ABORTED. -/
def State.lose (s : State) (m n : Nat) : State :=
  let r := s.dropStores m n
  let s := r.2.post m 0x114 none (srcHub 0) n r.1
  let hit := s.sessions.filter fun x => x.live && modOf x.q.unit == m && x.table.any fun a => modOf (a / 2 ^ 20) == n
  hit.foldl (fun s x => match s.session x.q x.asid (cdSid x.desc) with
    | some y => if y.live then s.abortSession y 4 else s
    | none => s) s

/-- A port has entered FAILED, or a module has left the pod (R400, R401): every module recomputes its routes from those in `old`,
reports how many have changed, and loses the modules to which none is left. DEDUCED, unsafe (log entry 62). -/
def State.reroute (s old : State) : State :=
  let ms := old.modules
  s.modules.foldl (fun s m =>
    let ns := ms.filter fun n => n != m
    let moved := ns.filter fun n => (old.route m n).map Prod.snd != (s.route m n).map Prod.snd
    let s := s.post m 0x113 none (srcHub 0) 0 moved.length
    (ns.filter fun n => old.reachable m n && !(s.present n && s.reachable m n)).foldl (fun s n => s.lose m n) s) s

/-- A port fails. DEDUCED, unsafe (log entry 62). -/
def State.portDown (s : State) (md n : Nat) (p : Port) : State :=
  ((s.setPort md n { p with st := 4, l0 := false, l1 := false }).post md 0x112 none (portSrc n) n p.pmod).reroute s

/-- A lane failure is counted (R412, R443). -/
def Port.laneLost (p : Port) : Port := { p with lfail := min (p.lfail + 1) 0xFFFF }

/-- FLIT_REPLAY (R397): a damaged flit at port ev.i is replayed. -/
def execFlitReplay (s : State) : Out :=
  let md := s.ev.md
  let p := s.port md s.ev.i
  .next (if p.up then (s.setPort md s.ev.i { p with retry := min (p.retry + 1) 0xFFFF }).count md 11 1 else s)

/-- PORTUP (R398): training of port ev.i ends within 100 ms with both lanes, or with one where ev.val is 1 and lane ev.j has
failed. DESIGN CHOICE, safe (log entry 12). -/
def execPortup (s : State) : Out :=
  let md := s.ev.md
  let n := s.ev.i
  let p := s.port md n
  .next (if p.st ≠ 1 ∨ s.clock > p.since + 10 ^ 8 then s
    else if s.ev.val = 2 then (s.setPort md n { p with st := 2, l0 := true, l1 := true }).post md 0x110 none (portSrc n) n 2
    else if s.ev.val = 1 ∧ s.ev.j < 2 then
      (((s.setPort md n { p.laneLost with st := 3, l0 := s.ev.j != 0, l1 := s.ev.j != 1 }).count md 10 1).post md 0x110 none (portSrc n) n 1).post
        md 0x111 none (portSrc n) n s.ev.j
    else s)

/-- PORT_TRAIN_TIMEOUT (R398): no lane of port ev.i has trained within 100 ms. -/
def execPortTrainTimeout (s : State) : Out :=
  let md := s.ev.md
  let p := s.port md s.ev.i
  .next (if p.st = 1 ∧ s.clock ≥ p.since + 10 ^ 8 then s.portDown md s.ev.i p else s)

/-- LANEFAIL (R398): lane ev.j of port ev.i fails. -/
def execLanefail (s : State) : Out :=
  let md := s.ev.md
  let n := s.ev.i
  let p := s.port md n
  let alive := if s.ev.j = 0 then p.l0 else s.ev.j == 1 && p.l1
  .next (if !alive then s
    else if p.st = 2 then
      ((s.setPort md n { p.laneLost with st := 3, l0 := s.ev.j != 0, l1 := s.ev.j != 1 }).count md 10 1).post md 0x111 none (portSrc n) n s.ev.j
    else if p.st = 3 then (s.count md 10 1).portDown md n p.laneLost
    else s)

/-- Port status (R412). -/
def Port.word (p : Port) : Nat :=
  p.st + (if p.l0 then 8 else 0) + (if p.l1 then 16 else 0) + p.pmod * 2 ^ 5 + p.pport * 2 ^ 15 + p.lfail * 2 ^ 32 + p.retry * 2 ^ 48

/-- The host link (R408, R412): width, rate and Flit Mode. A rate of 16 does not fit its four bits: what they then hold is open.
DESIGN CHOICE, safe (log entry 10). -/
def Hub.hostLink (h : Hub) : Nat := h.width % 32 + (if h.rate < 16 then h.rate else Config.hostRate h.rate % 16) * 2 ^ 5 + 2 ^ 9

/-- LNKST (R412). Item 0x200 is the host link, although the route of module 256 would have the same number. -/
def execLnkst (d a : BitVec 5) (s : State) : Out :=
  onK s fun q =>
    let md := modOf q.unit
    let n := (s.getK q a).toNat
    let h := s.hub md
    if n < 96 then s.finK q d (BitVec.ofNat 64 (s.port md n).word)
    else if n = 0x200 then s.finK q d (BitVec.ofNat 64 h.hostLink)
    else if 0x100 ≤ n ∧ n < 0x500 then
      s.finK q d (match if s.present (n - 0x100) then s.route md (n - 0x100) else none with
        | some (hops, p) => BitVec.ofNat 64 (1 + hops % 16 * 2 ^ 4 + p * 2 ^ 8)
        | none => 0)
    else s.trap q { code := tcOpnd }

-- Time (R341, R407, R413) ------------------------------------------------------------------------------------------------------------------

/-- TMRD (R413). -/
def execTmrd (d : BitVec 5) (s : State) : Out :=
  onK s fun q => s.finK q d (BitVec.ofNat 64 (s.devTime (modOf q.unit)))

/-- The correction that is under way becomes part of the offset. DEDUCED, unsafe (log entry 63). -/
def State.settleTime (s : State) (md : Nat) : Hub :=
  let h := s.hub md
  { h with toff := h.toff + slewed h.slew (s.clock - h.slewAt), slew := 0, slewAt := s.clock }

/-- A correction of device time to `t` (R341), and by `more` nanoseconds that its master has yet to slew: one of 1 ms or more forward, or where
`step` is given any forward one, is a step, which passes over slots of the launch table (R343); every other one is slewed.
DEDUCED, unsafe (log entry 63). -/
def State.correctTime (s : State) (md t : Nat) (step : Bool) (more : Int) : State :=
  let now := s.devTime md
  let h := s.settleTime md
  if t ≥ now + 10 ^ 6 ∨ (step = true ∧ t ≥ now) then
    s.setHub md { h with toff := h.toff + ((t : Int) - now), slew := more
                         tt := h.tt.map fun x => (x.1, { x.2 with steps := x.2.steps ++ [(now, t)] }) }
  else s.setHub md { h with slew := (t : Int) - now + more }

/-- What a module has yet to slew. -/
def State.slewLeft (s : State) (md : Nat) : Int :=
  let h := s.hub md
  h.slew - slewed h.slew (s.clock - h.slewAt)

/-- The modules that discipline their time to module `m`'s and have a route to it. -/
def State.followers (s : State) (m : Nat) : List Nat :=
  s.modules.filter fun n => (s.hub n).master == m && n != m && s.reachable n m

/-- TIME_MESSAGE (R407): host time ev.val reaches the master, and with it the modules that follow it, which step where it steps; or the master's
time reaches a module with a route to it, which then goes on as the master does. DEDUCED, unsafe (log entry 63). -/
def execTimeMessage (s : State) : Out :=
  let md := s.ev.md
  let m := (s.hub md).master
  .next (if !s.present md then s
    else if md = m then
      let t := s.ev.val % 2 ^ 64
      let step := decide (t ≥ s.devTime md + 10 ^ 6)
      (s.followers md).foldl (fun s n => s.correctTime n t step 0) (s.correctTime md t false 0)
    else if s.present m && s.reachable md m then s.correctTime md (s.devTime m) false (s.slewLeft m)
    else s)

/-- The new master for module `m` (R407): the lowest-numbered module that it reaches and to which its host delivers time, by the bits of
`hosts`. -/
def State.newMaster (s : State) (m hosts : Nat) : Option Nat :=
  (List.range 1024).find? fun n => bitAt hosts n && s.present n && s.reachable m n

/-- TIMEHOLD (R407): the master ev.md has lost its host time (ev.j = 1), or cannot be reached; every module that follows it and is concerned
runs free, reports it, and follows the new master. The bits of ev.val name the modules to which a host delivers time; where a module
reaches none of them, it runs on by itself and reports its own number. DEDUCED, unsafe (log entry 63). -/
def execTimehold (s : State) : Out :=
  let old := s.ev.md
  let hosts := s.ev.val
  .next ((s.modules.filter fun m => (s.hub m).master == old && (s.ev.j == 1 || !(s.present old && s.reachable m old))).foldl (fun s m =>
    let t := s.devTime m
    let new := (s.newMaster m hosts).getD m
    (s.setHub m { s.settleTime m with master := new }).post m 0x116 none (srcHub 0) new t) s)

-- The host link (R408) -----------------------------------------------------------------------------------------------------------------------

/-- The host link of a module trains to a width and a rate in units of 8 GT/s, lower ones than it has or up to 16 lanes and 128 GT/s
again. DEDUCED, unsafe (log entry 62). -/
def State.hostTrain (s : State) (md width rate : Nat) : State :=
  let sizes : List Nat := [1, 2, 4, 8, 16]
  if sizes.contains width && sizes.contains rate && (s.hub md).power != .off then s.setHub md { s.hub md with width := width, rate := rate } else s

end Sys2Proof.Machine
end

