-- ==== Sys2Proof/Machine/Store.lean ====
section
/-! DEFINITION. The instructions of S (spec 07, R185 to R194). -/

namespace Sys2Proof.Machine

open Sys2Proof

/-- A position of a store: its target and the coordinates that the bounds check tests, none where the entry's map has none. -/
structure SPos where
  target : Pt
  tested : Option Pt
  code   : Nat
  void   : Bool
  /-- the map's coordinates, for CHK -/
  own    : Option Pt
deriving DecidableEq, Repr

/-- The map's coordinates of position j at width w. -/
def mapPt (v : MapV) (j w : Nat) : Option Pt :=
  if v.known then some (Q4.mk' fun d => (coordAt v j w d).getD 0) else none

/-- The positions of an entry against its targets; `byMap` says that the entry's map is tested (R185). -/
def Desc.storePos (d : Desc) (e : Vec × MapV) (targets : List Pt) (byMap : Bool) : List SPos :=
  let w := d.fmt.width
  targets.mapIdx fun j c =>
    let own := mapPt e.2 j w
    { target := c, tested := if byMap then own else some c, code := field e.1.toNat (w * j) w
      void := isVoid e.2 (j * w / e.2.m.ew.bits), own := own }

/-- The positions that are written (R186). -/
def Desc.written (d : Desc) (ps : List SPos) : List SPos :=
  ps.filter fun p => !p.void && (!d.bck || match p.tested with
    | some c => d.inBounds c
    | none => false)

/-- The traps of R186: a map that tells nothing, and the check of CHK. DEDUCED, unsafe (log entry 40). -/
def Desc.storeTrap (d : Desc) (e : Vec × MapV) (ws : List SPos) (chk : Bool) : Option Trap :=
  if (d.bck || (chk && !ws.isEmpty)) && !e.2.known then some { code := tcMapLost }
  else if chk && ws.any (fun p => match p.own with
      | some c => e.2.m.tag != d.tag || (List.range d.rank).any fun a => c.get a != p.target.get a
      | none => true) then some { code := tcMismatch }
  else none

/-- Exact target addresses with their codes, in position order. -/
def Desc.puts (d : Desc) (ws : List SPos) : List (Int × Nat) := ws.map fun p => (d.addr p.target, p.code)

/-- Final values by address (R187). -/
def finalPuts (l : List (Int × Nat)) : SMap Nat := l.foldl (fun m x => sset m x.1.toNat x.2) []

def finalPieces (sz : Nat) (m : SMap Nat) : List (List (Nat × Byte)) := m.map fun kv => cellsOf kv.1 (leBytes sz kv.2)

/-- What a store of an entry does at issue: the checked elements, and its gauge contribution (R173, R178, R187). -/
structure SPlan where
  els   : List (List (Nat × Byte))
  gauge : Option (Nat × GHalf)

def SPlan.cells (p : SPlan) : List (Nat × Byte) := p.els.flatten

/-- The checks of the map and of every element come before anything is written (R173, R178, R186). DEDUCED, unsafe (log entry 94). -/
def State.storePlan (s : State) (q : SeqId) (d : Desc) (e : Vec × MapV) (ps : List SPos) (chk : Bool) : Except Trap SPlan :=
  let ws := d.written ps
  match d.storeTrap e ws chk with
  | some t => .error t
  | none =>
    let l := d.puts ws
    let fin := finalPuts l
    let els := finalPieces d.size fin
    match firstSome (fun x => s.writeElem q els.flatten x.1 d.size) l with
    | some t => .error t
    | none => .ok { els := els, gauge := if d.gid = 0 ∨ fin.isEmpty then none else some (d.gid, partialOf d.fmt (fin.map (·.2))) }

/-- The head entry of the store queue leaves it. -/
def State.popSq (s : State) (q : SeqId) : State :=
  let c := s.core q.unit
  s.setCore q.unit { c with sq := c.sq.drop 1 }

/-- S can take a further entry: one is there, and fewer than 32 instructions have yet to perform (R19, R313). DEDUCED, unsafe (log entry 28). -/
def Core.sReady (c : Core) : Bool := !c.sq.isEmpty && decide (c.spend.length < 32)

def Core.sqHead (c : Core) : Vec × MapV := c.sq.headD (0, .nil)

/-- An issued store joins the coherence order and waits to perform at core scope; one without an element is complete (R187). -/
def State.issueStore (s : State) (q : SeqId) (t : Tok) (p : SPlan) : LsOut :=
  let s := s.popSq q
  if p.els.isEmpty then .done s (s.after q) false
  else
    let r := (s.healCells p.cells).storeAll q p.els
    let c := r.2.core q.unit
    let sp : SPend := { pc := s.pc q, ids := r.1, pa := lsPa .s t, mark := none, sem := none, gauge := p.gauge, pay := [] }
    .done (r.2.setCore q.unit { c with spend := c.spend ++ [sp] }) (s.after q) true

/-- A store of the head entry (R185 to R187). Its traps come in this order: descriptor, axis, list words, map, elements. DEDUCED, unsafe (log
entry 94). -/
def storeEntry (t : Tok) (n : BitVec 10) (s : State) (chk byMap : Bool) (bad : Desc → Bool) (words : SeqId → Desc → List (Nat × Nat))
    (targets : SeqId → Desc → List Pt) : Out :=
  lsRun .s t s fun q =>
    let c := s.core q.unit
    if !c.sReady then .stall
    else match s.desc q n.toNat with
      | .error tr => .trap tr 8
      | .ok d =>
        if bad d then .trap { code := tcOpnd } 8
        else match s.listCheck q (words q d) with
          | some (tr, sz) => .trap tr sz
          | none => match s.storePlan q d c.sqHead (d.storePos c.sqHead (targets q d) byMap) chk with
            | .error tr => .trap tr d.size
            | .ok p => s.issueStore q t p

/-- The window of a store (R185). -/
def State.storeWindow (s : State) (a : BitVec 4) (step : SeqId → Desc → Int × Int) (q : SeqId) (d : Desc) : List Pt :=
  d.window (s.origin q a.toNat d.rank) (step q d)

def execSt (tok : Tok) (a : BitVec 4) (desc : BitVec 10) (chk : Bool) (s : State) : Out :=
  storeEntry tok desc s chk true (fun _ => false) (fun _ _ => []) (s.storeWindow a fun _ d => d.unitSteps)

def execSts (tok : Tok) (a b : BitVec 4) (desc : BitVec 10) (chk : Bool) (s : State) : Out :=
  storeEntry tok desc s chk true (fun _ => false) (fun _ _ => []) (s.storeWindow a fun q _ => stepsOf (s.getA q b.toNat))

def execSti (tok : Tok) (a b : BitVec 4) (desc : BitVec 10) (ix : BitVec 2) (s : State) : Out :=
  storeEntry tok desc s false false (fun d => decide (ix.toNat ≥ d.rank)) (fun q d => d.indexWords (s.getA q b.toNat).toNat)
    fun q d => s.indexed q d (s.origin q a.toNat d.rank) (s.getA q b.toNat).toNat ix.toNat

def execSsb (tok : Tok) (a b : BitVec 4) (desc : BitVec 10) (s : State) : Out :=
  storeEntry tok desc s false false (fun d => d.ra == d.qa) (fun q d => d.rowWords (s.getA q b.toNat).toNat)
    fun q d => s.blocked q d (s.origin q a.toNat d.rank) (s.getA q b.toNat).toNat 8 0

def execSdrop (tok : Tok) (s : State) : Out :=
  lsRun .s tok s fun q => if (s.core q.unit).sq.isEmpty then .stall else .done (s.popSq q) (s.after q) false

-- PUTSIG (R189)

/-- A signal: a flag's cells, or a semaphore add of quad, number and amount. -/
inductive Signal where
  | flag (cells : List (Nat × Byte))
  | sem (qd n amount : Nat)
deriving DecidableEq, Repr

/-- The trap of a signal's target, or the signal (R189). The payload's cells count towards the words that are covered whole. -/
def State.flagSignal (s : State) (q : SeqId) (pay : List (Nat × Byte)) (b : BitVec 4) (size : Nat) : Except Trap Signal :=
  let ea := (s.getA q b.toNat).toNat
  let cells := cellsOf ea (leBytes size (s.getA q (b.toNat + 1)).toNat)
  match s.writeElem q (pay ++ cells) (ea : Int) size with
  | some t => .error t
  | none => .ok (.flag cells)

/-- DEDUCED, unsafe (log entry 32). -/
def State.semSignal (s : State) (q : SeqId) (b : BitVec 4) : Except Trap Signal :=
  match s.semWord q (s.getA q b.toNat).toNat with
  | .error t => .error t
  | .ok (qd, n) => .ok (.sem qd n ((s.getA q (b.toNat + 1)).toNat % 2 ^ 32))

/-- The issue of a PUTSIG: payload, then signal; it completes with its signal. -/
def State.issueSignal (s : State) (q : SeqId) (t : Tok) (p : SPlan) (sg : Signal) : LsOut :=
  let s := s.popSq q
  let s := s.healCells (p.cells ++ match sg with
    | .flag cs => cs
    | .sem _ _ _ => [])
  let r := s.storeAll q p.els
  let y := match sg with
    | .flag cs =>
      let x := r.2.storeFlag q cs r.1
      (r.1 ++ [x.1], x.2, none)
    | .sem qd n a => (r.1, r.2, some (qd, n, a))
  let c := y.2.1.core q.unit
  let sp : SPend := { pc := s.pc q, ids := y.1, pa := lsPa .s t, mark := none, sem := y.2.2, gauge := p.gauge, pay := [] }
  .done (y.2.1.setCore q.unit { c with spend := c.spend ++ [sp] }) (s.after q) true

/-- PUTSIG (R189): the payload's traps come before the signal's. DEDUCED, unsafe (log entry 94). -/
def putsig (t : Tok) (a : BitVec 4) (n : BitVec 10) (chk : Bool) (size : Nat) (s : State)
    (signal : SeqId → List (Nat × Byte) → Except Trap Signal) : Out :=
  lsRun .s t s fun q =>
    let c := s.core q.unit
    if !c.sReady then .stall
    else match s.desc q n.toNat with
      | .error tr => .trap tr 8
      | .ok d =>
        match s.storePlan q d c.sqHead (d.storePos c.sqHead (s.storeWindow a (fun _ d => d.unitSteps) q d) true) chk with
        | .error tr => .trap tr d.size
        | .ok p => match signal q p.cells with
          | .error tr => .trap tr size
          | .ok sg => s.issueSignal q t p sg

def execPutsigFlag8 (tok : Tok) (a b : BitVec 4) (desc : BitVec 10) (chk : Bool) (s : State) : Out :=
  putsig tok a desc chk 8 s fun q pay => s.flagSignal q pay b 8

def execPutsigFlag4 (tok : Tok) (a b : BitVec 4) (desc : BitVec 10) (chk : Bool) (s : State) : Out :=
  putsig tok a desc chk 4 s fun q pay => s.flagSignal q pay b 4

def execPutsigSemadd (tok : Tok) (a b : BitVec 4) (desc : BitVec 10) (chk : Bool) (s : State) : Out :=
  putsig tok a desc chk 8 s fun q _ => s.semSignal q b

-- Markers, fences, flips and registers

/-- SMARK (R190): complete at issue when every earlier store has performed, else in its turn. -/
def execSmark (tok : Tok) (m : BitVec 4) (s : State) : Out :=
  lsRun .s tok s fun q =>
    let c := s.core q.unit
    if c.spend.isEmpty then
      .done (s.setCore q.unit { c with smark := sset c.smark m.toNat (sget [] c.smark m.toNat ++ [s.tells q 1]) }) (s.after q) false
    else if c.spend.length ≥ 32 then .stall
    else
      let sp : SPend := { pc := s.pc q, ids := [], pa := lsPa .s tok, mark := some m.toNat, sem := none, gauge := none, pay := [] }
      .done (s.setCore q.unit { c with spend := c.spend ++ [sp] }) (s.after q) true

def execSOwne (tok : Tok) (a : BitVec 4) (cnt : BitVec 8) (s : State) : Out := flipLs .s tok a cnt true s
def execSOwnx (tok : Tok) (a : BitVec 4) (cnt : BitVec 8) (s : State) : Out := flipLs .s tok a cnt false s
def execSFence (tok : Tok) (scope : BitVec 3) (s : State) : Out := fenceLs .s tok scope s
def execSaadd (tok : Tok) (a b : BitVec 4) (val : BitVec 14) (s : State) : Out := aaddLs .s tok a b val s
def execSaaddLo (tok : Tok) (a b : BitVec 4) (val : BitVec 14) (s : State) : Out := aaddLoLs .s tok a b val s
def execSaaddHi (tok : Tok) (a b : BitVec 4) (val : BitVec 14) (s : State) : Out := aaddHiLs .s tok a b val s
def execSali (tok : Tok) (a : BitVec 4) (imm : BitVec 16) (s : State) : Out := aliLs .s tok a imm s
def execSak (tok : Tok) (a b : BitVec 4) (imm : BitVec 16) (s : State) : Out := akLs .s tok a b imm s
def execSbr (tok : Tok) (a b : BitVec 4) (slot : BitVec 3) (line : BitVec 13) (s : State) : Out := brLs .s tok a b slot line s
def execSloop (tok : Tok) (a : BitVec 4) (slot : BitVec 3) (line : BitVec 13) (s : State) : Out := loopLs .s tok a slot line s

end Sys2Proof.Machine
end

