-- ==== Sys2Proof/Machine/Quiesce.lean ====
section
/-! DEFINITION. Quiescence: which sequencers stand at a wait (spec 13, R322, R323). -/

namespace Sys2Proof.Machine

open Sys2Proof

/-- What an instruction would do that can wait for another party: a token, a queue, an engine, a group or a barrier. An instruction that
waits for its own stream's accesses, or that none holds up, is not among them. DEDUCED, unsafe (log entry 47). -/
def waitStep (i : Instr) (s : State) : Option Out :=
  match i with
  | .tkpush sl => some (execTkpush sl s)
  | .tkpop sl => some (execTkpop sl s)
  | .sqwait d a b => some (execSqwait d a b s)
  | .mgo d a b prf => some (execMgo d a b prf s)
  | .mwait d a => some (execMwait d a s)
  | .mdrain d a b za key rel ovf rm t => some (execMdrain d a b za key rel ovf rm t s)
  | .mzero d mask => some (execMzero d mask s)
  | .mscale d a b sfmt src dst prf => some (execMscale d a b sfmt src dst prf s)
  | .ixgo d a b rel => some (execIxgo d a b rel s)
  | .ixwait d a => some (execIxwait d a s)
  | .bgenq d a b => some (execBgenq d a b s)
  | .launch d a b => some (execLaunch d a b s)
  | .grpwait d a => some (execGrpwait d a s)
  | .lsqnext d a b => some (execLsqnext d a b s)
  | .bwait d a b => some (execBwait d a b s)
  | .seal d a b => some (execSeal d a b s)
  | .colwait d a => some (execColwait d a s)
  | .ld tok a desc => some (execLd tok a desc s)
  | .lds tok a b desc => some (execLds tok a b desc s)
  | .ldi tok a b desc ix => some (execLdi tok a b desc ix s)
  | .lgb tok a b desc => some (execLgb tok a b desc s)
  | .lrrd tok a b desc => some (execLrrd tok a b desc s)
  | .fbopen tok fb b desc => some (execFbopen tok fb b desc s)
  | .fbnext tok fb => some (execFbnext tok fb s)
  | .fbend tok fb slot line => some (execFbend tok fb slot line s)
  | .fbclose tok fb => some (execFbclose tok fb s)
  | .lmark tok m => some (execLmark tok m s)
  | .lOwne tok a cnt => some (execLOwne tok a cnt s)
  | .lOwnx tok a cnt => some (execLOwnx tok a cnt s)
  | .laadd tok a b val => some (execLaadd tok a b val s)
  | .laaddLo tok a b val => some (execLaaddLo tok a b val s)
  | .laaddHi tok a b val => some (execLaaddHi tok a b val s)
  | .lali tok a imm => some (execLali tok a imm s)
  | .lak tok a b imm => some (execLak tok a b imm s)
  | .lbr tok a b slot line => some (execLbr tok a b slot line s)
  | .lloop tok a slot line => some (execLloop tok a slot line s)
  | .st tok a desc chk => some (execSt tok a desc chk s)
  | .sts tok a b desc chk => some (execSts tok a b desc chk s)
  | .sti tok a b desc ix => some (execSti tok a b desc ix s)
  | .ssb tok a b desc => some (execSsb tok a b desc s)
  | .putsigFlag8 tok a b desc chk => some (execPutsigFlag8 tok a b desc chk s)
  | .putsigFlag4 tok a b desc chk => some (execPutsigFlag4 tok a b desc chk s)
  | .putsigSemadd tok a b desc chk => some (execPutsigSemadd tok a b desc chk s)
  | .smark tok m => some (execSmark tok m s)
  | .sOwne tok a cnt => some (execSOwne tok a cnt s)
  | .sOwnx tok a cnt => some (execSOwnx tok a cnt s)
  | .saadd tok a b val => some (execSaadd tok a b val s)
  | .saaddLo tok a b val => some (execSaaddLo tok a b val s)
  | .saaddHi tok a b val => some (execSaaddHi tok a b val s)
  | .sali tok a imm => some (execSali tok a imm s)
  | .sak tok a b imm => some (execSak tok a b imm s)
  | .sbr tok a b slot line => some (execSbr tok a b slot line s)
  | .sloop tok a slot line => some (execSloop tok a slot line s)
  | _ => none

/-- A control sequencer waits for a pod barrier while the context runs on another module: that party is not quiescent.
DEDUCED, unsafe (log entry 47). -/
def State.waitsPod (s : State) (q : SeqId) : Bool :=
  let asid := s.asidOf q
  (s.podBars.any fun x => x.1 / 32 == asid && x.2.held.any fun h => h.q == q)
    && s.ctxs.any fun x => x.1 % 2048 == asid && x.1 / 2048 != modOf q.unit && x.2.st == .running

/-- X does not wait at an instruction whatever its tokens are: a squashed body instruction pops and pushes none, and one that breaks the rules of
the hardware loop traps (R223, R224). -/
def Core.passes (c : Core) (i : Instr) : Bool :=
  match i with
  | .xlend _ => !c.loop.atEnd
  | .xloop _ => c.loop.act
  | _ => c.loop.atEnd || (c.loop.act && c.loop.squashed)

/-- A sequencer stands at an instruction that waits for another party, and nothing lets it go on now. DEDUCED, unsafe (log entry 47). -/
def State.atWait (s : State) (q : SeqId) : Bool :=
  if isCtl q.kind && (s.ctl q).wait then !s.waitsPod q
  else match s.pos q with
    | .at a => match s.instrAt q a with
      | none => false
      | some i =>
        if q.kind = .x then
          match xSpec i with
          | some (sp, x) =>
            let o := operandsOf sp x
            let push := match i with
              | .xpush _ => true
              | _ => false
            !(s.core q.unit).passes i && (s.core q.unit).xStall x (namesLq o.1 o.2.1 o.2.2) push
          | none => false
        else match waitStep i { s with cur := q } with
          | some (.next s') => s'.pos q == s.pos q && (s'.ctl q).mode == (s.ctl q).mode && (s'.ctl q).wait == (s.ctl q).wait
          | _ => false
    | _ => false

/-- A sequencer is quiescent (R322): its save sequence is done, it has ended, or it stands at a wait. DEDUCED, unsafe (log entry 47). -/
def State.quiescent (s : State) (q : SeqId) : Bool := (s.phase q).done || (s.pos q).isOver || s.atWait q

/-- The sequencers of a group. -/
def Group.seqs (g : Group) : List SeqId :=
  g.ctlSeqs.flatMap fun q => if q.kind = .k then [q, { q with kind := .l }, { q with kind := .x }, { q with kind := .s }] else [q]

/-- A core's work in flight has ended: its loads are present, its stores are performed, and X has made the writes that time lets it
make. -/
def State.coreQuiet (s : State) (u : Nat) : Bool :=
  let c := s.core u
  c.lq.all (·.present) && c.spend.isEmpty && (c.pend.isEmpty || s.atWait { unit := u, kind := .x })
    && c.ix.queue.all (·.sel.isNone)

/-- Every sequencer of a group is quiescent, none is in a handler, and what they have in flight has ended (R322, R323, R325). -/
def State.groupQuiet (s : State) (g : Group) : Bool :=
  (g.seqs.all s.quiescent) && (g.ctlSeqs.all fun q => (s.ctl q).mode == .normal && (q.kind != .k || s.coreQuiet q.unit))

end Sys2Proof.Machine
end

