-- ==== Sys2Proof/Machine/Context.lean ====
section
/-! DEFINITION. Contexts: creation, pre-emption, saving, resuming and killing (spec 13, R310, R311, R321 to R327; 14, R331; 18, R381). -/

namespace Sys2Proof.Machine

open Sys2Proof

-- Creation (R310, R311, R381) -----------------------------------------------------------------------------------------------------------

/-- A context descriptor within the limits of R310. -/
def ctxDescOk (d : List Word) : Bool :=
  let n (i : Nat) : Nat := (d.getD i 0).toNat
  decide (n 0 < 2 ^ 11) && n 1 % 2 ^ 16 == 0 && decide (4 ≤ n 2) && decide (n 2 ≤ 20) && n 3 % 2 ^ 21 == 0 && decide (n 4 < 2 ^ 32)
    && n 5 == 0 && n 6 == 0 && n 7 == 0

/-- A firmware page. -/
def fwPage (va sz tier : Nat) (rx : Bool) : Page := { pageOfWord va 0 0 with sz := sz, tier := tier, r := rx, x := rx, fw := true }

/-- `n` firmware pages from an address on can be mapped: the range is free and below the host window, and the tier has the frames.
DEDUCED, unsafe (log entry 45). -/
def State.fwFits (s : State) (md asid va sz tier n : Nat) : Bool :=
  let size := (fwPage va sz tier false).size
  decide (va + n * size ≤ 2 ^ 51) && !((s.ctx md asid).pages.any fun p => p.touches va (n * size))
    && decide (s.tierUsed md tier + n * size ≤ tierSize tier)

def State.mapFw (s : State) (md asid va sz tier n : Nat) (rx : Bool) : State :=
  let size := (fwPage va sz tier rx).size
  (List.range n).foldl (fun s i => s.addPage md asid (fwPage (va + i * size) sz tier rx)) s

/-- Pages of the gauge table (256 bytes a record), and of the save area. -/
def gaugePages (gtsz : Nat) : Nat := ceilDiv (2 ^ gtsz * 256) (2 ^ 16)

/-- A context leaves BUILDING: it is READY, or FREE again with its build cause. -/
def State.buildCtx (s : State) (md asid : Nat) (d : List Word) : State :=
  let n (i : Nat) : Nat := (d.getD i 0).toNat
  let s := s.enterCtx md asid .building 0 0
  let s := s.setCtx md asid { s.ctx md asid with gtab := n 1, gtsz := n 2, save := n 3, saveq := n 4 }
  let fail (s : State) (cause : Nat) : State := (s.enterCtx md asid .free cause 0).setCtx md asid .init
  if !s.fwFits md asid (n 1) 0 0 (gaugePages (n 2)) then fail s 1
  else
    let s' := s.mapFw md asid (n 1) 0 0 (gaugePages (n 2)) false
    if !s'.fwFits md asid (n 3) 1 1 (2 * n 4) then fail s 2
    else (s'.mapFw md asid (n 3) 1 1 (2 * n 4) false).enterCtx md asid .ready 0 0

/-- CTXNEW (R310, R331). DEDUCED, unsafe (log entries 45, 46). -/
def execCtxnew (s : State) : Out :=
  onRecordDone s 1 fun s md _ w =>
    let d := wordsOfNat (memNat s.mem (hostKey md (recOp w 1)) 64) 8
    let asid := (d.getD 0 0).toNat % 2048
    if !ctxDescOk d then s.ctxRefuse md asid 1 3
    else if (s.ctx md asid).st ≠ .free then s.ctxRefuse md asid 1 4
    else s.buildCtx md asid d

-- Saving (R321 to R323) --------------------------------------------------------------------------------------------------------------------

/-- The groups of a context on a module that hold quads. -/
def State.running (s : State) (md asid : Nat) : List (Nat × Group) := s.groupsIn md asid GState.placed

/-- The first quad of a group and how many it has, as quad indices. -/
def Group.lo (g : Group) : Nat := quadIx g.md g.qb

/-- Stores that bear on a group's quads perform everywhere, but for those that its own streams have not yet performed at core scope. -/
def State.landAround (s : State) (g : Group) : State :=
  s.land fun st => !(g.has st.who && st.lvl == 0) && (g.has st.who || st.cells.any fun c => inQuads g.lo g.nq (c.1 / 2 ^ 20))

/-- What the save area keeps of one quad. DEDUCED, unsafe (log entry 48). -/
def State.saveQuad (s : State) (ix : Nat) : SavedQuad :=
  let here {α : Type} (m : SMap α) (f : Nat → Nat) : SMap α := m.filter fun x => inQuads ix 1 (f x.1)
  let word (w : Nat) : Bool := inQuads ix 1 (w / 2 ^ 20)
  { qn := ix % 512, quad := s.quad ix, cores := (here s.cores id).map fun (x : Nat × Core) => (x.1, { x.2 with lq := x.2.lq.map LEntry.again }), ctls := here s.ctls (· / 4)
    cells := s.mem.filter fun c => word c.1, engine := here s.engine (· / 256), latent := s.latent.filter word, bad := s.bad.filter word
    stores := s.transit.filter fun st => st.lvl == 0 && inQuads ix 1 st.who.unit, clock := s.clock }

/-- The keys of a slot of the save area, as a range. -/
def Ctx.slotRange (c : Ctx) (md asid i : Nat) : Nat × Nat := (pageKey md asid (c.save + i * 2 ^ 22), 2 ^ 22)

/-- One quad goes into the next slot of the save area and becomes free. -/
def State.putSlot (s : State) (md asid ix : Nat) : State :=
  let c := s.ctx md asid
  let r := c.slotRange md asid c.slots.length
  let q := s.saveQuad ix
  let s := s.setCtx md asid { c with slots := c.slots ++ [q] }
  let s := s.resetQuads ix 1
  { s with transit := s.transit.filter fun st => !(st.lvl == 0 && inQuads ix 1 st.who.unit)
           latent := s.latent.filter fun k => !(decide (r.1 ≤ k) && decide (k < r.1 + r.2)) }

/-- The state of a context is written to the save area, and its quads are freed. -/
def State.saveCtx (s : State) (md asid : Nat) : State :=
  let gs := (s.running md asid).map Prod.snd
  let s := gs.foldl (fun s g => (g.ctlSeqs.foldl State.withdraw s).landAround g) s
  let s := s.setCtx md asid { s.ctx md asid with slots := [] }
  let s := (gs.flatMap fun g => span g.lo g.nq).foldl (fun s ix => s.putSlot md asid ix) s
  let c := s.ctx md asid
  (s.setCtx md asid { c with saves := c.saves + 1, req := false, limit := 0 }).enterCtx md asid .saved 0 0

/-- The running barge commands of a context, by chain. -/
def Ctx.runningCmds (c : Ctx) : List (Nat × BCmd) := c.chains.flatMap fun x => (x.2.cmds.filter (·.st.running)).map fun m => (x.1, m)

/-- CONTEXT_SAVE (R311, R322): every sequencer of YIELDING context ev.asid on module ev.md is quiescent, and no barge runs a command of
it (R323). DEDUCED, unsafe (log entry 46). -/
def execContextSave (s : State) : Out :=
  let md := s.ev.md
  let asid := s.ev.asid
  let c := s.ctx md asid
  .next (if c.st = .yielding ∧ c.runningCmds = [] ∧ (s.running md asid).all (fun g => s.groupQuiet g.2) then s.saveCtx md asid else s)

/-- The barges finish their running commands of a context (R323). -/
def State.finishBarges (s : State) (md asid : Nat) : State :=
  (s.ctx md asid).runningCmds.foldl (fun s x => s.runCmd md asid x.1 x.2) s

/-- PREEMPT_TIME_LIMIT (R323): the time limit of the pre-emption passes before quiescence; the save is forced. -/
def execPreemptTimeLimit (s : State) : Out :=
  let md := s.ev.md
  let asid := s.ev.asid
  let c := s.ctx md asid
  .next (if c.st = .yielding ∧ c.limit ≠ 0 ∧ s.clock ≥ c.limit then (s.finishBarges md asid).saveCtx md asid else s)

/-- The request flag is raised at every sequencer of the groups (R321). -/
def State.askYield (s : State) (md asid : Nat) : State :=
  (s.running md asid).foldl (fun s g => g.2.ctlSeqs.foldl (fun s q => s.setCtl q { s.ctl q with req := true }) s) s

/-- A record waits for the context to reach a state. -/
def State.await (s : State) (md asid : Nat) (r : Rec) (st : CtxState) : State :=
  let c := s.ctx md asid
  s.setCtx md asid { c with waiting := c.waiting ++ [(r, st)] }

/-- The time limit of a request; none is 0. -/
def State.limitAt (s : State) (ns : Nat) : Nat := if ns = 0 then 0 else s.clock + ns

/-- The context is pre-empted: the sessions in which it takes part are suspended, and their time-outs stand still (R323, R406). -/
def State.pauseSessions (s : State) (md asid : Nat) : State :=
  let mine := (s.sessions.filter fun x => x.asid == asid && modOf x.q.unit == md).map (·.inst)
  { s with sessions := s.sessions.map fun x => if mine.contains x.inst && x.pause.isNone then { x with pause := some s.clock } else x }

/-- PREEMPT (R311, R323, R331). DEDUCED, unsafe (log entry 45). -/
def execPreempt (s : State) : Out :=
  onRecord s 3 fun s md r w =>
    let asid := recOp w 1
    let c := s.ctx md asid
    let quads := (s.running md asid).foldl (fun a g => a + g.2.nq) 0
    match c.st with
    | .ready | .saved => s.complete md r
    | .yielding => s.await md asid r .saved
    | .running =>
      if quads > c.saveq then (s.ctxRefuse md asid 3 2).complete md r
      else
        let s := s.setCtx md asid { c with req := true, limit := s.limitAt (recOp w 2) }
        (((s.askYield md asid).enterCtx md asid .yielding 0 0).pauseSessions md asid).await md asid r .saved
    | _ => (s.ctxRefuse md asid 3 1).complete md r

-- Killing (R326) -------------------------------------------------------------------------------------------------------------------------------

/-- A group of a killed context stops: what it has in flight is discarded, and its quads are free. DEDUCED, unsafe (log entry 49). -/
def State.killGroup (s : State) (gid : Nat) (g : Group) (held : Bool) : State :=
  let s := if held then
      let s : State := { s with transit := s.transit.filter fun st => !(g.has st.who && st.lvl == 0) }
      let s := s.land fun st => g.has st.who
      g.ctlSeqs.foldl State.withdraw s
    else s
  let s := if held then s.freeQuads gid g else s
  let s : State := { s with dieBars := s.dieBars.filter fun x => x.1 / 64 / 8 != gid }
  let s : State := { s with pkgBars := s.pkgBars.filter fun x => x.1 / 64 != gid }
  let mine (x : PGroup) (y : Sub) : Bool := x.asid == g.asid && g.st.placed && g.has y.q
  let s : State := { s with basin := s.basin.map fun x => (x.1, { x.2 with subs := x.2.subs.filter fun y => !mine x.2 y.2 }) }
  (s.launchDone g).setGroup gid { g with st := .retired, desc := [] }

/-- Collective sessions in which a killed context takes part on a module, with ranks that have joined or have yet to: each that is not complete
is aborted at its peers, and its own parts are gone. -/
def State.killSessions (s : State) (md asid : Nat) : State :=
  let mine (x : Session) : Bool := x.asid == asid && modOf x.q.unit == md
  let part (x : Session) : Bool := x.asid == asid && (modOf x.q.unit == md || x.table.any fun a => modOf (a / 2 ^ 20) == md)
  let s := (s.sessions.filter fun x => part x && x.live).foldl (fun s x => match s.session x.q x.asid (cdSid x.desc) with
    | some y => s.sendAborts y 1
    | none => s) s
  { s with sessions := s.sessions.filter fun x => !mine x }.forget fun id q => id == asid && modOf q.unit == md

/-- Queues bound to a context become UNBOUND (R334). DEDUCED, unsafe (log entry 49). -/
def State.killQueues (s : State) (md asid : Nat) : State :=
  (span 1 63).foldl (fun s q => let x := s.hostQ md q; if x.st ≠ 0 ∧ x.asid = asid then s.unbind md q else s) s

/-- Chains are cancelled: their pages are no longer pinned (R326, R384). -/
def State.killChains (s : State) (md asid : Nat) : State :=
  let c := s.ctx md asid
  (c.chains.flatMap fun x => x.2.cmds.flatMap BCmd.pins) |> (s.setCtx md asid { c with chains := [] }).unpin asid

/-- Kernels become UNLOADED, and their KLOAD and KUNLOAD records complete (R274). -/
def State.killKernels (s : State) (md asid : Nat) : State :=
  let c := s.ctx md asid
  let s := s.setCtx md asid { c with kernels := c.kernels.map fun x => (x.1, { Kernel.none with base := x.2.base, lines := x.2.lines }) }
  (c.kernels.flatMap fun x => (x.2.load.map Prod.fst).toList ++ x.2.unload).foldl (fun s r => s.complete md r) s

/-- A context exists and is not on its way out (R311). -/
def CtxState.lives (c : CtxState) : Bool :=
  match c with
  | .free | .killing | .dead => false
  | _ => true

/-- A context enters KILLING for a reason, and everything of R326 but the unmapping of its pages is done; records that wait for a state
it no longer reaches complete. DEDUCED, unsafe (log entry 49). -/
def State.startKill (s : State) (md asid why kcode : Nat) : State :=
  let c := s.ctx md asid
  let was := c.st
  let lost := c.waiting.filter fun x => x.2 != .dead
  let s := s.setCtx md asid { c with why := why, kcode := kcode, req := false, held := false, limit := 0, slots := []
                                     waiting := c.waiting.filter fun x => x.2 == .dead }
  let s := s.enterCtx md asid .killing why kcode
  let s := lost.foldl (fun s x => s.complete md x.1) s
  let s := s.killSessions md asid
  let s := (s.groupsIn md asid GState.alive).foldl (fun s g => s.killGroup g.1 g.2 (g.2.st.placed && was != .saved)) s
  let h := s.hub md
  let s := s.setHub md { h with pending := h.pending.filter fun l => l.asid != asid }
  let s := ((s.killChains md asid).killKernels md asid).killBasins md asid
  let c := s.ctx md asid
  let s := (s.setCtx md asid { c with gauges := [], stray := 0, parts := [] }).killQueues md asid
  if s.ctxs.any fun x => x.1 % 2048 == asid && x.1 / 2048 != md && x.2.st.lives then s
  else { s with podBars := s.podBars.filter fun x => x.1 / 32 != asid }

/-- STARTING group `gid` becomes RUNNING, unless its context is SAVED; a pre-emption request that stands meets its sequencers (R321, R361). -/
def State.endStart (s : State) (gid : Nat) : State :=
  let g := s.group gid
  let st := (s.ctx g.md g.asid).st
  if g.st == .starting && st == .running then s.initGroup gid
  else if g.st == .starting && st == .yielding then (s.initGroup gid).askYield g.md g.asid
  else s

/-- States in which a kill is accepted (R311). -/
def CtxState.killable (c : CtxState) : Bool :=
  match c with
  | .building | .ready | .running | .yielding | .saved => true
  | _ => false

/-- CTXKILL as a record (R331). DEDUCED, unsafe (log entry 45). -/
def execCmdCtxkill (s : State) : Out :=
  onRecord s 2 fun s md r w =>
    let asid := recOp w 1
    if (s.ctx md asid).st.killable then (s.await md asid r .dead).startKill md asid 1 0
    else (s.ctxRefuse md asid 2 1).complete md r

/-- CTXKILL (R327): the sequencer's own context is killed, and the instruction never completes. -/
def execCtxkill (a : BitVec 5) (s : State) : Out :=
  onK s fun q =>
    let md := modOf q.unit
    let asid := s.asidOf q
    if (s.ctx md asid).st.killable then s.startKill md asid 2 ((s.getK q a).toNat % 2 ^ 16) else s

/-- CONTEXT_KILL_COMPLETE (R326): no page of KILLING context ev.asid is in flight any more; every page is unmapped and the context is
DEAD. -/
def execContextKillComplete (s : State) : Out :=
  let md := s.ev.md
  let asid := s.ev.asid
  let c := s.ctx md asid
  .next (if c.st ≠ .killing ∨ c.pages.any Page.busy then s
    else
      let s := c.pages.foldl (fun s p => s.freePage md asid p) s
      let h := s.hub md
      let s := s.setHub md { h with tt := h.tt.filter fun x => x.2.owner != some asid }
      s.enterCtx md asid .dead c.why c.kcode)

/-- CONTEXT_ACK (R311): the host acknowledges DEAD context ev.asid, and its ASID is free. -/
def execContextAck (s : State) : Out :=
  let md := s.ev.md
  let asid := s.ev.asid
  .next (if (s.ctx md asid).st = .dead then (s.enterCtx md asid .free 0 0).setCtx md asid .init else s)

-- Resuming (R324) ----------------------------------------------------------------------------------------------------------------------------------

/-- A control sequencer comes back: time spent in SAVED does not count, and no request stands. -/
def Ctl.wake (c : Ctl) (away : Nat) : Ctl := { c with cycBase := c.cycBase + away, req := false }

/-- A stream that has run its save sequence goes on at its restore sequence. -/
def State.wakeSeq (s : State) (q : SeqId) : State :=
  match s.phase q with
  | .saved res back fin => s.comeBack q res back fin
  | _ => s

/-- A slot of the save area is restored to its quad. DEDUCED, unsafe (log entry 48). -/
def State.restoreQuad (s : State) (md : Nat) (x : SavedQuad) : State :=
  let ix := quadIx md x.qn
  let s := s.zeroQuads ix 1
  -- every word is written, so an error that struck the free quad and that no read has found is gone (R392)
  let word (w : Nat) : Bool := !inQuads ix 1 (w / 2 ^ 20)
  let put {α : Type} (m l : SMap α) : SMap α := l.foldl (fun m (y : Nat × α) => sset m y.1 y.2) m
  let s := { s with
    mem := memWrite s.mem x.cells, engine := put s.engine x.engine, cores := put s.cores x.cores
    ctls := put s.ctls (x.ctls.map fun (y : Nat × Ctl) => (y.1, y.2.wake (s.clock - x.clock)))
    latent := s.latent.filter word ++ x.latent, bad := s.bad.filter word ++ x.bad, transit := s.transit ++ x.stores }
  s.setQuad ix x.quad

/-- The save area cannot be read back: a word of a slot is uncorrectable. DEDUCED, unsafe (log entry 48). -/
def State.slotBad (s : State) (md asid : Nat) (i : Nat) : Bool :=
  let c := s.ctx md asid
  let r := c.slotRange md asid i
  (s.latent.any fun k => decide (r.1 ≤ k) && decide (k < r.1 + r.2))
    || c.pages.any fun p => (p.poisoned || p.retired) && p.touches (c.save + i * 2 ^ 22) (2 ^ 22)

/-- The errors that the reading of the slots finds. -/
def State.findSlots (s : State) (md asid : Nat) : State :=
  let c := s.ctx md asid
  let lo := pageKey md asid c.save
  (s.latent.filter fun k => decide (lo ≤ k) && decide (k < lo + c.slots.length * 2 ^ 22)).foldl (fun s k =>
    (s.touchLine md asid (c.save + (k - lo))).1) s

/-- The context runs again. In each session of which every participant's context runs, the time-out goes on from where it stood (R323, R406). -/
def State.wakeSessions (s : State) (asid : Nat) : State :=
  { s with sessions := s.sessions.map fun x => match x.pause with
      | some t => if x.asid == asid && (s.peers x.inst).all s.runs then { x with since := x.since + (s.clock - t), pause := none } else x
      | none => x }

/-- Every quad that the context left is free. -/
def State.quadsBack (s : State) (md asid : Nat) : Bool := (s.ctx md asid).slots.all fun x => s.quadFree md x.qn

/-- The context is restored to the quads it left, or killed where its save area cannot be read. -/
def State.restoreCtx (s : State) (md asid : Nat) : State :=
  let c := s.ctx md asid
  if (List.range c.slots.length).any (s.slotBad md asid) then (s.findSlots md asid).startKill md asid 3 0
  else
    let s := c.slots.foldl (fun s x => s.restoreQuad md x) s
    let s := (s.running md asid).foldl (fun s g => g.2.seqs.foldl State.wakeSeq s) s
    let c := s.ctx md asid
    ((s.setCtx md asid { c with slots := [], held := false }).enterCtx md asid .running 0 0).wakeSessions asid

/-- RESUME (R311, R324, R331). DEDUCED, unsafe (log entry 45). -/
def execResume (s : State) : Out :=
  onRecord s 4 fun s md r w =>
    let asid := recOp w 1
    if (s.ctx md asid).st ≠ .saved then (s.ctxRefuse md asid 4 1).complete md r
    else
      let s := s.await md asid r .running
      if s.quadsBack md asid then s.restoreCtx md asid else s.setCtx md asid { s.ctx md asid with held := true }

/-- RESUME_HELD_START (R311): the quads for which a resume was held are free. -/
def execResumeHeldStart (s : State) : Out :=
  let md := s.ev.md
  let asid := s.ev.asid
  let c := s.ctx md asid
  .next (if c.st = .saved ∧ c.held ∧ s.quadsBack md asid then s.restoreCtx md asid else s)

end Sys2Proof.Machine
end

