-- ==== Sys2Proof/Machine/Deque.lean ====
section
/-! DEFINITION. Continuation deques and join counters (spec 14, R338 to R340). -/

namespace Sys2Proof.Machine

open Sys2Proof

/-- The quad that holds the deque of a logical core of the group of `q` (R263, R350). -/
def State.dequeQuad (s : State) (q : SeqId) (i : Nat) : Nat := quadOf ((s.grpOf q).coreUnit i)

/-- The deque of a logical core, top first. -/
def State.deque (s : State) (q : SeqId) (i : Nat) : List ContRec := sget [] (s.quad (s.dequeQuad q i)).deque (i % 4)

def State.setDeque (s : State) (q : SeqId) (i : Nat) (l : List ContRec) : State :=
  let x := s.quad (s.dequeQuad q i)
  s.setQuad (s.dequeQuad q i) { x with deque := sset x.deque (i % 4) l }

/-- A record that a TAKE or STEAL receives is written at k[A], performed at core scope; none was there: nothing is written. -/
def State.receive (s : State) (q : SeqId) (d : BitVec 5) (ea : Nat) (r : Option ContRec) : State :=
  match r with
  | none => s.finK q d 0
  | some bs => ((s.healWords ea 32).store q 1 (cellsOf ea bs)).2.finK q d 1

def execTake (d a : BitVec 5) (s : State) : Out :=
  onCoreK s fun q =>
    let ea := (s.getK q a).toNat
    match s.writeCheck q ea 32 32 with
    | some t => s.trapRead q t ea 32
    | none =>
      let s := s.acquire q
      let i := s.logical q
      let l := s.deque q i
      (s.setDeque q i l.dropLast).receive q d ea l.getLast?

def execSteal (d a b : BitVec 5) (s : State) : Out :=
  onCoreK s fun q =>
    let ea := (s.getK q a).toNat
    let i := (s.getK q b).toNat
    match s.writeCheck q ea 32 32 with
    | some t => s.trapRead q t ea 32
    | none =>
      if i ≥ 4 * (s.grpOf q).nq then s.trap q { code := tcOpnd }
      else
        let s := s.acquire q
        let l := s.deque q i
        (s.setDeque q i (l.drop 1)).receive q d ea l.head?

/-- SPAWN: every earlier access of its stream performs at pod scope first (R339). -/
def execSpawn (d a b : BitVec 5) (s : State) : Out :=
  onK s fun q =>
    let ea := (s.getK q a).toNat
    let i := (s.getK q b).toNat
    match s.readCheck q ea 32 32 with
    | some t => s.trapRead q t ea 32
    | none =>
      if i ≥ 4 * (s.grpOf q).nq then s.trap q { code := tcOpnd }
      else if s.fenceOpen q 5 then s
      else
        let l := s.deque q i
        if l.length ≥ 256 then s.finK q d 0 else (s.setDeque q i (l ++ [s.bytes q ea 32])).finK q d 1

/-- JOIN: an atomic on the latest value of its counter, which performs at every scope (R306, R340). -/
def execJoin (d a : BitVec 5) (s : State) : Out :=
  onK s fun q =>
    let ea := (s.getK q a).toNat
    match s.readCheck q ea 4 4 with
    | some t => s.trapRead q t ea 4
    | none =>
      if s.fenceOpen q 5 then s
      else
        let s := s.flush q ea 4
        let v := (memNat s.mem ea 4 + (2 ^ 32 - 1)) % 2 ^ 32
        (s.write (cellsOf ea (leBytes 4 v))).finK q d (BitVec.ofNat 64 v)

end Sys2Proof.Machine
end

