-- ==== Sys2Proof/Machine/HostPage.lean ====
section
/-! DEFINITION. The host's requests to pages (spec 18, R383; 12, R285, R307, R308) and repair while the module runs (24, R442). -/

namespace Sys2Proof.Machine

open Sys2Proof

/-- The page that a host request reaches at an address, with its module: visible to the host, and giving the access (R382,
R383). -/
def State.hostPage (s : State) (md asid va : Nat) (rd wr : Bool) : Option (Nat × Page) :=
  (s.homeNow md asid va).filter fun x => x.2.hv && (!rd || x.2.r) && (!wr || x.2.w)

/-- The pages that a host request of n bytes reaches, each with its module: every one of them gives the access, or the request
fails as a whole (R383). PRESUMED, unsafe (log entry 44). -/
def State.hostReach (s : State) (md asid va n : Nat) (rd wr : Bool) : Option (List (Nat × Page)) :=
  if n = 0 ∨ n > 2 ^ 16 then none
  else [va, va + n - 1].mapM fun a => s.hostPage md asid a rd wr

def State.reply (s : State) (md : Nat) (c : Completion) : State := s.setHub md { s.hub md with cpl := c }

/-- The lines of a range are read: whether one of them is bad (R392). -/
def State.touchLines (s : State) (md asid va n : Nat) : State × Bool :=
  (linesIn va n).foldl (fun r l => let t := r.1.touchLine md asid l; (t.1, r.2 || t.2)) (s, false)

/-- Writes by the host to n bytes on a page are discarded: they are sealed, or a basin holds the page (R308, R416). -/
def State.shut (s : State) (asid va n : Nat) (x : Nat × Page) : Bool := s.sealedAt asid x.1 va n || x.2.basin.isSome

def State.sealWrite (s : State) (m asid va : Nat) : State := s.post m 0x104 (some asid) (srcHub 5) 0 va

/-- HOST_PAGE_READ (R383): ev.val bytes at ev.addr of context ev.asid on module ev.md. -/
def execHostPageRead (s : State) : Out :=
  let md := s.ev.md
  let asid := s.ev.asid
  let va := s.ev.addr
  let n := s.ev.val
  .next (if !s.present md then s
    else match s.hostReach md asid va n true false with
      | none => s.reply md .unsupported
      | some _ =>
        let t := s.touchLines md asid va n
        t.1.reply md (if t.2 then .poisoned else .data ((t.1.vkeys md asid va n).map (memGet t.1.mem))))

/-- HOST_PAGE_WRITE (R383): the bytes ev.data at ev.addr of context ev.asid on module ev.md. -/
def execHostPageWrite (s : State) : Out :=
  let md := s.ev.md
  let asid := s.ev.asid
  let va := s.ev.addr
  .next (if !s.present md then s
    else match s.hostReach md asid va s.ev.data.length false true with
      | none => s.reply md .unsupported
      | some ps => match ps.find? (s.shut asid va s.ev.data.length) with
        | some p => s.sealWrite p.1 asid va
        | none => (s.pageWrite md asid [(va, s.ev.data)]).1)

/-- What an AtomicOp of w bytes leaves where it found `old`: FetchAdd, Swap or compare and swap. -/
def hostCombine (op w old opnd cmp : Nat) : Nat :=
  (match op with
  | 0 => old + opnd
  | 1 => opnd
  | _ => if old = cmp % 256 ^ w then opnd else old) % 256 ^ w

/-- A width that an AtomicOp has: 4 or 8 bytes, or 16 for a compare and swap; it is aligned to its width. PRESUMED, unsafe (log entry 44). -/
def hostAtomOk (op w va : Nat) : Bool := op < 3 && (w == 4 || w == 8 || (w == 16 && op == 2)) && va % w == 0

/-- HOST_ATOMIC (R307): AtomicOp ev.i of ev.j bytes at ev.addr of context ev.asid on module ev.md, with operand ev.val and comparand
ev.val2; it reads and writes as one action, and answers what it found. DEDUCED, unsafe (log entry 31). PRESUMED, unsafe (log entry 44). -/
def execHostAtomic (s : State) : Out :=
  let md := s.ev.md
  let asid := s.ev.asid
  let va := s.ev.addr
  let w := s.ev.j
  .next (if !s.present md then s
    else if !hostAtomOk s.ev.i w va then s.reply md .unsupported
    else match s.hostReach md asid va w true true with
      | none => s.reply md .unsupported
      | some ps =>
        let t := s.touchLines md asid va w
        let key := t.1.vkey md asid va
        let old := memNat t.1.mem key w
        if ps.any (s.shut asid va w) then
          (t.1.sealWrite (ps.headD (md, pageOfWord 0 0 0)).1 asid va).reply md (if t.2 then .poisoned else .data (leBytes w old))
        else if t.2 then t.1.reply md .poisoned
        else (t.1.write (cellsOf key (leBytes w (hostCombine s.ev.i w old s.ev.val s.ev.val2)))).reply md (.data (leBytes w old)))

/-- ROW_REMAP (R442): a row with too many corrected errors moves to a spare row, and what it holds with it; it is counted (R443). -/
def execRowRemap (s : State) : Out := .next (if s.present s.ev.md then s.count s.ev.md 8 1 else s)

end Sys2Proof.Machine
end

