-- ==== Sys2Proof/Machine/Hash.lean ====
section
/-! DEFINITION. The hash and the two signature schemes that R8 and R271 name by their standards: SHA-384 (and SHA-256, which SLH-DSA
uses) of FIPS 180-4, RSASSA-PSS verification of RFC 8017, and SLH-DSA-SHA2-128s verification of FIPS 205. The standards' own text is no part
of the spec. PRESUMED, unsafe (log entry 14). -/

namespace Sys2Proof.Machine

open Sys2Proof

/-- A number big-endian in `n` bytes. -/
def beBytes (n x : Nat) : List Byte := (leBytes n x).reverse

/-- The big-endian number of a list of bytes. -/
def beNat (l : List Byte) : Nat := l.foldl (fun a b => a * 256 + b.toNat) 0

/-- A list in pieces of `n`, at most `fuel` of them. -/
def chunks {α : Type} (n : Nat) : Nat → List α → List (List α)
  | 0, _ => []
  | fuel + 1, l => if l.isEmpty then [] else l.take n :: chunks n fuel (l.drop n)

-- SHA-2 (FIPS 180-4) --------------------------------------------------------------------------------------------------------

/-- The r-th root of x, rounded down: the low `n` bits of the result are settled one by one, from the highest. -/
def rootOf (r x : Nat) : Nat → Nat → Nat
  | 0, y => y
  | n + 1, y => rootOf r x n (if (y + 2 ^ n) ^ r ≤ x then y + 2 ^ n else y)

/-- The primes below 410, eighty of them. -/
def smallPrimes : List Nat :=
  (List.range 410).filter fun n => decide (2 ≤ n) && (List.range 21).all fun d => decide (d < 2) || decide (n ≤ d) || n % d != 0

/-- The first 64 bits of the fractional part of the r-th root of n. -/
def rootBits (r n : Nat) : Nat := rootOf r (n * 2 ^ (64 * r)) 69 0 % 2 ^ 64

/-- A member of the SHA-2 family: word width, the shifts of its four mixing functions, the constant of each round, the initial value. -/
structure Sha2 where
  w     : Nat
  mixA  : List Nat
  mixE  : List Nat
  mixW0 : List Nat × Nat
  mixW1 : List Nat × Nat
  k     : List Nat
  init  : List Nat
deriving DecidableEq, Repr

/-- SHA-384: round constants from the cube roots of the first eighty primes, initial value from the square roots of the ninth to the
sixteenth. -/
def sha384P : Sha2 where
  w := 64
  mixA := [28, 34, 39]
  mixE := [14, 18, 41]
  mixW0 := ([1, 8], 7)
  mixW1 := ([19, 61], 6)
  k := smallPrimes.map (rootBits 3)
  init := ((smallPrimes.drop 8).take 8).map (rootBits 2)

/-- SHA-256: the first 32 bits of the roots of the first 64 and the first eight primes. -/
def sha256P : Sha2 where
  w := 32
  mixA := [2, 13, 22]
  mixE := [6, 11, 25]
  mixW0 := ([7, 18], 3)
  mixW1 := ([17, 19], 10)
  k := (smallPrimes.take 64).map fun n => rootBits 3 n / 2 ^ 32
  init := (smallPrimes.take 8).map fun n => rootBits 2 n / 2 ^ 32

/-- The exclusive or of the rotations of a word to the right by the amounts of a list. -/
def Sha2.turned (p : Sha2) (l : List Nat) (x : Nat) : Nat :=
  l.foldl (fun acc n => acc ^^^ (x / 2 ^ n + x % 2 ^ n * 2 ^ (p.w - n))) 0

/-- The same with one plain shift beside the rotations. -/
def Sha2.shifted (p : Sha2) (r : List Nat × Nat) (x : Nat) : Nat := p.turned r.1 x ^^^ (x / 2 ^ r.2)

/-- The working variables as two queues of four words, the newest first (A holds a to d, E holds e to h), and the window of sixteen
schedule words, the current one first. -/
structure ShaWork where
  qa  : List Nat
  qe  : List Nat
  win : List Nat
deriving DecidableEq, Repr

/-- One round: each queue takes a new word at its front and loses its last; the window moves on by one. -/
def Sha2.round (p : Sha2) (st : ShaWork) (k : Nat) : ShaWork :=
  let m := 2 ^ p.w
  let a (i : Nat) := st.qa.getD i 0
  let e (i : Nat) := st.qe.getD i 0
  let w (i : Nat) := st.win.getD i 0
  let pick := e 2 ^^^ (e 0 &&& (e 1 ^^^ e 2))
  let most := (a 0 &&& (a 1 ||| a 2)) ||| (a 1 &&& a 2)
  let feed := (e 3 + pick + p.turned p.mixE (e 0) + w 0 + k) % m
  { qa := (feed + most + p.turned p.mixA (a 0)) % m :: st.qa.take 3
    qe := (a 3 + feed) % m :: st.qe.take 3
    win := st.win.tail ++ [(w 0 + p.shifted p.mixW0 (w 1) + w 9 + p.shifted p.mixW1 (w 14)) % m] }

/-- The compression of one block of sixteen words into the hash value. -/
def Sha2.block (p : Sha2) (h : List Nat) (ws : List Nat) : List Nat :=
  let out := p.k.foldl p.round { qa := h.take 4, qe := h.drop 4, win := ws }
  List.zipWith (fun x y => (x + y) % 2 ^ p.w) h (out.qa ++ out.qe)

/-- A message with its padding. -/
def Sha2.pad (p : Sha2) (m : List Byte) : List Byte :=
  let n := p.w / 4
  let blk := 2 * p.w
  let z := (blk - (m.length + 1 + n) % blk) % blk
  m ++ (0x80 : Byte) :: (List.replicate z 0 ++ beBytes n (8 * m.length))

/-- The hash value, as bytes. -/
def Sha2.hash (p : Sha2) (m : List Byte) : List Byte :=
  let b := p.pad m
  let blocks := chunks (2 * p.w) (b.length / (2 * p.w)) b
  (blocks.foldl (fun h x => p.block h ((chunks (p.w / 8) 16 x).map beNat)) p.init).flatMap (beBytes (p.w / 8))

def sha384 (m : List Byte) : List Byte := (sha384P.hash m).take 48
def sha256 (m : List Byte) : List Byte := sha256P.hash m

/-- MGF1 with a hash of `h` bytes (RFC 8017 B.2.1). -/
def mgf1 (hash : List Byte → List Byte) (h : Nat) (seed : List Byte) (n : Nat) : List Byte :=
  ((List.range (ceilDiv n h)).flatMap fun i => hash (seed ++ beBytes 4 i)).take n

-- RSASSA-PSS with RSA-3072, SHA-384 and a salt of 48 bytes (RFC 8017 8.1.2, 9.1.2) --------------------------------------------

/-- b^e mod n, over at most `fuel` bits of e. -/
def powMod (n : Nat) : Nat → Nat → Nat → Nat
  | 0, _, _ => 1 % n
  | fuel + 1, b, e =>
    if e = 0 then 1 % n
    else
      let r := powMod n fuel (b * b % n) (e / 2)
      if e % 2 = 1 then b * r % n else r

/-- The encoded message of a signature verifies for a message. -/
def pssOk (m em : List Byte) : Bool :=
  let db := em.take 335
  let h := (em.drop 335).take 48
  let x := (db.zip (mgf1 sha384 48 h 335)).map fun y => y.1 ^^^ y.2
  let x := match x with
    | [] => []
    | b :: bs => b % 0x80 :: bs
  decide ((db.headD 0).toNat < 0x80) && (em.drop 383) == [(0xBC : Byte)] && x.take 287 == List.replicate 286 0 ++ [(1 : Byte)]
    && sha384 (List.replicate 8 0 ++ sha384 m ++ x.drop 287) == h

/-- Verification: key (modulus and exponent), message, signature of 384 bytes. -/
def rsaPss (key : Nat × Nat) (m sig : List Byte) : Bool :=
  let n := key.1
  decide (2 ^ 3071 ≤ n) && decide (n < 2 ^ 3072) && decide (beNat sig < n) && sig.length == 384
    && pssOk m (beBytes 384 (powMod n (bitLen key.2) (beNat sig) key.2))

-- SLH-DSA-SHA2-128s (FIPS 205): n 16, h 63, d 7, h' 9, a 12, k 14, w 16 -------------------------------------------------------------

/-- An address in its compressed form: layer, tree, type, and three words. -/
structure Adrs where
  layer : Nat
  tree  : Nat
  typ   : Nat
  w1    : Nat
  w2    : Nat
  w3    : Nat
deriving DecidableEq, Repr

def Adrs.bytes (a : Adrs) : List Byte :=
  beBytes 1 a.layer ++ beBytes 8 a.tree ++ beBytes 1 a.typ ++ beBytes 4 a.w1 ++ beBytes 4 a.w2 ++ beBytes 4 a.w3

/-- F, H and T_l: sixteen bytes of the hash of the padded seed, the address and the message. -/
def slhT (seed : List Byte) (a : Adrs) (m : List Byte) : List Byte :=
  (sha256 (seed ++ List.replicate 48 0 ++ a.bytes ++ m)).take 16

/-- The chain from step i over s steps. -/
def slhChain (seed : List Byte) (a : Adrs) (x : List Byte) (i s : Nat) : List Byte :=
  (span i s).foldl (fun x j => slhT seed { a with w3 := j } x) x

/-- The n digits of b bits each of a string, from its front. -/
def digits (b n : Nat) (x : List Byte) : List Nat :=
  (List.range n).map fun i => field (beNat x) (8 * x.length - b * (i + 1)) b

/-- The WOTS+ public key that a signature of 35 · 16 bytes gives for a message. -/
def wotsPk (seed : List Byte) (a : Adrs) (sig m : List Byte) : List Byte :=
  let msg := digits 4 32 m
  let csum := msg.foldl (fun c x => c + (15 - x)) 0
  let all := msg ++ digits 4 3 (beBytes 2 (csum * 16))
  slhT seed { a with typ := 1, w2 := 0, w3 := 0 } (((chunks 16 35 sig).zip all).mapIdx fun i x =>
    slhChain seed { a with typ := 0, w2 := i, w3 := 0 } x.1 x.2 (15 - x.2)).flatten

/-- The root that a leaf and its authentication path give; `ix` is the leaf's index. -/
def authRoot (seed : List Byte) (a : Adrs) (ix : Nat) (leaf : List Byte) (path : List (List Byte)) : List Byte :=
  (path.foldl (fun (st : List Byte × Nat × Nat) y =>
    let z := st.2.1
    let ad := { a with w2 := st.2.2 + 1, w3 := z / 2 }
    (slhT seed ad (if z % 2 = 0 then st.1 ++ y else y ++ st.1), z / 2, st.2.2 + 1)) (leaf, ix, 0)).1

/-- The XMSS root that a signature of (35 + 9) · 16 bytes gives for a message at a leaf. -/
def xmssPk (seed : List Byte) (layer tree ix : Nat) (sig m : List Byte) : List Byte :=
  let a : Adrs := { layer := layer, tree := tree, typ := 0, w1 := ix, w2 := 0, w3 := 0 }
  authRoot seed { a with typ := 2, w1 := 0 } ix (wotsPk seed a (sig.take 560) m) (chunks 16 9 (sig.drop 560))

/-- The FORS public key that a signature of 14 · 13 · 16 bytes gives for a message digest. -/
def forsPk (seed : List Byte) (tree leaf : Nat) (sig md : List Byte) : List Byte :=
  let a : Adrs := { layer := 0, tree := tree, typ := 3, w1 := leaf, w2 := 0, w3 := 0 }
  slhT seed { a with typ := 4 } (((chunks 208 14 sig).zip (digits 12 14 md)).mapIdx fun i x =>
    let ix := i * 4096 + x.2
    authRoot seed a ix (slhT seed { a with w3 := ix } (x.1.take 16)) (chunks 16 12 (x.1.drop 16))).flatten

/-- The hypertree root: layer by layer. -/
def htRoot (seed : List Byte) : List (List Byte) → Nat → Nat → Nat → List Byte → List Byte
  | [], _, _, _, m => m
  | sig :: sigs, layer, tree, leaf, m =>
    htRoot seed sigs (layer + 1) (tree / 512) (tree % 512) (xmssPk seed layer tree leaf sig m)

/-- Verification in pure form with an empty context string: key (seed and root), message, signature of 7856 bytes. -/
def slhDsa (key m sig : List Byte) : Bool :=
  let seed := key.take 16
  let r := sig.take 16
  let msg := (0 : Byte) :: 0 :: m
  let dig := mgf1 sha256 32 (r ++ seed ++ sha256 (r ++ key ++ msg)) 30
  let tree := beNat ((dig.drop 21).take 7) % 2 ^ 54
  let leaf := beNat (dig.drop 28) % 2 ^ 9
  let fors := forsPk seed tree leaf ((sig.drop 16).take 2912) (dig.take 21)
  key.length == 32 && sig.length == 7856 && htRoot seed (chunks 704 7 (sig.drop 2928)) 0 tree leaf fors == key.drop 16

end Sys2Proof.Machine
end

