-- ==== Sys2Proof/Machine/Object.lean ====
section
/-! DEFINITION. Kernel objects: their parts, the loader's checks, interleaving and signatures (spec 10, R254 to R273). -/

namespace Sys2Proof.Machine

open Sys2Proof

/-- A refusal: its code and the byte offset of the failing item (R273). -/
abbrev Refused := Nat × Nat

/-- The first refusal of a list of checks: each a failure, with its offset. DEDUCED, unsafe (log entry 52). -/
def firstBad (code : Nat) (l : List (Bool × Nat)) : Option Refused := (l.find? fun x => x.1).map fun x => (code, x.2)

/-- The number in n bytes of an object at an offset. -/
def oN (o : List Byte) (off n : Nat) : Nat := leNat ((o.drop off).take n)
/-- A field of the 64-bit word at an offset. -/
def oF (o : List Byte) (off lo n : Nat) : Nat := field (oN o off 8) lo n

-- Header and sections (R254 to R256) ----------------------------------------------------------------------------------------------------

/-- An entry of the section table: where it stands, and its fields. -/
structure Sec where
  at_   : Nat
  kind  : Nat
  count : Nat
  off   : Nat
  size  : Nat
deriving DecidableEq, Repr

def objNsec (o : List Byte) : Nat := oF o 8 32 32
def objSectab (o : List Byte) : Nat := oN o 16 8
def objSigoff (o : List Byte) : Nat := oN o 32 8

def objSecs (o : List Byte) : List Sec :=
  (List.range (objNsec o)).map fun i =>
    let a := objSectab o + 32 * i
    { at_ := a, kind := oF o a 0 16, count := oF o a 32 32, off := oN o (a + 8) 8, size := oN o (a + 16) 8 }

/-- The section of a kind; an absent one is empty. -/
def secOf (l : List Sec) (k : Nat) : Sec := (l.find? fun s => s.kind == k).getD { at_ := 0, kind := k, count := 0, off := 0, size := 0 }

/-- The entry size of a section whose entries have one (R256). -/
def entrySize (k : Nat) : Option Nat :=
  match k with
  | 8 | 0x0B | 0x0D => some 16
  | 9 => some 72
  | 0x0A => some 8
  | 0x0C => some 64
  | 0x0F => some 24
  | _ => none

/-- A record of a stream section: its words, NL, its header's offset, and whether its header breaks R258. -/
structure ORec where
  words : List Nat
  nl    : Bool
  off   : Nat
  bad   : Bool
deriving DecidableEq, Repr

/-- The records of a stream section, up to `n` of them, and where they end. A record of more than four extension words ends the reading. -/
def readRecs (o : List Byte) : Nat → Nat → List ORec × Nat
  | 0, a => ([], a)
  | n + 1, a =>
    let h := oN o a 4
    let next := field h 0 3
    let r : ORec := { words := (List.range (1 + next)).map fun i => oN o (a + 4 + 4 * i) 4, nl := bitAt h 3, off := a
                      bad := decide (next > 4) || decide (field h 4 28 ≠ 0) }
    if next > 4 then ([r], a)
    else
      let x := readRecs o n (a + 4 * (2 + next))
      (r :: x.1, x.2)

def secRecs (o : List Byte) (s : Sec) : List ORec := (readRecs o s.count s.off).1

/-- The data images of a section, up to `n` of them, with their offsets, and where they end (R268). -/
def readDatas (o : List Byte) : Nat → Nat → List (Nat × DataImage) × Nat
  | 0, a => ([], a)
  | n + 1, a =>
    let fill := oF o a 22 1 == 1
    let size := oF o a 32 32
    let len := if fill then 8 else ceilDiv size 8 * 8
    let d : DataImage := { off := oF o a 0 20, tgt := oF o a 20 2, fill := fill, size := size, rank := oF o (a + 8) 0 32
                           bytes := (o.drop (a + 16)).take len }
    let x := readDatas o n (a + 16 + len)
    ((a, d) :: x.1, x.2)

/-- A section's SIZE and COUNT belong together (R256). A record of more than four extension words starts inside the section; the rest of the
section is then not read (code 4, R273). -/
def secSizeOk (o : List Byte) (s : Sec) : Bool :=
  match entrySize s.kind with
  | some e => s.size == e * s.count
  | none =>
    if s.kind = 1 then decide (s.size ≥ 64) && s.size == 64 + 8 * oF o (s.off + 16) 0 32
    else if 2 ≤ s.kind ∧ s.kind ≤ 7 then
      let r := readRecs o s.count s.off
      match r.1.find? fun x => decide (x.words.length > 5) with
      | some x => decide (x.off + 4 ≤ s.off + s.size)
      | none => r.2 == s.off + s.size
    else if s.kind = 0x0E then (readDatas o s.count s.off).2 == s.off + s.size
    else s.size == 8256

/-- Check 1 (R254 to R256). DEDUCED, unsafe (log entry 52). -/
def check1 (o : List Byte) : Option Refused :=
  let n := o.length
  if n < 64 then some (1, 0)
  else
    let tab := objSectab o
    let sig := objSigoff o
    let fin := tab + 32 * objNsec o
    match firstBad 1 [(oF o 0 0 32 != 0x01464F56, 0), (decide (objNsec o < 2) || decide (objNsec o > 32), 8), (oN o 24 8 != n, 24),
        (sig + 8256 != n || sig % 8 != 0, 32), (oN o 40 8 != 0, 40), (oN o 48 8 != 0, 48), (oN o 56 8 != 0, 56),
        (decide (tab < 64) || decide (fin > sig), 16)] with
    | some r => some r
    | none =>
      let l := objSecs o
      let bad (i : Nat) (s : Sec) : Bool :=
        let early := l.take i
        let place := if s.kind = 0x10 then s.off == sig
          else decide (fin ≤ s.off) && decide (s.off + s.size ≤ sig)
        oF o s.at_ 16 16 != 0 || oN o (s.at_ + 24) 8 != 0 || s.kind == 0 || decide (s.kind > 0x10) || early.any (fun t => t.kind == s.kind)
          || s.off % 8 != 0 || !place
          || early.any (fun t => decide (t.size ≠ 0) && decide (s.size ≠ 0) && decide (s.off < t.off + t.size) && decide (t.off < s.off + s.size))
          || !secSizeOk o s
      let has (k : Nat) : Bool := l.any fun s => s.kind == k
      match firstBad 1 (l.mapIdx fun i s => (bad i s, s.at_)) with
      | some r => some r
      | none => if has 1 && has 8 && has 0x10 && (span 2 6).any has then none else some (1, tab)

/-- Check 2. -/
def check2 (o : List Byte) : Option Refused := firstBad 2 [(oF o 0 32 16 != 1, 0), (decide (oF o 8 0 32 > 8), 8)]

-- The program header (R257) -----------------------------------------------------------------------------------------------------------------

/-- The sections that present no bytes are absent. -/
def secHas (l : List Sec) (k : Nat) : Bool := l.any fun s => s.kind == k

/-- Check 3. -/
def check3 (o : List Byte) (l : List Sec) : Option Refused :=
  let p := (secOf l 1).off
  let f (lo n : Nat) : Nat := oF o p lo n
  let strm := (List.range 6).foldl (fun a i => if secHas l (2 + i) then a + 2 ^ i else a) 0
  firstBad 3 [(f 0 10 == 0 || decide (f 0 10 > f 10 10) || decide (f 10 10 > 512) || decide (f 20 8 > 6) || f 28 6 != strm || f 60 4 != 0, p),
    (oF o (p + 8) 43 21 != 0 || decide (oF o (p + 8) 32 11 > 1024) || oF o (p + 8) 32 11 != (secOf l 9).count, p + 8),
    (oF o (p + 16) 32 32 != (secOf l 8).count, p + 16), (oN o (p + 24) 8 != 0, p + 24), (oN o (p + 32) 8 != 0, p + 32),
    (oN o (p + 40) 8 != 0, p + 40), (oN o (p + 48) 8 != 0, p + 48), (oN o (p + 56) 8 != 0, p + 56)]

-- Stream records (R258, R224) ---------------------------------------------------------------------------------------------------------------------

/-- The stream of section number i: K, L, X, S, QF, QU. -/
def secStream (i : Nat) : Stream := if i = 1 then .l else if i = 2 then .x else if i = 3 then .s else .k

def ORec.instr (r : ORec) : Nat := r.words.headD 0

/-- A branch record of section i (R258): KB majors, LBR, LLOOP, FBEND, SBR, SLOOP. -/
def ORec.branch (i : Nat) (r : ORec) : Bool :=
  let op := field r.instr 26 6
  match secStream i with
  | .k => decide (0x12 ≤ op) && decide (op ≤ 0x19)
  | .l => op == 0x08 || op == 0x11 || op == 0x12
  | .s => op == 0x0D || op == 0x0E
  | .x => false

/-- The target record of a branch record. -/
def ORec.target (r : ORec) : Nat := r.instr % 2 ^ 16

/-- The first record of an X section that breaks R224: `left` counts the body instructions still due, `open'` is the record of the open
loop. -/
def xloopBad : Option (Nat × Nat) → List ORec → Option Nat
  | none, [] => none
  | some (_, a), [] => some a
  | st, r :: rs =>
    let loopOp := field r.instr 26 6 == 0x3E
    let minor := field r.instr 2 7
    match st with
    | none => if loopOp && minor == 1 then some r.off
      else if loopOp && minor == 0 then xloopBad (some ((field r.instr 20 2 + 1) * (field r.instr 16 4 + 1), r.off)) rs
      else xloopBad none rs
    | some (0, _) => if loopOp && minor == 1 then xloopBad none rs else some r.off
    | some (n + 1, a) => if loopOp && decide (minor ≤ 1) then some r.off else xloopBad (some (n, a)) rs

/-- All records, by section. -/
def objRecs (o : List Byte) (l : List Sec) : List (List ORec) := (List.range 6).map fun i => secRecs o (secOf l (2 + i))

/-- Check 4. -/
def check4 (recs : List (List ORec)) : Option Refused :=
  firstSome (fun i =>
    let rs := recs.getD i []
    match firstBad 4 (rs.map fun r =>
        let kinds := r.words.tail.map fun w => field w 28 4
        (r.bad || !decide kinds.Nodup || (r.branch i && decide (r.target ≥ rs.length)), r.off)) with
    | some r => some r
    | none =>
      if rs.length > 65536 then (rs[65536]?).map fun r => (4, r.off)
      else if i = 2 then (xloopBad none rs).map fun a => (4, a) else none) (List.range 6)

-- Sites and the wait graph (R259 to R261) ---------------------------------------------------------------------------------------------------------

/-- A site: its stream section, role (1 a pop), channel kind and number, record, coefficient and symbol. -/
structure Site where
  stream : Nat
  role   : Nat
  ckind  : Nat
  cid    : Nat
  rec'   : Nat
  coef   : Nat
  sym    : Nat
  off    : Nat
deriving DecidableEq, Repr

def objSites (o : List Byte) (s : Sec) : List Site :=
  (List.range s.count).map fun i =>
    let a := s.off + 16 * i
    { stream := oF o a 0 3, role := oF o a 3 1, ckind := oF o a 4 4, cid := oF o a 8 8, rec' := oF o a 32 32, coef := oF o (a + 8) 0 16
      sym := oF o (a + 8) 16 8, off := a }

/-- The token bits of an L or S instruction. -/
def tokOf (i : Instr) : Option Tok :=
  match i with
  | .ld t _ _ | .lds t _ _ _ | .ldi t _ _ _ _ | .lgb t _ _ _ | .lrrd t _ _ _ | .fbopen t _ _ _ | .fbnext t _ | .fbend t _ _ _
  | .fbclose t _ | .lmark t _ | .lOwne t _ _ | .lOwnx t _ _ | .lFence t _ | .laadd t _ _ _ | .laaddLo t _ _ _ | .laaddHi t _ _ _
  | .lali t _ _ | .lak t _ _ _ | .lbr t _ _ _ _ | .lloop t _ _ _ | .st t _ _ _ | .sts t _ _ _ _ | .sti t _ _ _ _ | .ssb t _ _ _
  | .putsigFlag8 t _ _ _ _ | .putsigFlag4 t _ _ _ _ | .putsigSemadd t _ _ _ _ | .smark t _ | .sOwne t _ _ | .sOwnx t _ _
  | .sFence t _ | .saadd t _ _ _ | .saaddLo t _ _ _ | .saaddHi t _ _ _ | .sali t _ _ | .sak t _ _ _ | .sbr t _ _ _ _
  | .sloop t _ _ _ | .sdrop t => some t
  | _ => none

/-- Sites by role, channel kind and number. -/
abbrev SiteKey := Nat × Nat × Nat

/-- The sites that an instruction makes (R259); the number of a semaphore channel stands as 0. -/
def instrSites (st : Stream) (i : Instr) : List SiteKey :=
  let sl (role : Nat) (o : Option Nat) : List SiteKey := o.toList.map fun n => (role, 0, n)
  let toks : List SiteKey := match st with
    | .l => match tokOf i with
      | some t => sl 1 (lsPb .l t) ++ sl 0 (lsPa .l t)
      | none => []
    | .s => match tokOf i with
      | some t => sl 1 (lsPb .s t) ++ sl 0 (lsPa .s t)
      | none => []
    | .x => match xSpec i with
      | some (_, x) => sl 1 (xPb x) ++ sl 0 (xPa x)
      | none => []
    | .k => []
  toks ++ (match i with
    | .tkpush s => [(0, 0, pushSluice s)]
    | .tkpop s => [(1, 0, popSluice s)]
    | .ld _ _ _ | .lds _ _ _ _ | .ldi _ _ _ _ _ | .lgb _ _ _ _ | .lrrd _ _ _ _ | .fbnext _ _ => [(0, 1, 0)]
    | .xpush _ => [(0, 2, 0)]
    | .st _ _ _ _ | .sts _ _ _ _ _ | .sti _ _ _ _ _ | .ssb _ _ _ _ | .putsigFlag8 _ _ _ _ _ | .putsigFlag4 _ _ _ _ _ | .sdrop _ =>
      [(1, 2, 0)]
    | .putsigSemadd _ _ _ _ _ => [(1, 2, 0), (0, 4, 0)]
    | .smark _ m => [(0, 3, m.toNat)]
    | .lmark _ m => [(1, 3, m.toNat)]
    | .semadd _ _ _ => [(0, 4, 0)]
    | .semwait _ _ _ => [(1, 4, 0)]
    | _ => []) ++ (match xSpec i with
    | some (sp, x) => let c := operandsOf sp x; if namesLq c.1 c.2.1 c.2.2 then [(1, 1, 0)] else []
    | none => [])

/-- The sites of a record: an encoding that is no instruction makes none, but a PUTSIG whose KIND is reserved is still a PUTSIG, and
pops. The target of a branch is not in the form of R124 yet. -/
def ORec.sites (i : Nat) (r : ORec) : List SiteKey :=
  let w := if r.branch i then r.instr / 2 ^ 16 * 2 ^ 16 + 2 ^ 13
    else if i = 3 ∧ field r.instr 26 6 = 5 ∧ field r.instr 4 2 = 3 then r.instr - 3 * 2 ^ 4 else r.instr
  match Sys2Proof.decode (secStream i) (BitVec.ofNat 32 w) (r.words.tail.map (BitVec.ofNat 32)) with
  | some x => instrSites (secStream i) x
  | none => []

def Site.key (s : Site) : SiteKey := (s.role, s.ckind, if s.ckind = 4 then 0 else s.cid)

/-- The same sites, each as often. -/
def sameSites (a b : List SiteKey) : Bool := a.length == b.length && a.all fun x => a.count x == b.count x

/-- Check 5 (R259). -/
def check5 (o : List Byte) (l : List Sec) (recs : List (List ORec)) (sites : List Site) : Option Refused :=
  let p := (secOf l 1).off
  let used (s : Site) : Bool := match s.ckind with
    | 0 => decide (s.cid < 10) && bitAt (oF o p 34 10) s.cid
    | 1 | 2 => s.cid == 0
    | 3 => decide (s.cid < 16) && bitAt (oF o p 44 16) s.cid
    | 4 => decide (s.cid < 32) && bitAt (oF o (p + 8) 0 32) s.cid
    | _ => false
  let mine (i j : Nat) : List SiteKey := (sites.filter fun s => s.stream == i && s.rec' == j).map Site.key
  match firstBad 5 (sites.map fun s =>
      (oF o s.off 16 16 != 0 || oF o (s.off + 8) 24 40 != 0 || s.coef == 0 || !used s || decide (s.rec' ≥ (recs.getD s.stream []).length), s.off)) with
  | some r => some r
  | none => firstSome (fun i => firstBad 5 ((recs.getD i []).mapIdx fun j r => (!sameSites (r.sites i) (mine i j), r.off))) (List.range 6)

/-- Two sites of one channel. -/
def Site.chan (a b : Site) : Bool := a.ckind == b.ckind && a.cid == b.cid

/-- Check 6 (R260). -/
def check6 (sites : List Site) : Option Refused :=
  let sum (s : Site) (role : Nat) : Nat :=
    sites.foldl (fun a t => if t.chan s && t.sym == s.sym && t.role == role then a + t.coef else a) 0
  firstBad 6 (sites.map fun s => (decide (s.ckind < 4) && sum s 0 != sum s 1, s.off))

/-- The nodes that are left once every node without an edge to another one that is left is taken away, `n` times over.
DEDUCED, unsafe (log entry 52). -/
def prune (edges : List (Nat × Nat)) : Nat → List Nat → List Nat
  | 0, l => l
  | n + 1, l => prune edges n (l.filter fun a => edges.any fun e => e.1 == a && l.contains e.2)

/-- The δ = 0 edges of program order (R261): from each site of a stream to the one before it. DEDUCED, unsafe (log entry 52). -/
def orderEdges (sites : List Site) : List (Nat × Nat) :=
  let ix := sites.mapIdx fun i s => (i, s)
  (List.range 6).flatMap fun st =>
    let mine := ((ix.filter fun x => x.2.stream == st).mergeSort fun x y =>
      decide (x.2.rec' < y.2.rec') || (x.2.rec' == y.2.rec' && decide (x.2.role ≥ y.2.role))).map Prod.fst
    (mine.tail.zip mine)

/-- Check 7 (R261). Loop edges have δ = 1, so they close no cycle whose δ sum to zero. -/
def check7 (o : List Byte) (l : List Sec) (sites : List Site) : Option Refused :=
  let p := (secOf l 1).off
  let n := sites.length
  let edges := (List.range (oF o (p + 16) 0 32)).map fun i => let a := p + 64 + 8 * i; (oF o a 0 16, oF o a 16 16, oF o a 32 16, a)
  match firstBad 7 (edges.map fun e => (decide (e.1 ≥ n) || decide (e.2.1 ≥ n) || oF o e.2.2.2 48 16 != 0, e.2.2.2)) with
  | some r => some r
  | none =>
    let site (i : Nat) : Option Site := sites[i]?
    let meets (i : Nat) (s : Site) : Bool := edges.any fun e => e.1 == i && (match site e.2.1 with
      | some t => t.chan s && t.role != s.role
      | none => false)
    match firstBad 7 (sites.mapIdx fun i s => ((s.role == 1 || decide (s.ckind < 3)) && !meets i s, s.off)) with
    | some r => some r
    | none =>
      let zero := (edges.filter fun e => e.2.2.1 == 0).map (fun e => (e.1, e.2.1)) ++ orderEdges sites
      match prune zero n (List.range n) with
      | [] => none
      | i :: _ => some (7, ((site i).map Site.off).getD 0)

-- Tables (R263 to R268) ---------------------------------------------------------------------------------------------------------------------------------

/-- The words of an entry. -/
def oWords (o : List Byte) (off n : Nat) : List Word := (List.range n).map fun i => BitVec.ofNat 64 (oN o (off + 8 * i) 8)

/-- The offsets of a section's entries. -/
def entries (s : Sec) : List Nat := (List.range s.count).map fun i => s.off + s.size / s.count * i

/-- Check 8 (R263). -/
def check8 (o : List Byte) (s : Sec) : Option Refused :=
  firstBad 8 ((entries s).map fun a => (decide (oN o (a + 64) 8 > 1) || (descOf (oWords o a 8)).isNone, a))

/-- Check 9 (R264). -/
def check9 (o : List Byte) (g d : Sec) (gtsz : Nat) : Option Refused :=
  let ids := (entries g).map fun a => oN o a 8
  match firstBad 9 ((entries g).mapIdx fun i a =>
      let x := oN o a 8
      (x == 0 || decide (x ≥ 2 ^ min gtsz 20) || (ids.take i).contains x, a)) with
  | some r => some r
  | none => firstBad 9 ((entries d).map fun a => let x := oF o (a + 40) 16 20; (x != 0 && !ids.contains x, a))

/-- The part of the nest clause of R238 that R266 tests. -/
def nestOk (w : List Word) : Bool :=
  let n (i : Nat) : Nat := (w.getD i 0).toNat
  let lv := (List.range (n 0 % 8)).map fun i => n (i + 1)
  let derived := (lv.filter fun x => field x 34 2 == 1).map fun x => field x 32 2
  decide (n 0 < 2 ^ 5) && decide (1 ≤ n 0 % 8) && decide (n 0 % 8 ≤ 6)
    && (lv.all fun x => decide (x < 2 ^ 54) && decide (field x 34 2 ≤ 1)
      && (field x 34 2 == 1 || (decide (1 ≤ field x 0 32) && decide (field x 0 32 ≤ 2 ^ 24))))
    && decide derived.Nodup && !derived.contains 3
    && decide (((lv.filter fun x => field x 34 2 == 0).foldl (fun a x => a * field x 0 32) 1) ≤ 2 ^ 32)

/-- Check 10 (R265, R266). -/
def check10 (o : List Byte) (r n : Sec) : Option Refused :=
  let rgs := (entries r).map fun a => oF o a 33 3
  match firstBad 10 ((entries r).mapIdx fun i a =>
      (oF o a 36 28 != 0 || oN o (a + 8) 8 != 0 || (rgs.take i).contains (oF o a 33 3)
        || (ringOf 0 (oF o a 0 20) (oF o a 20 13)).isNone, a)) with
  | some x => some x
  | none => firstBad 10 ((entries n).map fun a =>
      (oF o a 20 44 != 0 || oN o a 8 % 8 != 0 || decide (oN o a 8 + 56 > 0x80000) || !nestOk (oWords o (a + 8) 7), a))

/-- A yield-table entry (R267): stream, loop record, save and restore records. -/
def yieldOf (o : List Byte) (a : Nat) : Nat × Nat × Nat × Nat := (oF o a 0 3, oF o a 32 32, oF o (a + 8) 0 32, oF o (a + 8) 32 32)

/-- A counted or hardware loop of a section. -/
def ORec.isLoop (i : Nat) (r : ORec) : Bool :=
  let op := field r.instr 26 6
  match i with
  | 0 => op == 0x19
  | 1 => op == 0x12
  | 2 => op == 0x3E && field r.instr 2 7 == 0
  | _ => op == 0x0E

/-- The first record of the sequence region of a stream section (R322); none where the table names no sequence in it. -/
def regionOf (ys : List (Nat × Nat × Nat × Nat)) (i : Nat) : Option Nat :=
  match (ys.filter fun y => y.1 == i).map fun y => min y.2.2.1 y.2.2.2 with
  | [] => none
  | x :: xs => some (xs.foldl min x)

/-- Check 11 (R267, R322). -/
def check11 (o : List Byte) (s : Sec) (recs : List (List ORec)) : Option Refused :=
  let ys := (entries s).map (yieldOf o)
  match firstBad 11 ((entries s).map fun a =>
      let y := yieldOf o a
      let rs := recs.getD y.1 []
      let loopOk := match rs[y.2.1]? with
        | some r => r.isLoop y.1
        | none => false
      (decide (y.1 > 3) || !loopOk || decide (y.2.2.1 > y.2.2.2) || decide (y.2.2.2 ≥ rs.length), a)) with
  | some r => some r
  | none => firstSome (fun i => match regionOf ys i with
      | none => none
      | some lo => firstBad 11 (((recs.getD i []).take lo).map fun r => (r.branch i && decide (r.target ≥ lo), r.off))) (List.range 4)

/-- Check 12 (R268). -/
def check12 (o : List Byte) (s : Sec) (qmin : Nat) : Option Refused :=
  firstBad 12 ((readDatas o s.count s.off).1.map fun x =>
    let d := x.2
    let lim := if d.tgt = 0 ∨ d.tgt = 2 then 0x80000 else 0x100000
    (oF o x.1 23 9 != 0 || oF o (x.1 + 8) 32 32 != 0 || decide (d.off + d.size > lim) || (d.tgt == 2 && decide (d.rank ≥ 4 * qmin)) || (d.tgt == 3 && decide (d.rank ≥ qmin)),
      x.1))

-- Interleaving (R269, R270) ------------------------------------------------------------------------------------------------------------------------------

/-- A line as it is built: for each slot filled so far its tag and word. -/
abbrev Slots := List (Nat × Nat)

/-- The loader at work: records left by section with their numbers, the slots of the line, the sections used in it, and where each record
went: section, number, line and slot. -/
structure Weave where
  left  : List (List (Nat × ORec))
  slots : Slots
  used  : List Nat
  line  : Nat
  place : List (Nat × Nat × Nat × Nat)
  moved : Bool
deriving DecidableEq, Repr

/-- The tag of section i (R118). -/
def secTag (i : Nat) : Nat := if i < 4 then i + 1 else i + 2

/-- One section's turn in a line. -/
def Weave.turn (x : Weave) (i : Nat) : Weave :=
  match x.left.getD i [] with
  | [] => x
  | (n, r) :: rest =>
    if r.words.length > 7 - x.slots.length ∨ (r.nl ∧ x.used.contains i) then x
    else { x with
      left := x.left.set i rest, slots := x.slots ++ r.words.mapIdx fun j w => (if j = 0 then secTag i else 5, w)
      used := i :: x.used, place := (i, n, x.line, 1 + x.slots.length) :: x.place, moved := true }

/-- Rounds of turns until no record is placed or the line is full. -/
def Weave.round : Nat → Weave → Weave
  | 0, x => x
  | n + 1, x =>
    let y := (List.range 6).foldl Weave.turn { x with moved := false }
    if y.moved && decide (y.slots.length < 7) then Weave.round n y else y

/-- The free slots of a line get a tag. -/
def padLine (tag : Nat) (l : Slots) : Slots := l ++ List.replicate (7 - l.length) (tag, 0)

/-- The lines, with at most `n` of them: the last one is kept as it was filled. -/
def Weave.lines : Nat → Weave → List Slots × Weave
  | 0, x => ([], x)
  | n + 1, x =>
    if x.left.all List.isEmpty then ([], x)
    else
      let y := Weave.round 8 { x with slots := [], used := [] }
      let r := Weave.lines n { y with line := y.line + 1 }
      (y.slots :: r.1, r.2)

/-- The ends of the image (R269): free slots of the last line end every stream, or a line of end tags follows. -/
def closeLines : List Slots → List Slots
  | [] => [padLine 15 []]
  | [l] => if l.length < 7 then [padLine 15 l] else [l, padLine 15 []]
  | l :: ls => padLine 0 l :: closeLines ls

/-- Interleaving: the lines, and the place of each record. -/
def interleave (recs : List (List ORec)) : List Slots × List (Nat × Nat × Nat × Nat) :=
  let total := recs.foldl (fun a r => a + r.length) 0
  let r := Weave.lines total { left := recs.map fun rs => rs.mapIdx fun i x => (i, x), slots := [], used := [], line := 0, place := [], moved := false }
  (closeLines r.1, r.2.place)

/-- The line and slot of a record. -/
def placeOf (pl : List (Nat × Nat × Nat × Nat)) (i n : Nat) : Nat × Nat :=
  match pl.find? fun p => p.1 == i && p.2.1 == n with
  | some p => p.2.2
  | none => (0, 1)

/-- The branches: line, slot, LINE and SLOT of the target, and the record's offset (R270). -/
def branchesOf (recs : List (List ORec)) (pl : List (Nat × Nat × Nat × Nat)) : List (Nat × Nat × Int × Nat × Nat × Nat) :=
  (List.range 6).flatMap fun i => ((recs.getD i []).mapIdx fun n r => (n, r)).filterMap fun x =>
    if x.2.branch i then
      let a := placeOf pl i x.1
      let t := placeOf pl i x.2.target
      some (a.1, a.2, (t.1 : Int) - (a.1 : Int), t.2, t.1, x.2.off)
    else none

/-- Check 13 (R270). DEDUCED, unsafe (log entry 52). -/
def check13 (recs : List (List ORec)) : Option Refused :=
  firstBad 13 ((branchesOf recs (interleave recs).2).map fun b => (decide (b.2.2.1 < -4096) || decide (b.2.2.1 > 4095), b.2.2.2.2.2))

/-- The words of the image. -/
def imageWords (recs : List (List ORec)) : List Nat :=
  let il := interleave recs
  let br := branchesOf recs il.2
  (il.1.mapIdx fun n l => (n, l)).flatMap fun x =>
    let words := x.2.mapIdx fun j s => match br.find? fun b => b.1 == x.1 && b.2.1 == j + 1 with
      | some b => s.2 / 2 ^ 16 * 2 ^ 16 + b.2.2.2.1 * 2 ^ 13 + wrapNat 13 b.2.2.1
      | none => s.2
    let head := (x.2.mapIdx fun j s => s.1 * 2 ^ (4 * j)).foldl (· + ·) 0
    (head + (if br.any fun b => b.2.2.2.2.1 == x.1 then 2 ^ 28 else 0)) :: words

-- Signatures (R271, R272) -------------------------------------------------------------------------------------------------------------------------------------

/-- The key that a key id names in the firmware's key list. -/
def keyOf (keys : List (List Byte)) (id : List Byte) : Option (List Byte) := keys.find? fun k => (sha384 k).take 8 == id

/-- The checks of a signature block over a signed part (R272; 24, R440): the failing code from `c` on, and its place.
DESIGN CHOICE, safe (log entry 14). DEDUCED, unsafe (log entry 52). -/
def signBad (keys : List (List Byte)) (signed block : List Byte) (c sig : Nat) : Option Refused :=
  let digest := sha384 signed
  match keyOf keys (block.take 8), keyOf keys ((block.drop 8).take 8) with
  | none, _ => some (c, sig)
  | _, none => some (c, sig + 8)
  | some rk, some sk =>
    if !rsaPss (Config.rsaPublic rk) digest ((block.drop 16).take 384) then some (c + 1, sig + 16)
    else if !slhDsa sk digest ((block.drop 400).take 7856) then some (c + 2, sig + 400)
    else none

/-- The checks of R273 in the order of their codes. DEDUCED, unsafe (log entry 52). -/
def objBad (keys : List (List Byte)) (gtsz : Nat) (o : List Byte) : Option Refused :=
  match check1 o with
  | some r => some r
  | none =>
    let l := objSecs o
    let recs := objRecs o l
    let sites := objSites o (secOf l 8)
    let sig := objSigoff o
    firstSome (fun c : Unit → Option Refused => c ()) [
      fun _ => check2 o, fun _ => check3 o l, fun _ => check4 recs, fun _ => check5 o l recs sites, fun _ => check6 sites,
      fun _ => check7 o l sites, fun _ => check8 o (secOf l 9), fun _ => check9 o (secOf l 0x0A) (secOf l 9) gtsz,
      fun _ => check10 o (secOf l 0x0B) (secOf l 0x0C), fun _ => check11 o (secOf l 0x0D) recs,
      fun _ => check12 o (secOf l 0x0E) (oF o (secOf l 1).off 0 10), fun _ => check13 recs,
      fun _ => signBad keys (o.take sig) (o.drop sig) 14 sig]

/-- The kernel of an accepted object whose image stands at an address (R263 to R269, R322). -/
def kernelOf (o : List Byte) (base : Nat) : Kernel :=
  let l := objSecs o
  let recs := objRecs o l
  let il := interleave recs
  let p := (secOf l 1).off
  let addr (i n : Nat) : Nat := let x := placeOf il.2 i n; base + 32 * x.1 + 4 * x.2
  let fin := base + 32 * il.1.length
  let ys := (entries (secOf l 0x0D)).map (yieldOf o)
  let starts (i : Nat) : List Nat := (ys.filter fun y => y.1 == i).flatMap fun y => [y.2.2.1, y.2.2.2]
  -- a restore sequence ends before the next sequence, or with its section
  let stop (i n : Nat) : Nat := match (starts i).filter fun m => decide (m > n) with
    | [] => fin
    | m :: ms => addr i (ms.foldl min m)
  { Kernel.none with
    st := .loaded, base := base, lines := il.1.length, qmin := oF o p 0 10, qmax := oF o p 10 10, strm := oF o p 28 6
    descs := (entries (secOf l 9)).map fun a => (oWords o a 8, oN o (a + 64) 8 == 1)
    rings := (entries (secOf l 0x0B)).map fun a => (oF o a 33 3, oN o a 8)
    nests := (entries (secOf l 0x0C)).map fun a => (oN o a 8, oWords o (a + 8) 7)
    yields := ys.map fun y => { stream := y.1, loop := addr y.1 y.2.1, save := addr y.1 y.2.2.1, restore := addr y.1 y.2.2.2
                                fin := stop y.1 y.2.2.2 }
    datas := (readDatas o (secOf l 0x0E).count (secOf l 0x0E).off).1.map Prod.snd
    region := (List.range 4).foldl (fun m i => match regionOf ys i with
      | some n => sset m (secTag i) (addr i n)
      | none => m) [] }

end Sys2Proof.Machine
end

