-- ==== Sys2Proof/Machine/Loader.lean ====
section
/-! DEFINITION. Loading and unloading kernels (spec 10, R272 to R274, R448; 14, R331). -/

namespace Sys2Proof.Machine

open Sys2Proof

/-- A KERNEL event (R346, R446). -/
def State.kernelEvent (s : State) (md asid code payload : Nat) : State := s.post md 0x12 (some asid) (srcHub 0) code payload

/-- Where an image of `n` pages for a kernel id can be mapped: the place that the loader prefers, or else the lowest one after a page.
DESIGN CHOICE, safe (log entry 15). -/
def State.imageBase (s : State) (md asid id n : Nat) : Option Nat :=
  let ends := (s.ctx md asid).pages.map fun p => p.va + p.size
  ((Config.imagePlace id * 2 ^ 16) :: 2 ^ 16 :: ends).find? fun a => a != 0 && s.fwFits md asid a 0 0 n

/-- The object at an address of a context, where every byte of it can be read. DEDUCED, unsafe (log entry 51). -/
def State.objectAt (s : State) (md asid a n : Nat) : State × Option (List Byte) :=
  if s.runCode md asid a n true false ≠ 0 then (s, none)
  else
    let r := s.pageRead md asid a n
    (r.1, match r.2 with
      | .ok bs => bs.mapM id
      | .error _ => none)

/-- The image is mapped executable and its kernel LOADED (R272, R274). DEDUCED, unsafe (log entry 51). -/
def State.loadImage (s : State) (md asid id : Nat) (o : List Byte) (base : Nat) : State :=
  let words := imageWords (objRecs o (objSecs o))
  let s := s.mapFw md asid base 0 0 (ceilDiv (4 * words.length) (2 ^ 16)) true
  let s := s.write (cellsOf (pageKey md asid base) (words.flatMap (leBytes 4)))
  let c := s.ctx md asid
  (s.setCtx md asid (c.setKernel id { Sys2Proof.Machine.kernelOf o base with unload := (c.kernel id).unload })).kernelEvent md asid 0 id

/-- A KUNLOAD of an id that names no kernel changes nothing, and completes with its event (R448). -/
def State.unloadNone (s : State) (md asid id : Nat) (r : Rec) : State := (s.kernelEvent md asid 17 id).complete md r

/-- An object is refused: its kernel id is REFUSED, and the event carries the code and the offset; the KUNLOAD records that waited find no
kernel; the id is free once the host has read the event (R273, R274, R448). DEDUCED, unsafe (log entry 51). -/
def State.refuseObject (s : State) (md asid id : Nat) (e : Refused) : State :=
  let c := s.ctx md asid
  let waited := (c.kernel id).unload
  let s := (s.setCtx md asid (c.setKernel id { Kernel.none with st := .refused })).arbiter md
    { kind := 0x12, asid := some asid, src := srcHub 0, code := e.1, payload := e.2 % 2 ^ 64, frees := some id }
  waited.foldl (fun s r => s.unloadNone md asid id r) s

/-- The load of LOADING kernel `id` ends (R273, R274): LOADED, or REFUSED; its KLOAD record completes, and a KUNLOAD that waited is applied.
Where no frames are left for its image it stays LOADING. DESIGN CHOICE, safe (log entry 15). DEDUCED, unsafe (log entry 51). -/
def State.endLoad (s : State) (md asid id : Nat) : State :=
  match ((s.ctx md asid).kernel id).load with
  | none => s
  | some (r, a, n) =>
    let x := s.objectAt md asid a n
    let bad (e : Refused) : State := (x.1.refuseObject md asid id e).complete md r
    match x.2 with
    | none => bad (1, 0)
    | some o => match objBad (s.hub md).keys (s.ctx md asid).gtsz o with
      | some e => bad e
      | none => match s.imageBase md asid id (ceilDiv (4 * (imageWords (objRecs o (objSecs o))).length) (2 ^ 16)) with
        | none => s
        | some base =>
          let s := (x.1.loadImage md asid id o base).complete md r
          if ((s.ctx md asid).kernel id).unload.isEmpty then s else s.unloadKernel md asid id

/-- A kernel id is given to a load request: LOADING (R274). -/
def State.beginLoad (s : State) (md asid : Nat) (r : Rec) (a n : Nat) : State :=
  let c := s.ctx md asid
  s.setCtx md asid { c.setKernel c.nextKernel { Kernel.none with st := .loading, load := some (r, a, n) } with nextKernel := c.nextKernel + 1 }

/-- KLOAD (R273, R274): the object of w2 bytes at w1 is checked, and its kernel is LOADED or REFUSED. With ev.j = 1 the loader leaves it
LOADING, and its load ends with a later turn. DEDUCED, unsafe (log entries 46, 51). -/
def execKload (s : State) : Out :=
  onRecord s 6 fun s md r w =>
    let asid := r.asid.getD 0
    let id := (s.ctx md asid).nextKernel
    let s := s.beginLoad md asid r (recOp w 1) (recOp w 2)
    if s.ev.j = 1 then s else s.endLoad md asid id

/-- KUNLOAD (R274, R448). -/
def execKunload (s : State) : Out :=
  onRecord s 7 fun s md r w =>
    let asid := r.asid.getD 0
    let id := recOp w 1
    let c := s.ctx md asid
    let k := c.kernel id
    let wait (st : KState) : State := s.setCtx md asid (c.setKernel id { k with st := st, unload := k.unload ++ [r] })
    match k.st with
    | .loaded => (wait .loaded).unloadKernel md asid id
    | .active | .unloading => wait .unloading
    | .loading => wait .loading
    | _ => s.unloadNone md asid id r

end Sys2Proof.Machine
end

