-- ==== Sys2Proof/Machine/Sign.lean ====
section
/-! DEFINITION. The signing halves of the two schemes that R8, R271 and R444 name by their standards: RSASSA-PSS (RFC 8017) and
SLH-DSA-SHA2-128s (FIPS 205), and the device keys of a module. PRESUMED, unsafe (log entry 14). -/

namespace Sys2Proof.Machine

open Sys2Proof

/-- Exactly n bytes. -/
def padTo (n : Nat) (l : List Byte) : List Byte := l.take n ++ List.replicate (n - l.length) 0

-- RSASSA-PSS (RFC 8017 8.1.1, 9.1.1) --------------------------------------------------------------------------------------------

/-- The encoded message of a message and a salt of 48 bytes. -/
def pssEncode (m salt : List Byte) : List Byte :=
  let h := sha384 (List.replicate 8 0 ++ sha384 m ++ salt)
  let db : List Byte := List.replicate 286 0 ++ (1 : Byte) :: salt
  let x := List.zipWith (· ^^^ ·) db (mgf1 sha384 48 h 335)
  (match x with
    | [] => []
    | b :: bs => b % 0x80 :: bs) ++ h ++ [(0xBC : Byte)]

/-- An RSA-3072 key pair: modulus, public and private exponent. -/
structure RsaKey where
  n : Nat
  e : Nat
  d : Nat
deriving DecidableEq, Repr

/-- The two exponents undo each other. -/
def RsaKey.ok (k : RsaKey) : Bool :=
  decide (2 ^ 3071 ≤ k.n) && decide (k.n < 2 ^ 3072) && decide (∀ x, x < k.n → powMod k.n (bitLen k.e) (powMod k.n (bitLen k.d) x k.d) k.e = x)

/-- The RSA device key of a module: any pair that is one, which one is free. DESIGN CHOICE, safe (log entry 14). -/
def deviceRsa (md : Nat) : RsaKey :=
  let k : RsaKey := { n := (Config.rsaSecret md).1, e := (Config.rsaSecret md).2.1, d := (Config.rsaSecret md).2.2 }
  if k.ok then k else { n := 2 ^ 3071, e := 1, d := 1 }

def RsaKey.sign (k : RsaKey) (m salt : List Byte) : List Byte :=
  beBytes 384 (powMod k.n (bitLen k.d) (beNat (pssEncode m (padTo 48 salt))) k.d)

-- SLH-DSA-SHA2-128s (FIPS 205): sections 5 to 9, 11.2.1 -----------------------------------------------------------------------------

/-- The secret and public seeds of a key pair, sixteen bytes each. -/
structure SlhKey where
  secret : List Byte
  prf    : List Byte
  seed   : List Byte
deriving DecidableEq, Repr

/-- A secret value at an address. -/
def SlhKey.prfAt (k : SlhKey) (a : Adrs) : List Byte := slhT k.seed a k.secret

/-- HMAC-SHA-256 with a key of at most 64 bytes. -/
def hmac256 (key m : List Byte) : List Byte :=
  let k := padTo 64 key
  sha256 (k.map (· ^^^ 0x5C) ++ sha256 (k.map (· ^^^ 0x36) ++ m))

/-- The 35 digits of a WOTS+ message with its checksum. -/
def wotsDigits (m : List Byte) : List Nat :=
  let msg := digits 4 32 m
  msg ++ digits 4 3 (beBytes 2 (msg.foldl (fun c x => c + (15 - x)) 0 * 16))

/-- The WOTS+ chains of a leaf, each run over the steps of a list. -/
def SlhKey.wots (k : SlhKey) (a : Adrs) (steps : List Nat) : List (List Byte) :=
  steps.mapIdx fun i n =>
    slhChain k.seed { a with typ := 0, w2 := i, w3 := 0 } (k.prfAt { a with typ := 5, w2 := i, w3 := 0 }) 0 n

/-- The address of leaf i of an XMSS tree. -/
def leafAdrs (layer tree i : Nat) : Adrs := { layer := layer, tree := tree, typ := 0, w1 := i, w2 := 0, w3 := 0 }

/-- Node i at height z of an XMSS tree. -/
def SlhKey.xmssNode (k : SlhKey) (layer tree : Nat) : Nat → Nat → List Byte
  | 0, i => slhT k.seed { leafAdrs layer tree i with typ := 1 } (k.wots (leafAdrs layer tree i) (List.replicate 35 15)).flatten
  | z + 1, i =>
    slhT k.seed { layer := layer, tree := tree, typ := 2, w1 := 0, w2 := z + 1, w3 := i } (k.xmssNode layer tree z (2 * i) ++ k.xmssNode layer tree z (2 * i + 1))

/-- The sibling of node x. -/
def sibling (x : Nat) : Nat := if x % 2 = 0 then x + 1 else x - 1

/-- The XMSS signature of a message at a leaf. -/
def SlhKey.xmssSign (k : SlhKey) (layer tree leaf : Nat) (m : List Byte) : List Byte :=
  (k.wots (leafAdrs layer tree leaf) (wotsDigits m)).flatten
    ++ (List.range 9).flatMap fun z => k.xmssNode layer tree z (sibling (leaf / 2 ^ z))

/-- Node i at height z of the FORS trees of a leaf; leaves are counted over all fourteen trees. -/
def SlhKey.forsNode (k : SlhKey) (tree leaf : Nat) : Nat → Nat → List Byte
  | 0, i =>
    let a : Adrs := { layer := 0, tree := tree, typ := 3, w1 := leaf, w2 := 0, w3 := i }
    slhT k.seed a (k.prfAt { a with typ := 6 })
  | z + 1, i =>
    slhT k.seed { layer := 0, tree := tree, typ := 3, w1 := leaf, w2 := z + 1, w3 := i } (k.forsNode tree leaf z (2 * i) ++ k.forsNode tree leaf z (2 * i + 1))

/-- The FORS signature of a digest. -/
def SlhKey.forsSign (k : SlhKey) (tree leaf : Nat) (md : List Byte) : List Byte :=
  ((digits 12 14 md).mapIdx fun i x =>
    k.prfAt { layer := 0, tree := tree, typ := 6, w1 := leaf, w2 := 0, w3 := i * 4096 + x }
      ++ (List.range 12).flatMap fun z => k.forsNode tree leaf z (i * 2 ^ (12 - z) + sibling (x / 2 ^ z))).flatten

/-- The hypertree signature over `n` layers from a layer on. -/
def SlhKey.htSign (k : SlhKey) : Nat → Nat → Nat → Nat → List Byte → List Byte
  | 0, _, _, _, _ => []
  | n + 1, layer, tree, leaf, m =>
    let sig := k.xmssSign layer tree leaf m
    sig ++ k.htSign n (layer + 1) (tree / 512) (tree % 512) (xmssPk k.seed layer tree leaf sig m)

/-- The public key: its seed and the root of the top tree. -/
def SlhKey.pub (k : SlhKey) : List Byte := k.seed ++ k.xmssNode 6 0 9 0

/-- The signature of a message in pure form with an empty context string, with a random string of sixteen bytes. -/
def SlhKey.sign (k : SlhKey) (m rnd : List Byte) : List Byte :=
  let msg := (0 : Byte) :: 0 :: m
  let r := (hmac256 k.prf (padTo 16 rnd ++ msg)).take 16
  let dig := mgf1 sha256 32 (r ++ k.seed ++ sha256 (r ++ k.pub ++ msg)) 30
  let tree := beNat ((dig.drop 21).take 7) % 2 ^ 54
  let leaf := beNat (dig.drop 28) % 2 ^ 9
  let fors := k.forsSign tree leaf (dig.take 21)
  r ++ fors ++ k.htSign 7 0 tree leaf (forsPk k.seed tree leaf fors (dig.take 21))

/-- The SLH-DSA device key of a module. DESIGN CHOICE, safe (log entry 14). -/
def deviceSlh (md : Nat) : SlhKey :=
  { secret := padTo 16 (Config.slhSecret md 0), prf := padTo 16 (Config.slhSecret md 1), seed := padTo 16 (Config.slhSecret md 2) }

end Sys2Proof.Machine
end

