-- ==== Sys2Proof/Machine/Power.lean ====
section
/-! DEFINITION. Power, start, heat, repair, the mailbox and attestation (spec 24, R438 to R444). -/

namespace Sys2Proof.Machine

open Sys2Proof

-- Heat and failures (R439, R442) ----------------------------------------------------------------------------------------------------

/-- The firmware isolates a fault: every context of a module that can be killed is killed, with reason 4 (R326). -/
def State.killAll (s : State) (md : Nat) : State :=
  ((s.ctxs.map Prod.fst).filter fun k => k / 2048 == md).foldl (fun s k =>
    if (s.ctx md (k % 2048)).st.killable then s.startKill md (k % 2048) 4 0 else s) s

/-- The firmware of a module runs (R440). -/
def Hub.firmware (h : Hub) : Bool := h.power == .repair || h.power == .links || h.power == .ready || h.power == .failed

/-- The compute dies lose power (R439). DEDUCED, safe (log entry 68). -/
def State.overheat (s : State) (md : Nat) : State :=
  let s := (s.killAll md).post md 0x130 none (srcHub 0) (Config.eventCode 0x130 s.tick) (Config.eventPayload 0x130 s.tick)
  s.setHub md { s.hub md with dark := true, hot := false }

/-- COOLANT_OUT_OF_RANGE (R439): temperature or flow leaves its range, and issue is delayed; with ev.val = 1 a die has passed its
shutdown temperature. DESIGN CHOICE, safe (log entry 11). DEDUCED, safe (log entry 68). -/
def execCoolantOutOfRange (s : State) : Out :=
  let md := s.ev.md
  let h := s.hub md
  .next (if !h.firmware || h.dark then s
    else if s.ev.val = 1 then s.overheat md
    else if h.hot then s else s.setHub md { h with hot := true, hotSince := s.clock })

/-- THERMAL (R439): the condition has lasted 10 s. DESIGN CHOICE, safe (log entry 11). DEDUCED, safe (log entry 68). -/
def execThermal (s : State) : Out :=
  let h := s.hub s.ev.md
  .next (if h.firmware && h.hot && decide (s.clock ≥ h.hotSince + 10 ^ 10) then s.overheat s.ev.md else s)

/-- COOLANT_BACK_IN_RANGE (R439). -/
def execCoolantBackInRange (s : State) : Out :=
  let h := s.hub s.ev.md
  .next (if h.hot then s.setHub s.ev.md { h with hot := false } else s)

/-- CORE_FAILURE (R442): the hardware of core unit ev.i fails; the context of its group is killed with reason 4, a REPAIR event
records it, and its quad takes no group until the next start. DESIGN CHOICE, safe (log entry 11). DEDUCED, unsafe (log entry 69). -/
def execCoreFailure (s : State) : Out :=
  let u := s.ev.i
  let md := modOf u
  let h := s.hub md
  .next (if !s.present md || decide (u % 8 ≥ 4) || h.broken.contains u then s
    else
      let gid := (s.quad (quadOf u)).grp
      let asid := (s.group gid).asid
      let s := s.setHub md { h with broken := u :: h.broken }
      let s := if gid ≠ 0 ∧ (s.ctx md asid).st.killable then s.startKill md asid 4 0 else s
      s.post md 0x131 (if gid = 0 then none else some asid) (srcHub 0) (Config.eventCode 0x131 s.tick) (Config.eventPayload 0x131 s.tick))

-- Start (R440) ----------------------------------------------------------------------------------------------------------------------

/-- POWER_APPLIED: the boot ROM runs and the mailbox opens. -/
def execPowerApplied (s : State) : Out :=
  let md := s.ev.md
  .next (if md < 1024 ∧ (s.hub md).power = .off then s.setHub md { Hub.init with power := .waitfw } else s)

/-- FWGO: VERIFY begins on the image that FWADDR and FWSIZE name; elsewhere than in WAITFW it is ignored. DEDUCED, unsafe (log entry 67). -/
def State.startVerify (s : State) (md : Nat) : State :=
  let h := s.hub md
  if h.power = .waitfw then s.setHub md { h with power := .verify, fwimg := (h.fwaddr, h.fwsize) } else s

/-- DEDUCED, unsafe (log entry 67). -/
def execFwgo (s : State) : Out := .next (s.startVerify s.ev.md)

/-- The part of an image that is signed, and its signature block (R271, R440). -/
def imageParts (o : List Byte) : List Byte × List Byte := (o.take (o.length - 8256), o.drop (o.length - 8256))

/-- CAUSE of an image that does not verify: 1 its RSA signature or the key that it names, 2 its SLH-DSA signature or key.
DESIGN CHOICE, safe (log entry 14). DEDUCED, unsafe (log entry 67). -/
def imageBad (o : List Byte) : Option Nat :=
  let p := imageParts o
  match signBad Config.romKeys p.1 p.2 1 0 with
  | none => none
  | some (c, off) => some (if c = 3 ∨ (c = 1 ∧ off ≠ 0) then 2 else 1)

/-- VERIFY ends (R440): the firmware of module `md` runs, with its key list, or the module waits for another image.
DEDUCED, unsafe (log entry 67). -/
def State.endVerify (s : State) (md : Nat) : State :=
  let h := s.hub md
  if h.power ≠ .verify then s
  else
    let o := memBytes s.mem (hostKey md h.fwimg.1) h.fwimg.2
    match imageBad o with
    | some c => s.setHub md { h with power := .waitfw, cause := c }
    | none => s.setHub md { h with power := .repair, fwdigest := sha384 o, keys := Config.firmwareKeys o }

/-- The ports of a module as LINKS finds them (R398, R400): those that the pod configuration connects are in training. -/
def trainPorts (md clock : Nat) : SMap Port :=
  (List.range 96).filterMap fun n => (Config.topology md n).map fun x =>
    (n, { Port.init with st := 1, pmod := x.1 % 1024, pport := x.2 % 128, since := clock })

/-- REPAIR_DONE (R442): the repair tables of module ev.md stand, with ev.j spare cores in use; or the module fails, with CAUSE ev.i,
for want of spares or of a sound HBM stack. DEDUCED, unsafe (log entry 69). -/
def execRepairDone (s : State) : Out :=
  let md := s.ev.md
  let h := s.hub md
  .next (if h.power ≠ .repair then s
    else if s.ev.i = 3 ∨ s.ev.i = 4 then s.setHub md { h with power := .failed, cause := s.ev.i }
    else if s.ev.j > 64 then s
    else s.setHub md { h with power := .links, counts := sset h.counts 9 s.ev.j, ports := trainPorts md s.clock })

/-- The time master for a module that comes up (R407): that of the first module that it reaches, or the one that the pod configuration names. -/
def State.masterFor (s : State) (md : Nat) : Nat :=
  match s.modules.find? fun n => n != md && s.reachable md n with
  | some n => (s.hub n).master
  | none => Config.timeMaster

/-- LINKS_DONE (R440): every port has trained or failed, time is set (R407), queue 0 opens and the event log starts.
DESIGN CHOICE, unsafe (log entry 3). DESIGN CHOICE, safe (log entry 12). DEDUCED, unsafe (log entry 69). -/
def execLinksDone (s : State) : Out :=
  let md := s.ev.md
  let h := s.hub md
  .next (if h.power ≠ .links || h.ports.any (fun x => x.2.st == 1) then s
    else
      let m := s.masterFor md
      let s := (s.setHub md { h with power := .ready, seqNo := 0, master := m }).setHostQ md 0 { HostQ.init with st := 1 }
      let s := if m ≠ md ∧ s.present m ∧ s.reachable md m then
          s.setHub md { s.hub md with toff := (s.hub m).toff, slew := (s.hub m).slew, slewAt := (s.hub m).slewAt } else s
      s.drainEvents md 1025)

/-- A key of memory that module `md` holds: its scratchpads, or a frame of one of its pages. -/
def ownKey (md k : Nat) : Bool :=
  (decide (md * 2 ^ 32 ≤ k) && decide (k < (md + 1) * 2 ^ 32)) ||
    (decide (2 ^ 90 + md * 2 ^ 63 ≤ k) && decide (k < 2 ^ 90 + (md + 1) * 2 ^ 63))

/-- The module keeps nothing (R440): its units, contexts, groups, sessions and memory are gone, and so are requests that they have
under way in other modules. Stores of other modules on their way to it stay for `lose` to count and drop (R401). DEDUCED, unsafe (log entry 70). -/
def State.wipe (s : State) (md : Nat) : State :=
  let mine (q : SeqId) : Bool := modOf q.unit == md
  let s := s.land fun st => mine st.who && decide (st.lvl > 0)
  let gone := (s.groups.filter fun x => x.2.md == md).map Prod.fst
  let bars (l : SMap Barrier) : SMap Barrier := l.map fun x => (x.1, { x.2 with held := x.2.held.filter fun h => !mine h.q })
  let ctxs := (s.ctxs.filter fun x => x.1 / 2048 != md).map fun x => (x.1, x.2.dropWaiter mine)
  let live (asid : Nat) : Bool := ctxs.any fun x => x.1 % 2048 == asid && x.2.st.lives
  let quads := (s.quads.filter fun x => x.1 / 512 != md).map fun x => (x.1, x.2.dropWaiter mine)
  let groups := s.groups.filter fun x => x.2.md != md
  let mem := s.mem.filter fun c => !ownKey md c.1
  let latent := s.latent.filter fun k => !ownKey md k
  let bad := s.bad.filter fun k => !ownKey md k
  let transit := s.transit.filter fun st => !mine st.who
  let engine := s.engine.filter fun x => x.1 * 4096 / 2 ^ 32 != md
  let ctls := s.ctls.filter fun x => x.1 / 4 / 4096 != md
  let cores := s.cores.filter fun x => modOf x.1 != md
  let dieBars := s.dieBars.filter fun x => !gone.contains (x.1 / 64 / 8)
  let pkgBars := s.pkgBars.filter fun x => !gone.contains (x.1 / 64)
  let podBars := bars (s.podBars.filter fun x => live (x.1 / 32))
  { s with ctxs := ctxs, quads := quads, groups := groups, mem := mem, latent := latent, bad := bad, transit := transit, engine := engine
           ctls := ctls, cores := cores, dieBars := dieBars, pkgBars := pkgBars, podBars := podBars }

/-- Groups of the basins of module `md` that have no basin left are lost; the others have lost the basin of that module, whether or not its power
comes back before they learn of it; subscriptions of its sequencers end. DEDUCED, unsafe (log entry 70). -/
def State.wipeBasins (s : State) (md : Nat) : State :=
  let up (g : PGroup) (n : Nat) : Bool := n / 2 != md && s.present (n / 2) && g.lost != some n
  let left (g : PGroup) : List Nat := (g.prim :: g.buddy.toList).filter (up g)
  { s with basin := (s.basin.filter fun x => !(left x.2).isEmpty).map fun x =>
      (x.1, { x.2 with subs := x.2.subs.filter fun y => modOf y.2.q.unit != md
                       lost := if x.2.lost.isSome then x.2.lost else (x.2.prim :: x.2.buddy.toList).find? fun n => n / 2 == md }) }

/-- POWER_REMOVED (R440): module ev.md goes OFF and keeps nothing; the other modules have lost it (R401). DEDUCED, unsafe (log entry 70). -/
def execPowerRemoved (s : State) : Out :=
  let md := s.ev.md
  let old := s
  if (s.hub md).power = .off then .next s
  else
    let s := (s.wipe md).wipeBasins md
    let s := s.setHub md .init
    let s := if old.present md || (old.hub md).ports.any (·.2.up) then s.reroute old else s
    let s : State := { s with transit := s.transit.map fun st => { st with cells := st.cells.filter fun c => !ownKey md c.1 } }
    .next ({ s with sessions := s.sessions.filter fun x => modOf x.q.unit != md }.forget fun _ q => modOf q.unit == md)

-- The mailbox (R441, R443, R444) --------------------------------------------------------------------------------------------------------

/-- A write of MBCMD: discarded while a command is BUSY; a command that no table lists is unknown; one that is not accepted in this
state is ignored. DEDUCED, unsafe (log entry 71). -/
def State.mailbox (s : State) (md v : Nat) : State :=
  let h := s.hub md
  let cmd := v % 256
  if h.power = .off then s
  else if h.mbst % 2 = 1 then s.setHub md { h with mbst := 1 + 3 * 2 ^ 8 }
  else if cmd = 0 ∨ cmd > 4 then s.setHub md { h with mbst := 1 * 2 ^ 8 }
  else if h.power = .ready ∨ (cmd = 4 ∧ h.power ≠ .waitfw) then s.setHub md { h with mbcmd := some cmd, mbopnd := v / 256 % 2 ^ 56, mbst := 1 }
  else s

/-- The command under way in the mailbox of module ev.md ends: `f` answers its result, or that its operand is bad. DEDUCED, unsafe (log entry 71). -/
def onMailbox (s : State) (cmd : Nat) (f : State → Nat → Nat → State × Option Nat) : Out :=
  let md := s.ev.md
  let h := s.hub md
  .next (if h.mbcmd ≠ some cmd then s
    else
      let r := f s md h.mbopnd
      let h := r.1.hub md
      match r.2 with
      | some v => r.1.setHub md { h with mbcmd := none, mbst := 0, mbrsp := v }
      | none => r.1.setHub md { h with mbcmd := none, mbst := 2 * 2 ^ 8 })

/-- RETRAIN_PORT: a port that is UP1 or FAILED is in training again (R398); one that was UP1 carries no route meanwhile (R400, R401).
DEDUCED, unsafe (log entries 62, 71). -/
def execRetrainPort (s : State) : Out :=
  onMailbox s 1 fun s md n =>
    if n ≥ 96 then (s, none)
    else
      let p := s.port md n
      let s' := s.setPort md n { p with st := 1, l0 := false, l1 := false, since := s.clock }
      let s := if p.st = 3 then s'.reroute s else if p.st = 4 then s' else s
      (s, some (s.port md n).word)

/-- READ_ERROR_COUNTER (R443). -/
def execReadErrorCounter (s : State) : Out :=
  onMailbox s 2 fun s md n => (s, if n > 12 then none else some (sget 0 (s.hub md).counts n))

/-- The reply of an attestation after its nonce (R444); its two signatures are made with the module's device keys over the digest of bytes 0 to
127 (R8, R271). DESIGN CHOICE, safe (log entry 14). DEDUCED, unsafe (log entry 71). -/
def State.attestation (s : State) (md : Nat) (nonce : List Byte) : List Byte :=
  let h := s.hub md
  let body := nonce ++ padTo 48 h.fwdigest ++ leBytes 8 (sget 0 h.counts 9) ++ leBytes 8 md
  let rsa := deviceRsa md
  let slh := deviceSlh md
  let digest := sha384 body
  let block := (sha384 (Config.rsaBytes rsa.n rsa.e)).take 8 ++ (sha384 slh.pub).take 8
    ++ rsa.sign digest (Config.signRandom s.tick).1 ++ slh.sign digest (Config.signRandom s.tick).2
  padTo 16384 (body ++ block)

/-- ATTEST (R444): the nonce stands at the bus address that the operand gives, and the reply is written there. DEDUCED, unsafe (log entry 71). -/
def execAttest (s : State) : Out :=
  onMailbox s 3 fun s md a =>
    (s.write (cellsOf (hostKey md a) (s.attestation md (memBytes s.mem (hostKey md a) 64))), some 16384)

/-- READ_POWER: the draw over the last millisecond, in mW. DESIGN CHOICE, safe (log entry 13). -/
def execReadPower (s : State) : Out := onMailbox s 4 fun s md _ => (s, some (Config.powerDraw (s.tick * 1024 + md) % 2 ^ 64))

-- The registers of BAR0 ------------------------------------------------------------------------------------------------------------------

/-- The code of a state in STSTAT (R441). -/
def Power.code (p : Power) : Nat :=
  match p with
  | .off => 0
  | .waitfw => 1
  | .verify => 2
  | .repair => 3
  | .links => 4
  | .ready => 5
  | .failed => 6

/-- STSTAT (R441). -/
def Hub.ststat (h : Hub) : Nat := h.power.code + h.cause * 2 ^ 8

/-- What a host read of a BAR0 register gives (R329, R347, R441); none where no register that reads stands at the offset. DEDUCED, unsafe (log entry 54). -/
def State.barRead (s : State) (md off : Nat) : Option Nat :=
  let h := s.hub md
  if 0x10000 ≤ off ∧ off < 0x11000 then
    let q := (off - 0x10000) / 0x40
    let x := s.hostQ md q
    match off % 0x40 with
    | 0x08 => some x.app
    | 0x10 => some x.started
    | 0x18 => some x.done
    | 0x20 => some (s.queueStatus md q)
    | _ => none
  else match off with
    | 0x0100 => some h.evbase
    | 0x0108 => some h.evsize
    | 0x0110 => some h.evwr
    | 0x0118 => some h.evrd
    | 0x0120 => some h.evint
    | 0x0218 => some h.ststat
    | 0x0228 => some h.mbrsp
    | 0x0230 => some h.mbst
    | _ => none

/-- The host reads a register of BAR0 (R329, R347, R441): the hub answers with its 64 bits. -/
def State.hostRead (s : State) (md off : Nat) : State :=
  match s.barRead md off with
  | some v => if (s.hub md).power = .off then s else s.setHub md { s.hub md with cpl := .data (leBytes 8 v) }
  | none => s

/-- HOST_REGISTER_WRITE (R329, R347, R408, R441): a register of BAR0 at offset ev.addr takes ev.val; a value that its register does not
hold is discarded. DEDUCED, unsafe (log entry 54). -/
def execHostRegisterWrite (s : State) : Out :=
  let v := s.ev.val
  let md := s.ev.md
  let h := s.hub md
  .next (if h.power = .off then s
    else if 0x10000 ≤ s.ev.addr ∧ s.ev.addr < 0x11000 ∧ s.ev.addr % 0x40 = 0 then
      s.hostAppend md ((s.ev.addr - 0x10000) / 0x40) (v % 2 ^ 64)
    else match s.ev.addr with
      | 0x0100 => if v % 4096 = 0 then s.setHub md { h with evbase := v } else s
      | 0x0108 => if 8 ≤ v ∧ v ≤ 20 then (s.setHub md { h with evsize := v }).drainEvents md 1025 else s
      | 0x0118 => s.hostConsume md v
      | 0x0120 => if 1 ≤ v ∧ v ≤ 2 ^ 20 then s.setHub md { h with evint := v } else s
      | 0x0200 => if v % 4096 = 0 then s.setHub md { h with fwaddr := v } else s
      | 0x0208 => if v ≤ 2 ^ 26 then s.setHub md { h with fwsize := v } else s
      | 0x0210 => s.startVerify md
      | 0x0220 => s.mailbox md (v % 2 ^ 64)
      | _ => s)

end Sys2Proof.Machine
end

