-- ==== Sys2Proof/Machine/Semaphore.lean ====
section
/-! DEFINITION. The semaphore instructions (spec 16, R375 to R377). -/

namespace Sys2Proof.Machine

open Sys2Proof

/-- A semaphore's value. -/
def State.sem (s : State) (qd n : Nat) : Nat := sget 0 (s.quad qd).sem n

/-- A semaphore instruction: the word k[A] is checked (R375), then the operand k[B] below `lim` (R376). -/
def onSem (s : State) (a : BitVec 5) (opnd : Word) (lim : Nat) (f : SeqId → Nat → Nat → State) : Out :=
  onK s fun q =>
    match s.semWord q (s.getK q a).toNat with
    | .error t => s.trap q t
    | .ok (qd, n) => if opnd.toNat ≥ lim then s.trap q { code := tcOpnd } else f q qd n

/-- An action on a semaphore as one operation of its stream (R291, R376): what the stream has observed performs first, the
semaphore takes the value that `f` gives, and k[D] takes the one before. -/
def State.semAct (s : State) (q : SeqId) (d : BitVec 5) (qd n : Nat) (f : Nat → Nat) : State :=
  let v := s.sem qd n
  (((s.acquire q).noteSem q qd n).setSem qd n (f v)).finK q d (BitVec.ofNat 64 v)

def execSemadd (d a b : BitVec 5) (s : State) : Out :=
  let x := s.getK s.cur b
  onSem s a x (2 ^ 32) fun q qd n => s.semAct q d qd n fun v => min (v + x.toNat) 0xFFFFFFFF

def execSemsub (d a b : BitVec 5) (s : State) : Out :=
  let x := s.getK s.cur b
  onSem s a x (2 ^ 32) fun q qd n => s.semAct q d qd n fun v => if v ≥ x.toNat then v - x.toNat else v

def execSemcas (d a b : BitVec 5) (s : State) : Out :=
  let x := (s.getK s.cur b).toNat
  onSem s a 0 1 fun q qd n => s.semAct q d qd n fun v => if v = x % 2 ^ 32 then x / 2 ^ 32 else v

/-- A sequencer waits at a semaphore that its context's save area holds, on a module within reach (R322, R377). -/
def State.waitsSaved (s : State) (q : SeqId) : Bool :=
  (s.ctl q).wait && s.ctxs.any fun x => s.present (x.1 / 2048) && s.reachable (modOf q.unit) (x.1 / 2048)
    && x.2.slots.any fun y => y.quad.waiters.any fun w => w.2.any fun z => z.q == q

/-- SEMWAIT (R376, R377): it is satisfied on arrival, or joins the waiters and stays until an action satisfies it. One whose quad is saved
meanwhile waits on. DEDUCED, unsafe (log entry 50). -/
def execSemwait (d a b : BitVec 5) (s : State) : Out :=
  let x := s.getK s.cur b
  if isCtl s.cur.kind && s.waitsSaved s.cur then .next s
  else onSem s a x (2 ^ 33) fun q qd n =>
    let amount := x.toNat % 2 ^ 32
    let peek := bitAt x.toNat 32
    let v := s.sem qd n
    if (s.ctl q).wait then s
    else if v ≥ amount then (s.setSem qd n (if peek then v else v - amount)).finK q d (BitVec.ofNat 64 v)
    else
      let r := s.setCtl q { s.ctl q with wait := true }
      let x := r.quad qd
      r.setQuad qd { x with waiters := sset x.waiters n (sget [] x.waiters n ++ [{ q := q, d := d, amount := amount, peek := peek }]) }

def execSemrd (d a : BitVec 5) (s : State) : Out :=
  onSem s a 0 1 fun q qd n => s.finK q d (BitVec.ofNat 64 (s.sem qd n))

end Sys2Proof.Machine
end

