-- ==== Sys2Proof/Machine/Table.lean ====
section
/-! DEFINITION. The time-triggered launch table (spec 14, R342 to R344). -/

namespace Sys2Proof.Machine

open Sys2Proof

def State.tt (s : State) (md e : Nat) : TTEntry := sget .zero (s.hub md).tt e
def State.setTt (s : State) (md e : Nat) (t : TTEntry) : State := let h := s.hub md; s.setHub md { h with tt := sset h.tt e t }

def TTEntry.word (t : TTEntry) (i : Nat) : Nat := (t.words.getD i 0).toNat
def TTEntry.en (t : TTEntry) : Bool := bitAt (t.word 0) 0
/-- Slot k begins at this device time (R343). -/
def TTEntry.begins (t : TTEntry) (k : Nat) : Nat := t.word 1 + k * t.word 2

/-- The content of an entry as it reads (R342): OWNER and OV are the table's own. -/
def TTEntry.content (t : TTEntry) : List Word :=
  let w0 := t.word 0 % 4 + t.ownerId * 2 ^ 16 + (if t.owner.isSome then 2 ^ 27 else 0)
  BitVec.ofNat 64 w0 :: (List.range 7).map fun i => BitVec.ofNat 64 (t.word (i + 1))

/-- An entry as TTWR may write it (R342, R344). DEDUCED, unsafe (log entry 57). -/
def ttOk (w : List Word) : Bool :=
  let n (i : Nat) : Nat := (w.getD i 0).toNat
  field (n 0) 2 14 == 0 && field (n 0) 28 36 == 0 && decide (1000 ≤ n 2) && decide (n 2 ≤ 2 ^ 40) && decide (n 3 < 2 ^ 42)

/-- The group that an entry last launched has not retired. -/
def State.ttBusy (s : State) (t : TTEntry) : Bool := t.group != 0 && (s.group t.group).st.alive

/-- The entry k[x], where the issuing context may name it (R344). -/
def onEntry (s : State) (x : BitVec 5) (f : SeqId → Nat → TTEntry → State) : Out :=
  onK s fun q =>
    let e := (s.getK q x).toNat
    let t := s.tt (modOf q.unit) e
    if e ≥ 256 ∨ (t.owner.isSome ∧ t.owner ≠ some (s.asidOf q)) then s.trap q { code := tcOpnd } else f q e t

/-- DEDUCED, unsafe (log entry 57). -/
def execTtwr (a b : BitVec 5) (s : State) : Out :=
  onEntry s b fun q e t =>
    let ea := (s.getK q a).toNat
    match s.recCheck q ea 64 with
    | some tr => s.trapRead q tr ea 64
    | none =>
      let w := s.words q ea 8
      if !ttOk w then s.trap q { code := tcOpnd }
      else
        let md := modOf q.unit
        let now := s.devTime md
        let start := (w.getD 1 0).toNat
        let period := (w.getD 2 0).toNat
        -- the first slot that begins after now
        let slot := if now < start then 0 else (now - start) / period + 1
        let owner := if !bitAt (w.getD 0 0).toNat 0 ∧ !s.ttBusy t then none else some (s.asidOf q)
        (s.setTt md e { t with words := w, owner := owner, ownerId := s.asidOf q, launched := 0, skipped := 0, late := 0, slot := slot, steps := [] }).fin q

def execTtrd (a b : BitVec 5) (s : State) : Out :=
  onEntry s b fun q _ t =>
    let ea := (s.getK q a).toNat
    match s.recWriteCheck q ea 64 with
    | some tr => s.trapRead q tr ea 64
    | none => ((s.healWords ea 64).store q 1 (cellsOf ea (t.content.flatMap fun w => leBytes 8 w.toNat))).2.fin q

def execTtstat (d a : BitVec 5) (s : State) : Out :=
  onEntry s a fun q _ t => s.finK q d (BitVec.ofNat 64 (t.launched + min t.skipped 0xFFFF * 2 ^ 32 + min t.late 0xFFFF * 2 ^ 48))

/-- Events of the table (R343, R346). DESIGN CHOICE, safe (log entry 9). -/
def State.ttEvent (s : State) (md kind e asid payload : Nat) : State := s.post md kind (some asid) (srcHub 3) e payload

/-- A slot is skipped for a reason (R343). -/
def State.ttSkip (s : State) (md e asid k reason : Nat) : State :=
  let t := s.tt md e
  (s.setTt md e { t with skipped := min (t.skipped + 1) 0xFFFF }).ttEvent md 0x21 e asid (reason + k * 2 ^ 8)

/-- The decision for a slot that begins (R343). -/
def State.ttDecide (s : State) (md e asid k : Nat) : State :=
  let t := s.tt md e
  let st := (s.ctx md asid).st
  if s.ttBusy t then s.ttSkip md e asid k 1
  else if t.steps.any fun x => decide (x.1 < t.begins k) && decide (t.begins k < x.2) then s.ttSkip md e asid k 2
  else if st ≠ .ready ∧ st ≠ .running then s.ttSkip md e asid k 3
  else match (s.ctx md asid).launchCause (t.word 3) with
    | some cause => (s.launchRef md asid (srcHub 3) cause (t.word 3)).ttSkip md e asid k 4
    | none => s.setTt md e { t with due := some { words := t.words, owner := asid, slot := k } }

/-- A due launch that has not started is withdrawn (R343). -/
def State.ttWithdraw (s : State) (md e : Nat) : State :=
  let t := s.tt md e
  match t.due with
  | none => s
  | some d => (s.setTt md e { t with due := none, late := min (t.late + 1) 0xFFFF }).ttEvent md 0x22 e d.owner (Config.ttPayload 0x22 d.slot)

/-- TT_SLOT_BEGIN (R343): the next slot of entry ev.i begins, once the device time has reached it. DEDUCED, unsafe (log entry 57). -/
def execTtSlotBegin (s : State) : Out :=
  let md := s.ev.md
  let e := s.ev.i
  let t := s.tt md e
  .next (match t.owner with
    | none => s
    | some asid =>
      if !t.en ∨ s.devTime md < t.begins t.slot then s
      else
        let s := (s.ttWithdraw md e).ttDecide md e asid t.slot
        s.setTt md e { s.tt md e with slot := t.slot + 1 })

end Sys2Proof.Machine
end

