-- ==== Sys2Proof/Machine/Xwide.lean ====
section
/-! DEFINITION. Wide accumulators, predicates, the store queue, waits, hardware loops, quantising and gauge reads of X (spec
08, R218 to R227). -/

namespace Sys2Proof.Machine

open Sys2Proof

-- Wide accumulators (R218) ------------------------------------------------------------------------------------------------------

/-- A wide accumulation: lane j gets w[j] + x[j]·y[j], or w[j] + x[j] where there is no y. -/
def wideX (i : Instr) (lat : Nat) (s : State) (fma : Bool) : Out :=
  xRun i s .w fun _ k =>
    let p := k.x.immN
    let d := k.d % 8
    let m := k.mapTo (partClass p 128) 32 128
    let dm := k.view m
    let acc := (sget (0, CMap.nil) k.c.w d).1.toNat
    let els := (List.range 128).map fun j =>
      let w := field acc (32 * j) 32
      let a := k.src k.a (128 * p + j)
      let y := k.src k.cc (128 * p + j)
      if k.f.isInt then
        let v := intVal .i32 w + (if fma then intVal k.f a * intVal k.f y else intVal k.f a)
        if k.x.satB then let r := clampInt .i32 v; ({ code := r.1, flags := r.2 } : El) else { code := wrapNat 32 v }
      else
        let w := decode .f32 w
        let a := decode k.f a
        k.roundTo .f32 k.x.mode false dm j (if fma then fmaV a (decode k.f y) w else addV w a)
    if els.any El.lost then .error { code := tcMapLost }
    else .ok { lat := lat, dst := .w d, val := pack 32 (els.map El.code), map := some m
               flags := els.foldl (fun a e => a ||| e.flags) 0 }

def execWacc (x : XArgs) (s : State) : Out := wideX (.wacc x) 4 s false
def execWfma (x : XArgs) (s : State) : Out := wideX (.wfma x) 5 s true

def execWnar (x : XArgs) (s : State) : Out :=
  xRun (.wnar x) s .v fun _ k => k.each 3 fun dm e =>
    let c := field (k.c.rawOf (k.a.getD 64)) (32 * e) 32
    if k.f.isInt then
      if x.satB then let r := clampInt k.f (intVal .i32 c); { code := r.1, flags := r.2 } else { code := wrapNat k.w (intVal .i32 c) }
    else k.round dm e (decode .f32 c, 0)

/-- The destination's own map, kept (R81). DEDUCED, unsafe (log entry 23). -/
def XCtx.ownMap (k : XCtx) : MapOut := match k.ref with
  | some v => destMap .keep v v.m.ew (2048 / v.m.ew.bits)
  | none => .keep .nil

def execWzero (x : XArgs) (s : State) : Out :=
  xRun (.wzero x) s .w fun _ k => .ok { lat := 2, dst := .w (k.d % 8), val := 0, map := some k.ownMap }

-- Predicates (R219) ---------------------------------------------------------------------------------------------------------------

/-- A predicate operation on p[PA4] and p[C]. -/
def predX (i : Instr) (s : State) (g : Pred → Pred → Pred) : Out :=
  xRun i s .p fun _ k =>
    .ok { lat := 2, dst := .p (k.d % 16)
          val := (g (sget 0 k.c.p (k.x.a.toNat % 16)) (sget 0 k.c.p (predC k.x))).toNat }

def execPand (x : XArgs) (s : State) : Out := predX (.pand x) s (· &&& ·)
def execPor (x : XArgs) (s : State) : Out := predX (.por x) s (· ||| ·)
def execPxor (x : XArgs) (s : State) : Out := predX (.pxor x) s (· ^^^ ·)
def execPnot (x : XArgs) (s : State) : Out := predX (.pnot x) s fun a _ => ~~~a
def execPmov (x : XArgs) (s : State) : Out := predX (.pmov x) s fun a _ => a
def execPset (x : XArgs) (s : State) : Out := predX (.pset x) s fun _ _ => BitVec.ofNat 256 (2 ^ x.immN - 1)

-- The store queue, waits and loops (R220 to R224) ------------------------------------------------------------------------------------

def execXpush (x : XArgs) (s : State) : Out :=
  xRun (.xpush x) s .none fun _ k =>
    let A := k.a.getD 0
    let v := k.c.mapOf A
    .ok { lat := 0, push := some (BitVec.ofNat 2048 (k.c.rawOf A), { v with own := true, m := { v.m with slot := 0 } }) }

/-- Issue of an instruction that is not an operation: it may pop and push tokens, and `f` does the rest. `sq` tells what a
squashed one does. -/
def xPlain (i : Instr) (s : State) (shift : Bool) (f : State → SeqId → Nat → State) : Out :=
  let q := s.cur
  match xSpec i with
  | none => .next (s.illegal q)
  | some (_, x) => .next <|
    if q.kind ≠ .x then s.illegal q
    else
      let c := s.core q.unit
      let t := c.xnext
      if c.loop.atEnd then s.xTrap q { code := tcIllegalInst }
      else if c.loop.act && c.loop.squashed then s.xSquash q x.st.toNat shift
      else if c.xStall x false false then s
      else
        let s := s.landX q.unit (t + 1) shift
        let c := (s.core q.unit).xTokens x false s.tick (s.tells q 1)
        f (s.setCore q.unit (if shift then c.shift .nil else c)) q t

/-- CNT of XWAIT (R221). DEDUCED, unsafe (log entry 24). -/
def xwaitCnt (x : XArgs) : Nat := x.d.toNat * 128 + x.a.toNat

/-- DEDUCED, unsafe (log entry 24). -/
def execXwait (x : XArgs) (s : State) : Out :=
  xPlain (.xwait x) s false fun s q t => s.xDone q t x.st.toNat (xwaitCnt x)

/-- NOP (R134): in X it takes one cycle and shifts no chain slot, squashed or not. DEDUCED, unsafe (log entry 74). -/
def execNop (s : State) : Out :=
  let q := s.cur
  .next <|
    if q.kind = .x then
      let c := s.core q.unit
      if c.loop.atEnd then s.xTrap q { code := tcIllegalInst }
      else (s.landX q.unit (c.xnext + 1) false).xDone q c.xnext 0 0
    else s.fin q

/-- The trip count an XLOOP reads, or the one that a pre-emption left it (R222, R321). -/
def Core.tripCount (c : Core) (x : XArgs) : Nat :=
  match c.loop.again with
  | some n => n
  | none =>
    let n := x.a.toNat
    if n < 96 then (sget 0 c.e (n - 80)).toNat else if n = 113 then 1 else if n = 127 then x.immN else 0

/-- XLOOP (R222): with N = 0 X passes over the body and its XLEND. -/
def execXloop (x : XArgs) (s : State) : Out :=
  if s.cur.kind = .x ∧ (s.core s.cur.unit).loop.act then .next (s.xTrap s.cur { code := tcIllegalInst })
  else xPlain (.xloop x) s true fun s q t =>
    let s := s.xDone q t x.st.toNat 0
    let c := s.core q.unit
    let n := c.tripCount x
    let l : XLoop := { act := n != 0, n := n, k := 0, q := n, turn := 0, ns := x.d.toNat / 16 + 1, sl := x.d.toNat % 16 + 1
                       rsc := x.t.toNat, place := 0, head := (s.pos q).addr, skip := n == 0, again := none }
    s.setCore q.unit { c with loop := l }

/-- The end of a kernel iteration (R222). -/
def XLoop.turned (l : XLoop) : XLoop := { l with k := l.k + 1, turn := (l.turn + 1) % 32, place := 0 }

/-- The loop is a yield point whose core is asked to yield (R321). -/
def State.xYield (s : State) (q : SeqId) : Option Yield :=
  let k := s.ctl { q with kind := .k }
  if k.req && k.mode == .normal && (s.core q.unit).xphase == .run then
    (s.kernelOf q).yieldAt (strmNo .x) (s.core q.unit).loop.head
  else none

/-- XLEND (R222, R224, R321): the next kernel iteration, the end of the loop, or a yield after its epilogue. -/
def execXlend (x : XArgs) (s : State) : Out :=
  let q := s.cur
  .next <|
    if q.kind ≠ .x then s.illegal q
    else
      let c := s.core q.unit
      if !c.loop.atEnd then s.xTrap q { code := tcIllegalInst }
      else if c.xStall x false false then s
      else
        let t := c.xnext
        let s := s.landX q.unit (t + 1) true
        let c := ((s.core q.unit).xTokens x false s.tick (s.tells q 1)).shift .nil
        let y := s.xYield q
        let l0 := if y.isSome then { c.loop with q := min c.loop.q (c.loop.k + 1) } else c.loop
        let l := l0.turned
        if l.k + 1 < min l.n l.q + l.ns then
          let s := (s.setCore q.unit { c with loop := { l with place := 0 } }).xDone q t x.st.toNat 0
          let s := s.setCore q.unit { s.core q.unit with loop := l }
          s.setPos q (.next l.head)
        else
          let rest := l.n - l.q
          let s := (s.setCore q.unit { c with loop := { XLoop.closed with again := if rest = 0 then none else some rest } }).xDone q t x.st.toNat 0
          match y with
          | some y => if rest = 0 then s else s.yieldTo q y (.resume l.head)
          | none => if rest = 0 then s else match (s.kernelOf q).yieldAt (strmNo .x) l.head with
            | some y => s.yieldTo q y (.resume l.head)
            | none => s

-- Quantising and gauge reads (R225 to R227) --------------------------------------------------------------------------------------------

/-- The record an X instruction reads, or its trap (R97, R112, R115). -/
def State.gaugeFor (s : State) (q : SeqId) (gid : Nat) : Except Trap Gauge :=
  let c := s.ctxOf q
  if gid = 0 ∨ gid ≥ 2 ^ c.gtsz then .error { code := tcGaugeId }
  else
    let g := c.gauge gid
    if g.st = 0 then .error { code := tcGaugeId } else if g.st = 2 then .error { code := tcGaugePoison } else .ok g

/-- The word `govf` (R113). -/
def govfWord (gen gid : Nat) (sc : Int) : Nat := gen % 2 ^ 32 * 2 ^ 32 + gid % 2 ^ 20 * 2 ^ 12 + wrapNat 8 sc * 2 ^ 4

/-- VQNT (R110 to R113, R225): it uses one of the generations that R110 allows. DEDUCED, unsafe (log entries 25, 83). -/
def execVqnt (x : XArgs) (s : State) : Out :=
  xRun (.vqnt x) s .v fun s k =>
    let q := s.cur
    let gid := (sget 0 k.c.e (field x.immN 0 4)).toNat % 2 ^ 20
    let eS := field x.immN 4 4
    match s.gaugeFor q gid with
    | .error t => .error t
    | .ok g =>
      let A := k.a.getD 64
      let C := k.cc.getD 64
      let sync := if (xPb x).isSome then s.tick else k.c.xsync
      let gen := g.chosen sync s.tick
      let sc := gen.2.1.getD k.f.b8Index 0
      let m := k.mapTo (.filled (joinCoords (k.c.mapOf A) (k.c.mapOf C) 128 32)) 8 256
      let dm := k.view m
      let noise := (List.range 256).map fun j => noiseAt k.c.nkey dm j
      let ra := k.c.rawOf A
      let rc := k.c.rawOf C
      let y := quantAll k.f ra rc sc x.mode x.ovfB noise
      let save : QntSave := { gid := gid, s1 := sc, ov := none, x := x, srcA := ra, srcC := rc, noise := noise }
      if y.lost then .error { code := tcMapLost }
      else
        let r : XRes := { lat := 3, dst := .v k.d, val := y.val, map := some m, flags := y.flags, e2 := some (eS, wrapNat 32 sc) }
        if gen.2.2 && y.exceed != 0 then .ok { r with govf := some (govfWord gen.1 gid sc, save) }
        else .ok { r with exceed := if y.exceed = 0 then none else some (gid, y.exceed) }

/-- DEDUCED, unsafe (log entry 29). -/
def execGread (x : XArgs) (s : State) : Out :=
  xRun (.gread x) s .v fun s k =>
    match s.gaugeFor s.cur (k.scalar k.a) with
    | .error t => .error t
    | .ok g => .ok { lat := 3, dst := .v k.d, val := g.bits, map := some k.ownMap }

/-- DEDUCED, unsafe (log entry 29). -/
def execGstat (x : XArgs) (s : State) : Out :=
  xRun (.gstat x) s .v fun s k =>
    let gid := k.scalar k.a
    let c := s.ctxOf s.cur
    if gid ≥ 2 ^ c.gtsz then .error { code := tcGaugeId }
    else
      let g := c.gauge gid
      .ok { lat := 3, dst := .v k.d, val := pack 32 [if gid = 0 then 0 else g.st, c.stray, if gid = 0 then 0 else g.gen]
            map := some k.ownMap }

end Sys2Proof.Machine
end

