-- ==== Sys2Proof/Machine/Dispatch.lean ====
section
/-! DEFINITION. One arm per step of the opcode table. -/

namespace Sys2Proof.Machine

open Sys2Proof

def exec (i : Instr) (s : State) : Host.Outcome State Fault Refusal :=
  match i with
  | .add d a b => Sys2Proof.Machine.execAdd d a b s
  | .sub d a b => Sys2Proof.Machine.execSub d a b s
  | .and d a b => Sys2Proof.Machine.execAnd d a b s
  | .or d a b => Sys2Proof.Machine.execOr d a b s
  | .xor d a b => Sys2Proof.Machine.execXor d a b s
  | .shl d a b => Sys2Proof.Machine.execShl d a b s
  | .shr d a b => Sys2Proof.Machine.execShr d a b s
  | .sra d a b => Sys2Proof.Machine.execSra d a b s
  | .mul d a b => Sys2Proof.Machine.execMul d a b s
  | .mulh d a b => Sys2Proof.Machine.execMulh d a b s
  | .mulhu d a b => Sys2Proof.Machine.execMulhu d a b s
  | .div d a b => Sys2Proof.Machine.execDiv d a b s
  | .divu d a b => Sys2Proof.Machine.execDivu d a b s
  | .rem d a b => Sys2Proof.Machine.execRem d a b s
  | .remu d a b => Sys2Proof.Machine.execRemu d a b s
  | .min d a b => Sys2Proof.Machine.execMin d a b s
  | .max d a b => Sys2Proof.Machine.execMax d a b s
  | .minu d a b => Sys2Proof.Machine.execMinu d a b s
  | .maxu d a b => Sys2Proof.Machine.execMaxu d a b s
  | .ceq d a b => Sys2Proof.Machine.execCeq d a b s
  | .cne d a b => Sys2Proof.Machine.execCne d a b s
  | .clt d a b => Sys2Proof.Machine.execClt d a b s
  | .cltu d a b => Sys2Proof.Machine.execCltu d a b s
  | .cge d a b => Sys2Proof.Machine.execCge d a b s
  | .cgeu d a b => Sys2Proof.Machine.execCgeu d a b s
  | .sel d a b cr => Sys2Proof.Machine.execSel d a b cr s
  | .addi d a imm => Sys2Proof.Machine.execAddi d a imm s
  | .andi d a imm => Sys2Proof.Machine.execAndi d a imm s
  | .ori d a imm => Sys2Proof.Machine.execOri d a imm s
  | .xori d a imm => Sys2Proof.Machine.execXori d a imm s
  | .shli d a amt => Sys2Proof.Machine.execShli d a amt s
  | .shri d a amt => Sys2Proof.Machine.execShri d a amt s
  | .srai d a amt => Sys2Proof.Machine.execSrai d a amt s
  | .li d imm => Sys2Proof.Machine.execLi d imm s
  | .ors16 d a imm => Sys2Proof.Machine.execOrs16 d a imm s
  | .ors32 d a imm => Sys2Proof.Machine.execOrs32 d a imm s
  | .ors48 d a imm => Sys2Proof.Machine.execOrs48 d a imm s
  | .slti d a imm => Sys2Proof.Machine.execSlti d a imm s
  | .kld d a imm => Sys2Proof.Machine.execKld d a imm s
  | .kldw d a imm => Sys2Proof.Machine.execKldw d a imm s
  | .kst d a imm => Sys2Proof.Machine.execKst d a imm s
  | .kstw d a imm => Sys2Proof.Machine.execKstw d a imm s
  | .beq a b slot line => Sys2Proof.Machine.execBeq a b slot line s
  | .bne a b slot line => Sys2Proof.Machine.execBne a b slot line s
  | .blt a b slot line => Sys2Proof.Machine.execBlt a b slot line s
  | .bge a b slot line => Sys2Proof.Machine.execBge a b slot line s
  | .bltu a b slot line => Sys2Proof.Machine.execBltu a b slot line s
  | .bgeu a b slot line => Sys2Proof.Machine.execBgeu a b slot line s
  | .call a slot line => Sys2Proof.Machine.execCall a slot line s
  | .kloop a slot line => Sys2Proof.Machine.execKloop a slot line s
  | .jr a => Sys2Proof.Machine.execJr a s
  | .jrRet a => Sys2Proof.Machine.execJrRet a s
  | .tkpush sl => Sys2Proof.Machine.execTkpush sl s
  | .tkpop sl => Sys2Proof.Machine.execTkpop sl s
  | .crrd d crn => Sys2Proof.Machine.execCrrd d crn s
  | .crwr a crn => Sys2Proof.Machine.execCrwr a crn s
  | .winx d a b acc => Sys2Proof.Machine.execWinx d a b acc s
  | .sqwait d a b => Sys2Proof.Machine.execSqwait d a b s
  | .mnest a => Sys2Proof.Machine.execMnest a s
  | .mtpb a => Sys2Proof.Machine.execMtpb a s
  | .mringDef a b rg => Sys2Proof.Machine.execMringDef a b rg s
  | .mringPush a rg => Sys2Proof.Machine.execMringPush a rg s
  | .mringRd d rg => Sys2Proof.Machine.execMringRd d rg s
  | .mgo d a b prf => Sys2Proof.Machine.execMgo d a b prf s
  | .mwait d a => Sys2Proof.Machine.execMwait d a s
  | .msnap d a rel t => Sys2Proof.Machine.execMsnap d a rel t s
  | .mdrain d a b za key rel ovf rm t => Sys2Proof.Machine.execMdrain d a b za key rel ovf rm t s
  | .mzero d mask => Sys2Proof.Machine.execMzero d mask s
  | .mscale d a b sfmt src dst prf => Sys2Proof.Machine.execMscale d a b sfmt src dst prf s
  | .ixdef a => Sys2Proof.Machine.execIxdef a s
  | .ixgo d a b rel => Sys2Proof.Machine.execIxgo d a b rel s
  | .ixwait d a => Sys2Proof.Machine.execIxwait d a s
  | .galloc a b => Sys2Proof.Machine.execGalloc a b s
  | .gallocRel a => Sys2Proof.Machine.execGallocRel a s
  | .gbind d a b => Sys2Proof.Machine.execGbind d a b s
  | .gclose d a => Sys2Proof.Machine.execGclose d a s
  | .gcloseCfg d a b => Sys2Proof.Machine.execGcloseCfg d a b s
  | .bgenq d a b => Sys2Proof.Machine.execBgenq d a b s
  | .yield d => Sys2Proof.Machine.execYield d s
  | .tfrd d a => Sys2Proof.Machine.execTfrd d a s
  | .tfwr a b => Sys2Proof.Machine.execTfwr a b s
  | .mqrd d a => Sys2Proof.Machine.execMqrd d a s
  | .mqwr a b => Sys2Proof.Machine.execMqwr a b s
  | .ctxstat d a => Sys2Proof.Machine.execCtxstat d a s
  | .ctxkill a => Sys2Proof.Machine.execCtxkill a s
  | .brkset a b => Sys2Proof.Machine.execBrkset a b s
  | .brkclr a => Sys2Proof.Machine.execBrkclr a s
  | .swtrap a => Sys2Proof.Machine.execSwtrap a s
  | .take d a => Sys2Proof.Machine.execTake d a s
  | .steal d a b => Sys2Proof.Machine.execSteal d a b s
  | .spawn d a b => Sys2Proof.Machine.execSpawn d a b s
  | .join d a => Sys2Proof.Machine.execJoin d a s
  | .cqapp d a b => Sys2Proof.Machine.execCqapp d a b s
  | .cqtail d a => Sys2Proof.Machine.execCqtail d a s
  | .cqstat d a b => Sys2Proof.Machine.execCqstat d a b s
  | .evpost a b => Sys2Proof.Machine.execEvpost a b s
  | .ttwr a b => Sys2Proof.Machine.execTtwr a b s
  | .ttrd a b => Sys2Proof.Machine.execTtrd a b s
  | .ttstat d a => Sys2Proof.Machine.execTtstat d a s
  | .launch d a b => Sys2Proof.Machine.execLaunch d a b s
  | .grpid d a => Sys2Proof.Machine.execGrpid d a s
  | .grpwait d a => Sys2Proof.Machine.execGrpwait d a s
  | .lsqdef a => Sys2Proof.Machine.execLsqdef a s
  | .lsqgo d => Sys2Proof.Machine.execLsqgo d s
  | .lsqnext d a b => Sys2Proof.Machine.execLsqnext d a b s
  | .barv d a => Sys2Proof.Machine.execBarv d a s
  | .bwait d a b => Sys2Proof.Machine.execBwait d a b s
  | .bmask a b => Sys2Proof.Machine.execBmask a b s
  | .bgen d a => Sys2Proof.Machine.execBgen d a s
  | .semadd d a b => Sys2Proof.Machine.execSemadd d a b s
  | .semsub d a b => Sys2Proof.Machine.execSemsub d a b s
  | .semcas d a b => Sys2Proof.Machine.execSemcas d a b s
  | .semwait d a b => Sys2Proof.Machine.execSemwait d a b s
  | .semrd d a => Sys2Proof.Machine.execSemrd d a s
  | .pgmap d a => Sys2Proof.Machine.execPgmap d a s
  | .pgattr d a b => Sys2Proof.Machine.execPgattr d a b s
  | .pgqry d a => Sys2Proof.Machine.execPgqry d a s
  | .tlbinv d a b => Sys2Proof.Machine.execTlbinv d a b s
  | .seal d a b => Sys2Proof.Machine.execSeal d a b s
  | .unseal d a b => Sys2Proof.Machine.execUnseal d a b s
  | .coll a => Sys2Proof.Machine.execColl a s
  | .colwait d a => Sys2Proof.Machine.execColwait d a s
  | .lnkst d a => Sys2Proof.Machine.execLnkst d a s
  | .tmrd d => Sys2Proof.Machine.execTmrd d s
  | .bpush d a => Sys2Proof.Machine.execBpush d a s
  | .bclose d a b => Sys2Proof.Machine.execBclose d a b s
  | .bsub d a b => Sys2Proof.Machine.execBsub d a b s
  | .brule d a b => Sys2Proof.Machine.execBrule d a b s
  | .bstat d a b => Sys2Proof.Machine.execBstat d a b s
  | .fence scope => Sys2Proof.Machine.execFence scope s
  | .ld tok a desc => Sys2Proof.Machine.execLd tok a desc s
  | .lds tok a b desc => Sys2Proof.Machine.execLds tok a b desc s
  | .ldi tok a b desc ix => Sys2Proof.Machine.execLdi tok a b desc ix s
  | .lgb tok a b desc => Sys2Proof.Machine.execLgb tok a b desc s
  | .lrrd tok a b desc => Sys2Proof.Machine.execLrrd tok a b desc s
  | .fbopen tok fb b desc => Sys2Proof.Machine.execFbopen tok fb b desc s
  | .fbnext tok fb => Sys2Proof.Machine.execFbnext tok fb s
  | .fbend tok fb slot line => Sys2Proof.Machine.execFbend tok fb slot line s
  | .fbclose tok fb => Sys2Proof.Machine.execFbclose tok fb s
  | .lmark tok m => Sys2Proof.Machine.execLmark tok m s
  | .lOwne tok a cnt => Sys2Proof.Machine.execLOwne tok a cnt s
  | .lOwnx tok a cnt => Sys2Proof.Machine.execLOwnx tok a cnt s
  | .lFence tok scope => Sys2Proof.Machine.execLFence tok scope s
  | .laadd tok a b val => Sys2Proof.Machine.execLaadd tok a b val s
  | .laaddLo tok a b val => Sys2Proof.Machine.execLaaddLo tok a b val s
  | .laaddHi tok a b val => Sys2Proof.Machine.execLaaddHi tok a b val s
  | .lali tok a imm => Sys2Proof.Machine.execLali tok a imm s
  | .lak tok a b imm => Sys2Proof.Machine.execLak tok a b imm s
  | .lbr tok a b slot line => Sys2Proof.Machine.execLbr tok a b slot line s
  | .lloop tok a slot line => Sys2Proof.Machine.execLloop tok a slot line s
  | .st tok a desc chk => Sys2Proof.Machine.execSt tok a desc chk s
  | .sts tok a b desc chk => Sys2Proof.Machine.execSts tok a b desc chk s
  | .sti tok a b desc ix => Sys2Proof.Machine.execSti tok a b desc ix s
  | .ssb tok a b desc => Sys2Proof.Machine.execSsb tok a b desc s
  | .putsigFlag8 tok a b desc chk => Sys2Proof.Machine.execPutsigFlag8 tok a b desc chk s
  | .putsigFlag4 tok a b desc chk => Sys2Proof.Machine.execPutsigFlag4 tok a b desc chk s
  | .putsigSemadd tok a b desc chk => Sys2Proof.Machine.execPutsigSemadd tok a b desc chk s
  | .smark tok m => Sys2Proof.Machine.execSmark tok m s
  | .sOwne tok a cnt => Sys2Proof.Machine.execSOwne tok a cnt s
  | .sOwnx tok a cnt => Sys2Proof.Machine.execSOwnx tok a cnt s
  | .sFence tok scope => Sys2Proof.Machine.execSFence tok scope s
  | .saadd tok a b val => Sys2Proof.Machine.execSaadd tok a b val s
  | .saaddLo tok a b val => Sys2Proof.Machine.execSaaddLo tok a b val s
  | .saaddHi tok a b val => Sys2Proof.Machine.execSaaddHi tok a b val s
  | .sali tok a imm => Sys2Proof.Machine.execSali tok a imm s
  | .sak tok a b imm => Sys2Proof.Machine.execSak tok a b imm s
  | .sbr tok a b slot line => Sys2Proof.Machine.execSbr tok a b slot line s
  | .sloop tok a slot line => Sys2Proof.Machine.execSloop tok a slot line s
  | .sdrop tok => Sys2Proof.Machine.execSdrop tok s
  | .vadd x => Sys2Proof.Machine.execVadd x s
  | .vsub x => Sys2Proof.Machine.execVsub x s
  | .vmul x => Sys2Proof.Machine.execVmul x s
  | .vfma x => Sys2Proof.Machine.execVfma x s
  | .vfms x => Sys2Proof.Machine.execVfms x s
  | .vfnma x => Sys2Proof.Machine.execVfnma x s
  | .vdiv x => Sys2Proof.Machine.execVdiv x s
  | .vmin x => Sys2Proof.Machine.execVmin x s
  | .vmax x => Sys2Proof.Machine.execVmax x s
  | .vminp x => Sys2Proof.Machine.execVminp x s
  | .vmaxp x => Sys2Proof.Machine.execVmaxp x s
  | .vabs x => Sys2Proof.Machine.execVabs x s
  | .vneg x => Sys2Proof.Machine.execVneg x s
  | .vceq x => Sys2Proof.Machine.execVceq x s
  | .vcne x => Sys2Proof.Machine.execVcne x s
  | .vclt x => Sys2Proof.Machine.execVclt x s
  | .vcle x => Sys2Proof.Machine.execVcle x s
  | .vcun x => Sys2Proof.Machine.execVcun x s
  | .vsel x => Sys2Proof.Machine.execVsel x s
  | .vand x => Sys2Proof.Machine.execVand x s
  | .vor x => Sys2Proof.Machine.execVor x s
  | .vxor x => Sys2Proof.Machine.execVxor x s
  | .vandn x => Sys2Proof.Machine.execVandn x s
  | .vshl x => Sys2Proof.Machine.execVshl x s
  | .vshr x => Sys2Proof.Machine.execVshr x s
  | .vsra x => Sys2Proof.Machine.execVsra x s
  | .vadds x => Sys2Proof.Machine.execVadds x s
  | .vsubs x => Sys2Proof.Machine.execVsubs x s
  | .vcvt x => Sys2Proof.Machine.execVcvt x s
  | .vsqrt x => Sys2Proof.Machine.execVsqrt x s
  | .vrcp x => Sys2Proof.Machine.execVrcp x s
  | .vrsq x => Sys2Proof.Machine.execVrsq x s
  | .vexp2 x => Sys2Proof.Machine.execVexp2 x s
  | .vlog2 x => Sys2Proof.Machine.execVlog2 x s
  | .vsinp x => Sys2Proof.Machine.execVsinp x s
  | .vcosp x => Sys2Proof.Machine.execVcosp x s
  | .vcmul x => Sys2Proof.Machine.execVcmul x s
  | .vmov x => Sys2Proof.Machine.execVmov x s
  | .vmovE x => Sys2Proof.Machine.execVmovE x s
  | .vscal x => Sys2Proof.Machine.execVscal x s
  | .vdq x => Sys2Proof.Machine.execVdq x s
  | .cmset x => Sys2Proof.Machine.execCmset x s
  | .cmget x => Sys2Proof.Machine.execCmget x s
  | .cmslice x => Sys2Proof.Machine.execCmslice x s
  | .cmperm x => Sys2Proof.Machine.execCmperm x s
  | .cmchk x => Sys2Proof.Machine.execCmchk x s
  | .pcrd x => Sys2Proof.Machine.execPcrd x s
  | .vhash x => Sys2Proof.Machine.execVhash x s
  | .vtwid x => Sys2Proof.Machine.execVtwid x s
  | .vperm x => Sys2Proof.Machine.execVperm x s
  | .vxpose x => Sys2Proof.Machine.execVxpose x s
  | .vreshp x => Sys2Proof.Machine.execVreshp x s
  | .vbce x => Sys2Proof.Machine.execVbce x s
  | .vbcr x => Sys2Proof.Machine.execVbcr x s
  | .vbcc x => Sys2Proof.Machine.execVbcc x s
  | .vcompact x => Sys2Proof.Machine.execVcompact x s
  | .vredq x => Sys2Proof.Machine.execVredq x s
  | .vredr x => Sys2Proof.Machine.execVredr x s
  | .wacc x => Sys2Proof.Machine.execWacc x s
  | .wfma x => Sys2Proof.Machine.execWfma x s
  | .wnar x => Sys2Proof.Machine.execWnar x s
  | .wzero x => Sys2Proof.Machine.execWzero x s
  | .pand x => Sys2Proof.Machine.execPand x s
  | .por x => Sys2Proof.Machine.execPor x s
  | .pxor x => Sys2Proof.Machine.execPxor x s
  | .pnot x => Sys2Proof.Machine.execPnot x s
  | .pset x => Sys2Proof.Machine.execPset x s
  | .pmov x => Sys2Proof.Machine.execPmov x s
  | .xloop x => Sys2Proof.Machine.execXloop x s
  | .xlend x => Sys2Proof.Machine.execXlend x s
  | .xwait x => Sys2Proof.Machine.execXwait x s
  | .xpush x => Sys2Proof.Machine.execXpush x s
  | .vqnt x => Sys2Proof.Machine.execVqnt x s
  | .gread x => Sys2Proof.Machine.execGread x s
  | .gstat x => Sys2Proof.Machine.execGstat x s
  | .nop => Sys2Proof.Machine.execNop s
  | .eret => Sys2Proof.Machine.execEret s
  | .xResultWrite => Sys2Proof.Machine.execXResultWrite s
  | .lqEntryPresent => Sys2Proof.Machine.execLqEntryPresent s
  | .storePerformedCore => Sys2Proof.Machine.execStorePerformedCore s
  | .gaugeMerge => Sys2Proof.Machine.execGaugeMerge s
  | .gpoison => Sys2Proof.Machine.execGpoison s
  | .engineTrap => Sys2Proof.Machine.execEngineTrap s
  | .breakStop => Sys2Proof.Machine.execBreakStop s
  | .stepStop => Sys2Proof.Machine.execStepStop s
  | .hostResumeCore => Sys2Proof.Machine.execHostResumeCore s
  | .bargeCommandRun => Sys2Proof.Machine.execBargeCommandRun s
  | .bargeRetire => Sys2Proof.Machine.execBargeRetire s
  | .matrixOpStart => Sys2Proof.Machine.execMatrixOpStart s
  | .mgoStepEnd => Sys2Proof.Machine.execMgoStepEnd s
  | .matrixOpRetire => Sys2Proof.Machine.execMatrixOpRetire s
  | .indexWalkRun => Sys2Proof.Machine.execIndexWalkRun s
  | .indexWalkRetire => Sys2Proof.Machine.execIndexWalkRetire s
  | .append => Sys2Proof.Machine.execAppend s
  | .evrd => Sys2Proof.Machine.execEvrd s
  | .hostRegisterWrite => Sys2Proof.Machine.execHostRegisterWrite s
  | .cmdNop => Sys2Proof.Machine.execCmdNop s
  | .ctxnew => Sys2Proof.Machine.execCtxnew s
  | .cmdCtxkill => Sys2Proof.Machine.execCmdCtxkill s
  | .preempt => Sys2Proof.Machine.execPreempt s
  | .resume => Sys2Proof.Machine.execResume s
  | .qbind => Sys2Proof.Machine.execQbind s
  | .kload => Sys2Proof.Machine.execKload s
  | .kunload => Sys2Proof.Machine.execKunload s
  | .cmdLaunch => Sys2Proof.Machine.execCmdLaunch s
  | .waitv => Sys2Proof.Machine.execWaitv s
  | .waitvPoll => Sys2Proof.Machine.execWaitvPoll s
  | .writev => Sys2Proof.Machine.execWritev s
  | .cmdEvent => Sys2Proof.Machine.execCmdEvent s
  | .ttSlotBegin => Sys2Proof.Machine.execTtSlotBegin s
  | .groupCreate => Sys2Proof.Machine.execGroupCreate s
  | .groupRetire => Sys2Proof.Machine.execGroupRetire s
  | .contextSave => Sys2Proof.Machine.execContextSave s
  | .preemptTimeLimit => Sys2Proof.Machine.execPreemptTimeLimit s
  | .resumeHeldStart => Sys2Proof.Machine.execResumeHeldStart s
  | .contextKillComplete => Sys2Proof.Machine.execContextKillComplete s
  | .contextAck => Sys2Proof.Machine.execContextAck s
  | .hostPageRead => Sys2Proof.Machine.execHostPageRead s
  | .hostPageWrite => Sys2Proof.Machine.execHostPageWrite s
  | .hostAtomic => Sys2Proof.Machine.execHostAtomic s
  | .rowRemap => Sys2Proof.Machine.execRowRemap s
  | .coreFailure => Sys2Proof.Machine.execCoreFailure s
  | .flitReplay => Sys2Proof.Machine.execFlitReplay s
  | .portup => Sys2Proof.Machine.execPortup s
  | .portTrainTimeout => Sys2Proof.Machine.execPortTrainTimeout s
  | .lanefail => Sys2Proof.Machine.execLanefail s
  | .collAllJoined => Sys2Proof.Machine.execCollAllJoined s
  | .collSessionDone => Sys2Proof.Machine.execCollSessionDone s
  | .collTimeout => Sys2Proof.Machine.execCollTimeout s
  | .collAbort => Sys2Proof.Machine.execCollAbort s
  | .timeMessage => Sys2Proof.Machine.execTimeMessage s
  | .timehold => Sys2Proof.Machine.execTimehold s
  | .basinStepTmo => Sys2Proof.Machine.execBasinStepTmo s
  | .basinDecision => Sys2Proof.Machine.execBasinDecision s
  | .buddyMirrorStep => Sys2Proof.Machine.execBuddyMirrorStep s
  | .basinBuddyAck => Sys2Proof.Machine.execBasinBuddyAck s
  | .subscriptionDelivery => Sys2Proof.Machine.execSubscriptionDelivery s
  | .bfailover => Sys2Proof.Machine.execBfailover s
  | .bnobuddy => Sys2Proof.Machine.execBnobuddy s
  | .powerApplied => Sys2Proof.Machine.execPowerApplied s
  | .powerRemoved => Sys2Proof.Machine.execPowerRemoved s
  | .fwgo => Sys2Proof.Machine.execFwgo s
  | .repairDone => Sys2Proof.Machine.execRepairDone s
  | .linksDone => Sys2Proof.Machine.execLinksDone s
  | .retrainPort => Sys2Proof.Machine.execRetrainPort s
  | .readErrorCounter => Sys2Proof.Machine.execReadErrorCounter s
  | .attest => Sys2Proof.Machine.execAttest s
  | .readPower => Sys2Proof.Machine.execReadPower s
  | .coolantOutOfRange => Sys2Proof.Machine.execCoolantOutOfRange s
  | .thermal => Sys2Proof.Machine.execThermal s
  | .fetch => Sys2Proof.Machine.execFetch s
  | .performedAtScope => Sys2Proof.Machine.execPerformedAtScope s
  | .coolantBackInRange => Sys2Proof.Machine.execCoolantBackInRange s

end Sys2Proof.Machine
end

