-- ==== Sys2Proof/Machine/Step.lean ====
section
/-! DEFINITION. One step of the pod: whoever the agenda names moves. -/

namespace Sys2Proof.Machine

open Sys2Proof

/-- The turn of a sequencer. -/
def State.turn (s : State) (q : SeqId) : Host.Outcome State Fault Refusal :=
  match s.chooseSeq q with
  | .run i s => match exec i s with
    | .next r => .next (s.observed r q i)
    | o => o
  | .stay s => .next s

/-- One step: time passes, the next turn is taken, and its mover moves. -/
def step (s : State) : Host.Outcome State Fault Refusal :=
  match s.advance with
  | (.seq q, s) =>
    if s.joins q then match (s.unstopped q).turn q with
      | .next r => .next (s.join q r)
      | o => o
    else s.turn q
  | (.event i a, s) => if i.isEvent then exec i { s with ev := a, cur := a.q } else .fault .notAnEvent
  | (.upset key, s) => .next (s.upset key)
  | (.corrected md asid cls src, s) => .next (s.corrected md asid cls src)
  | (.verify md, s) => .next (s.endVerify md)
  | (.element u j i, s) => .next (s.arriveElement u j i)
  | (.copy md asid key seq, s) => .next (s.copyMore md asid key seq)
  | (.loaded md asid id, s) => .next (s.endLoad md asid id)
  | (.members gid, s) => .next (s.endStart gid)
  | (.hostRead md off, s) => .next (s.hostRead md off)
  | (.hostTrain md width rate, s) => .next (s.hostTrain md width rate)

/-- The pod with the instruction of a table word in the place from which the next step takes one (`placeWord`). -/
def State.withFetchWord (s : State) (nbits w : Nat) : State := s.placeWord nbits w

end Sys2Proof.Machine
end

