-- ==== Sys2Proof/Safety.lean ====
section
/-! DEFINITION. The terms in which statements speak: what a step may change and what it leaves alone, when an instruction of each
stream executes, and the invariants of a safe run. -/

namespace Sys2Proof.Machine

open Sys2Proof

/-- The memory keeps its canonical form: equal memories are equal data. -/
def State.memOk (s : State) : Prop := Memory.wf s.mem = true

/-- Every byte reads to every sequencer as before. -/
def SameBytes (s t : State) : Prop := ∀ r a, t.byte r a = s.byte r a

/-- From `s` to `t` the control sequencer `q` has executed one instruction: k[d] ← v (nothing for k0), the stream stands at `p`, a
stream that is being stepped has retired it (R320), a breakpoint that it could pass once is passed (R327), and nothing else has changed. -/
structure KDone (s t : State) (q : SeqId) (d : BitVec 5) (v : Word) (p : Pos) : Prop where
  rest   : t = { s with ctls := t.ctls }
  others : ∀ r, ctlKey r ≠ ctlKey q → t.ctl r = s.ctl r
  own    : t.ctl q = { (s.ctl q).issued (strmNo q.kind) (s.pc q) with k := (t.ctl q).k, pos := p }
  dest   : t.getK q d = if d = 0 then 0 else v
  regs   : ∀ n, n ≠ d → t.getK q n = s.getK q n
  mem    : SameBytes s t

/-- The common case: the stream goes on at the next of its slots. -/
def KNext (s t : State) (q : SeqId) (d : BitVec 5) (v : Word) : Prop := KDone s t q d v (.next (s.pc q))

/-- From `s` to `t` a sequencer L or S has completed one instruction at position `p`: its token bits have moved tokens (R23; PA's token
follows `later`), the stream stands at `p`, and nothing else has changed. `s` holds the instruction's own effects. -/
structure LsDone (tok : Tok) (later : Bool) (s t : State) (q : SeqId) (p : Pos) : Prop where
  rest   : t = { s with ctls := t.ctls, cores := t.cores }
  ctl    : ∀ r, t.ctl r = if ctlKey r = ctlKey q then (s.ctl r).issued (strmNo q.kind) (s.pc q) else s.ctl r
  cores  : ∀ u, u ≠ q.unit → t.core u = s.core u
  own    : t.core q.unit = ({ s.core q.unit with slu := (t.core q.unit).slu }).setPos q.kind p
  tokens : ∀ n, (t.core q.unit).tokens n + (if lsPb q.kind tok = some n then 1 else 0)
             = (s.core q.unit).tokens n + (if later = false ∧ lsPa q.kind tok = some n then 1 else 0)
  mem    : SameBytes s t

/-- An instruction of L or S may issue: it stands on a sequencer of its stream, and its tokens allow it (R22, R23). -/
def LsReady (s : State) (kd : SeqKind) (tok : Tok) : Prop :=
  s.cur.kind = kd ∧ (s.core s.cur.unit).tokReady kd tok = true

-- X ------------------------------------------------------------------------------------------------------------------------------

/-- The load queue is a source of an X instruction (R128). -/
def xLq (sp : XSpec) (x : XArgs) : Bool := let o := operandsOf sp x; namesLq o.1 o.2.1 o.2.2

/-- An X instruction can issue: it stands on X, an open loop has a place for it and an iteration at that place (R222 to R224), and
neither a token nor a queue holds it (R19, R22, R23). -/
structure XReady (s : State) (x : XArgs) (lq push : Bool) : Prop where
  kind  : s.cur.kind = .x
  place : (s.core s.cur.unit).loop.act = true →
            (s.core s.cur.unit).loop.atEnd = false ∧ (s.core s.cur.unit).loop.squashed = false
  go    : (s.core s.cur.unit).xStall x lq push = false

/-- What it finds there. -/
def State.xSees (s : State) (sp : XSpec) (x : XArgs) (onto : XTo) : XCtx := xCtx (s.xCore sp x) sp x onto

/-- From `m` to `t` X has issued an instruction (R19, R23, R27, R29, R31, R222): its tokens have moved, `lq` has given its head, the chain holds `sl`
first, the results `ps` are in flight, the store queue has taken `es`, X time and the loop's place have moved on and the stream goes on at its next slot. Nothing else has
changed. -/
structure XDone (x : XArgs) (lq : Bool) (sl : ChSlot) (ps : List XPend) (es : List (Vec × MapV)) (m t : State) (q : SeqId) : Prop where
  rest   : t = { m with ids := m.ids + 1, ctls := t.ctls, cores := t.cores }
  ctl    : ∀ r, t.ctl r = if ctlKey r = ctlKey q then (m.ctl r).issued (strmNo q.kind) (m.pc q) else m.ctl r
  cores  : ∀ u, u ≠ q.unit → t.core u = m.core u
  own    : let c := m.core q.unit
           t.core q.unit = { c with
             lq := if lq then c.lq.tail else c.lq, slu := (t.core q.unit).slu, pend := c.pend ++ ps, sq := c.sq ++ es
             ch := [(1, sl), (2, c.chain 1), (3, c.chain 2), (4, c.chain 3)]
             xnow := c.xnext + 1, xnext := c.xnext + 1 + x.st.toNat, xret := c.xnext + 1 + x.st.toNat
             xsync := if (xPb x).isSome then m.tick else c.xsync
             loop := if c.loop.act then { c.loop with place := c.loop.place + 1 } else c.loop, xpos := .next (m.pc q) }
  tokens : ∀ n, (t.core q.unit).tokens n + (if xPb x = some n then 1 else 0)
             = (m.core q.unit).tokens n + (if xPa x = some n then 1 else 0)
  mem    : SameBytes m t

/-- X issues `i` with the results `ps` and the store-queue entries `es`. -/
def XIssues (i : Instr) (s : State) (sp : XSpec) (x : XArgs) (sl : ChSlot) (ps : List XPend) (es : List (Vec × MapV)) : Prop :=
  ∃ t, exec i s = .next t ∧ XDone x (xLq sp x) sl ps es (s.xNow sp x) t s.cur

/-- A result in flight that is to be written `lat` cycles after the issue cycle (R27, R78, R201), with its captured reference. -/
def State.xEntry (s : State) (sp : XSpec) (x : XArgs) (onto : XTo) (lat : Nat) (dst : XDst) (map : Option MapOut) (val flags : Nat) : XPend :=
  let m := s.xNow sp x
  { id := m.ids, pc := m.pc s.cur, cyc := (m.core s.cur.unit).xnext + lat, dst := dst, val := val, map := map, keep := false
    flags := flags, img := false, ref := (s.xSees sp x onto).ref.bind fun v => if v.own then none else v.m.slotOf.head?
    e2 := none, sq := false, rerun := none }

/-- The chain slot of an instruction (R31): that of a vector result keeps the register's old content until it is written. -/
def State.xSlot (s : State) (sp : XSpec) (x : XArgs) : XDst → ChSlot
  | .v n =>
    let m := s.xNow sp x
    let h := sget (0, CMap.nil) (m.core s.cur.unit).v n
    { val := h.1, map := h.2, prod := some m.ids }
  | _ => .nil

/-- X issues `i`, whose result is the bits `val` with a map, and its flags. -/
def XWrites (i : Instr) (s : State) (sp : XSpec) (x : XArgs) (onto : XTo) (lat : Nat) (dst : XDst) (map : Option MapOut) (val flags : Nat) : Prop :=
  XIssues i s sp x (s.xSlot sp x dst) [s.xEntry sp x onto lat dst map val flags] []

/-- X issues `i`, whose result is the vector of `n` elements of width `w` with these codes, and the flags of all of them. -/
def XElems (i : Instr) (s : State) (sp : XSpec) (x : XArgs) (lat w n : Nat) (map : MapOut) (el : Nat → Nat × Nat) : Prop :=
  ∃ val, XWrites i s sp x .v lat (.v (s.xSees sp x .v).d) (some map) val ((List.range n).foldl (fun a e => a ||| (el e).2) 0) ∧
    val < 2 ^ (w * n) ∧ ∀ e, e < n → field val (w * e) w = (el e).1 % 2 ^ w

end Sys2Proof.Machine
end

