-- ==== Sys2Proof/Certificates/Slice0/Obligations.lean ====
section
/-! DEFINITION. The statements for the provers. Each docstring names the rules of the spec that a statement rests on. -/

section

open Sys2Proof Sys2Proof.Machine

-- The integer instructions of K, QF and QU (spec 06) ------------------------------------------------------------------------------

/-- R146: major 0x01 computes k[D] from k[A] and k[B], FUNC naming the function and a FUNC of 0x13 or more no instruction; it wraps modulo
2^64, sets no flag and never traps; the shifts read b[5:0]. Where b = 0 the results of division are those of R147 (see `KDivision`). -/
def Obligations.KArithmetic : Prop :=
  (∀ (d a b : BitVec 5) (f : BitVec 11),
    Sys2Proof.decode .k (1#6 ++ d ++ a ++ b ++ f) [] =
      ([Instr.add d a b, .sub d a b, .and d a b, .or d a b, .xor d a b, .shl d a b, .shr d a b, .sra d a b, .mul d a b, .mulh d a b,
        .mulhu d a b, .div d a b, .divu d a b, .rem d a b, .remu d a b, .min d a b, .max d a b, .minu d a b, .maxu d a b])[f.toNat]?) ∧
  ∀ (s : State) (d a b : BitVec 5), isCtl s.cur.kind = true →
    ∀ p ∈ ([
      (Instr.add, fun x y => BitVec.ofNat 64 (x.toNat + y.toNat)),
      (Instr.sub, fun x y => BitVec.ofInt 64 ((x.toNat : Int) - y.toNat)),
      (Instr.and, fun x y => x &&& y),
      (Instr.or, fun x y => x ||| y),
      (Instr.xor, fun x y => x ^^^ y),
      (Instr.shl, fun x y => BitVec.ofNat 64 (x.toNat * 2 ^ (y.toNat % 64))),
      (Instr.shr, fun x y => BitVec.ofNat 64 (x.toNat / 2 ^ (y.toNat % 64))),
      (Instr.sra, fun x y => BitVec.ofInt 64 (x.toInt / 2 ^ (y.toNat % 64))),
      (Instr.mul, fun x y => BitVec.ofNat 64 (x.toNat * y.toNat)),
      (Instr.mulh, fun x y => BitVec.ofInt 64 (x.toInt * y.toInt / 2 ^ 64)),
      (Instr.mulhu, fun x y => BitVec.ofNat 64 (x.toNat * y.toNat / 2 ^ 64)),
      (Instr.div, fun x y => if y = 0 then BitVec.allOnes 64 else BitVec.ofInt 64 (x.toInt.tdiv y.toInt)),
      (Instr.divu, fun x y => if y = 0 then BitVec.allOnes 64 else BitVec.ofNat 64 (x.toNat / y.toNat)),
      (Instr.rem, fun x y => if y = 0 then x else BitVec.ofInt 64 (x.toInt.tmod y.toInt)),
      (Instr.remu, fun x y => if y = 0 then x else BitVec.ofNat 64 (x.toNat % y.toNat)),
      (Instr.min, fun x y => BitVec.ofInt 64 (min x.toInt y.toInt)),
      (Instr.max, fun x y => BitVec.ofInt 64 (max x.toInt y.toInt)),
      (Instr.minu, fun x y => BitVec.ofNat 64 (min x.toNat y.toNat)),
      (Instr.maxu, fun x y => BitVec.ofNat 64 (max x.toNat y.toNat))]
      : List ((BitVec 5 → BitVec 5 → BitVec 5 → Instr) × (Word → Word → Word))),
    ∃ t, exec (p.1 d a b) s = .next t ∧ KNext s t s.cur d (p.2 (s.getK s.cur a) (s.getK s.cur b))

/-- R147: division never traps and sets no flag. Signed and unsigned quotient and remainder satisfy a = b·quotient + remainder with
|remainder| < |b| and, signed, the remainder's sign that of a (R146); b = 0 and −2^63 / −1 have the results of R147's table. -/
def Obligations.KDivision : Prop :=
  ∀ (s : State) (d a b : BitVec 5), isCtl s.cur.kind = true →
    let x := s.getK s.cur a
    let y := s.getK s.cur b
    ∃ q r qu ru : Word,
      (∃ t, exec (.div d a b) s = .next t ∧ KNext s t s.cur d q) ∧
      (∃ t, exec (.rem d a b) s = .next t ∧ KNext s t s.cur d r) ∧
      (∃ t, exec (.divu d a b) s = .next t ∧ KNext s t s.cur d qu) ∧
      (∃ t, exec (.remu d a b) s = .next t ∧ KNext s t s.cur d ru) ∧
      (y = 0 → q = BitVec.allOnes 64 ∧ qu = BitVec.allOnes 64 ∧ r = x ∧ ru = x) ∧
      (x = BitVec.intMin 64 ∧ y = BitVec.allOnes 64 → q = BitVec.intMin 64 ∧ r = 0) ∧
      (y ≠ 0 → x.toNat = y.toNat * qu.toNat + ru.toNat ∧ ru.toNat < y.toNat) ∧
      (y ≠ 0 → ¬(x = BitVec.intMin 64 ∧ y = BitVec.allOnes 64) →
        x.toInt = y.toInt * q.toInt + r.toInt ∧ r.toInt.natAbs < y.toInt.natAbs ∧ (r ≠ 0 → (r.toInt < 0 ↔ x.toInt < 0)))

/-- R148: major 0x02 writes 1 where its relation holds and 0 elsewhere, FUNC naming the relation; a FUNC of 6 or more is no instruction.
SEL delivers k[A] where k[CR] is not zero, else k[B], and k[B] with CR = 0. -/
def Obligations.KCompareSelect : Prop :=
  (∀ (d a b : BitVec 5) (f : BitVec 11),
    Sys2Proof.decode .k (2#6 ++ d ++ a ++ b ++ f) [] =
      ([Instr.ceq d a b, .cne d a b, .clt d a b, .cltu d a b, .cge d a b, .cgeu d a b])[f.toNat]?) ∧
  ∀ (s : State) (d a b c : BitVec 5), isCtl s.cur.kind = true →
    (∀ p ∈ ([
      (Instr.ceq, fun x y => x = y),
      (Instr.cne, fun x y => x ≠ y),
      (Instr.clt, fun x y => x.toInt < y.toInt),
      (Instr.cltu, fun x y => x.toNat < y.toNat),
      (Instr.cge, fun x y => x.toInt ≥ y.toInt),
      (Instr.cgeu, fun x y => x.toNat ≥ y.toNat)]
      : List ((BitVec 5 → BitVec 5 → BitVec 5 → Instr) × (Word → Word → Prop))),
    ∃ t v, exec (p.1 d a b) s = .next t ∧ KNext s t s.cur d v ∧
      (p.2 (s.getK s.cur a) (s.getK s.cur b) → v = 1) ∧ (¬p.2 (s.getK s.cur a) (s.getK s.cur b) → v = 0)) ∧
    ∃ t v, exec (.sel d a b c) s = .next t ∧ KNext s t s.cur d v ∧
      (s.getK s.cur c ≠ 0 → v = s.getK s.cur a) ∧ (s.getK s.cur c = 0 ∨ c = 0 → v = s.getK s.cur b)

/-- R149: the immediate forms, with IMM16 sign-extended for ADDI and SLTI and zero-extended elsewhere. -/
def Obligations.KImmediate : Prop :=
  ∀ (s : State) (d a : BitVec 5) (imm : BitVec 16) (n : BitVec 6), isCtl s.cur.kind = true →
    let x := s.getK s.cur a
    ∀ p ∈ ([
      (Instr.addi d a imm, BitVec.ofInt 64 (x.toInt + imm.toInt)),
      (Instr.andi d a imm, x &&& BitVec.ofNat 64 imm.toNat),
      (Instr.ori d a imm, x ||| BitVec.ofNat 64 imm.toNat),
      (Instr.xori d a imm, x ^^^ BitVec.ofNat 64 imm.toNat),
      (Instr.shli d a n, BitVec.ofNat 64 (x.toNat * 2 ^ n.toNat)),
      (Instr.shri d a n, BitVec.ofNat 64 (x.toNat / 2 ^ n.toNat)),
      (Instr.srai d a n, BitVec.ofInt 64 (x.toInt / 2 ^ n.toNat)),
      (Instr.li d imm, BitVec.ofNat 64 imm.toNat),
      (Instr.ors16 d a imm, x ||| BitVec.ofNat 64 (imm.toNat * 2 ^ 16)),
      (Instr.ors32 d a imm, x ||| BitVec.ofNat 64 (imm.toNat * 2 ^ 32)),
      (Instr.ors48 d a imm, x ||| BitVec.ofNat 64 (imm.toNat * 2 ^ 48)),
      (Instr.slti d a imm, if x.toInt < imm.toInt then 1 else 0)] : List (Instr × Word)),
    ∃ t, exec p.1 s = .next t ∧ KNext s t s.cur d p.2

/-- R153: the conditional branches, CALL, KLOOP, JR and JR.RET. A taken branch goes to the target of R124; CALL links the address of its
own slot; KLOOP counts down modulo 2^64 and branches while the count is not zero; A = 0 is ILLEGAL_INST there. KLOOP's yield to a
pre-emption (R321) is excluded by the request flag. -/
def Obligations.KBranches : Prop :=
  ∀ (s : State) (a b : BitVec 5) (slot : BitVec 3) (line : BitVec 13), isCtl s.cur.kind = true →
    let q := s.cur
    let x := s.getK q a
    let y := s.getK q b
    let tgt : Pos := .target (branchTarget (s.pc q) slot line) (s.pc q)
    (∀ p ∈ ([
      (Instr.beq a b slot line, decide (x = y)),
      (Instr.bne a b slot line, decide (x ≠ y)),
      (Instr.blt a b slot line, decide (x.toInt < y.toInt)),
      (Instr.bge a b slot line, decide (x.toInt ≥ y.toInt)),
      (Instr.bltu a b slot line, decide (x.toNat < y.toNat)),
      (Instr.bgeu a b slot line, decide (x.toNat ≥ y.toNat))] : List (Instr × Bool)),
      ∃ t, exec p.1 s = .next t ∧ KDone s t q 0 0 (if p.2 then tgt else .next (s.pc q))) ∧
    (∃ t, exec (.call a slot line) s = .next t ∧ KDone s t q a (BitVec.ofNat 64 (s.pc q)) tgt) ∧
    ((s.ctl q).req = false → a ≠ 0 → ∃ t, exec (.kloop a slot line) s = .next t ∧
      KDone s t q a (x - 1) (if x = 1 then .next (s.pc q) else tgt)) ∧
    exec (.kloop 0 slot line) s = .next (s.trap q { code := 1 }) ∧
    (∃ t, exec (.jr a) s = .next t ∧ KDone s t q 0 0 (.target x.toNat (s.pc q))) ∧
    (∃ t, exec (.jrRet a) s = .next t ∧ KDone s t q 0 0
      (if x.toNat % 4 ≠ 0 ∨ x.toNat / 4 % 8 = 0 then .target x.toNat (s.pc q) else .next x.toNat))

/-- R150, R151: a K load whose checks pass, with no store of its own stream to those bytes in flight, delivers the bytes at k[A] + sext16(IMM16),
zero-extended and little-endian (R43); while such a store is in flight it waits (log entry 86). R150 to R152: a K store whose checks pass writes the low bytes of k[D] at k[A] + sext16(IMM16), seen at once by its own stream, and
no other byte; no register changes. R151, R314, R315: an access that is not a multiple of its size, at an address that otherwise passes, raises ADDR_FAULT with cause 5,
and the store writes nothing. -/
def Obligations.KMemory : Prop :=
  (∀ (s : State) (d a : BitVec 5) (imm : BitVec 16), isCtl s.cur.kind = true →
      let ea := s.kea s.cur a imm
      ∀ p ∈ ([(Instr.kld d a imm, 8), (Instr.kldw d a imm, 4)] : List (Instr × Nat)),
        s.readCheck s.cur ea p.2 p.2 = none →
        (s.ownOpen s.cur ea p.2 = false → ∃ t v, exec p.1 s = .next t ∧ KNext s t s.cur d v ∧
          ∀ i, i < 8 → v.extractLsb' (8 * i) 8 = if i < p.2 then s.byte s.cur (ea + i) else 0) ∧
        (s.ownOpen s.cur ea p.2 = true → exec p.1 s = .next s)) ∧
  ((∀ (s : State) (d a : BitVec 5) (imm : BitVec 16), isCtl s.cur.kind = true →
        let q := s.cur
        let ea := s.kea q a imm
        ∀ p ∈ ([(Instr.kst d a imm, 8), (Instr.kstw d a imm, 4)] : List (Instr × Nat)),
          s.writeCheck q ea p.2 p.2 = none →
          ∃ t m, exec p.1 s = .next t ∧ KNext m t q 0 0 ∧
            m = { s with ids := s.ids + 1, transit := m.transit, latent := m.latent, bad := m.bad } ∧
            (∀ i, i < p.2 → t.byte q (ea + i) = (s.getK q d).extractLsb' (8 * i) 8) ∧
            (∀ r x, x < ea ∨ x ≥ ea + p.2 → t.byte r x = s.byte r x) ∧
            ∃ st : Store, t.transit = st.enter s.transit ∧ st.who = q ∧ st.lvl = 1) ∧
    (∀ (s : State) (d a : BitVec 5) (imm : BitVec 16), isCtl s.cur.kind = true →
        let ea := s.kea s.cur a imm
        s.cause14 s.cur ea = none →
        ∀ p ∈ ([(Instr.kld d a imm, 8), (Instr.kldw d a imm, 4), (Instr.kst d a imm, 8), (Instr.kstw d a imm, 4)] : List (Instr × Nat)),
          ea % p.2 ≠ 0 → exec p.1 s = .next (s.trap s.cur { code := 3, addr := ea, info := 5 })))

/-- R154, R22: TKPUSH puts one token into its sluice and TKPOP takes one; a push into a full sluice and a pop from an empty one wait, and
nothing else changes. R158, R304: FENCE goes on once no store that its stream has made or observed (`Store.seen` has both) is short of the scope; until
then it waits and changes nothing. Which stores a stream has observed follows log entry 82, the model's choice. -/
def Obligations.KTokensAndFence : Prop :=
  (∀ (s : State) (sl : BitVec 2), s.cur.kind = .k → sl ≠ 3 →
      let q := s.cur
      let c := s.core q.unit
      let out := if sl = 0 then slKL else if sl = 1 then slKX else slKS
      let inn := if sl = 0 then slLK else if sl = 1 then slXK else slSK
      (c.tokens out < 16 → ∃ t m, exec (.tkpush sl) s = .next t ∧ KNext m t q 0 0 ∧
        m = s.setCore q.unit { c with slu := (m.core q.unit).slu } ∧
        ∀ n, (m.core q.unit).tokens n = c.tokens n + if n = out then 1 else 0) ∧
      (c.tokens out ≥ 16 → exec (.tkpush sl) s = .next s) ∧
      (c.tokens inn > 0 → ∃ t m, exec (.tkpop sl) s = .next t ∧ KNext m t q 0 0 ∧
        m = s.setCore q.unit { c with slu := (m.core q.unit).slu } ∧
        ∀ n, (m.core q.unit).tokens n = c.tokens n - if n = inn then 1 else 0) ∧
      (c.tokens inn = 0 → exec (.tkpop sl) s = .next s)) ∧
  (∀ (s : State) (scope : BitVec 3), isCtl s.cur.kind = true →
      ((∀ st ∈ s.transit, (st.fenceBy s.cur).isSome → st.lvl > scope.toNat) →
        ∃ t, exec (.fence scope) s = .next t ∧ KNext s t s.cur 0 0) ∧
      ((∃ st ∈ s.transit, (st.fenceBy s.cur).isSome ∧ st.lvl ≤ scope.toNat) → exec (.fence scope) s = .next s))

/-- R155: what CRRD reads and CRWR writes on a core's K, the truncation to the register's width and its defined bits (R16, R59, R80), and
ILLEGAL_INST for a number outside the table and for a write of a read-only register. QF and QU hold `xst`, `cyc`, `gtab` and `gtsz` alone: an access to another raises
ILLEGAL_INST. That `cyc` is the clock less its value at group start is log entry 72, the model's choice. -/
def Obligations.ControlRegisters : Prop :=
  (∀ (s : State) (d : BitVec 5) (crn : BitVec 16), s.cur.kind = .k →
      let q := s.cur
      let c := s.core q.unit
      let x := s.getK q d
      (∀ p ∈ ([
        (0, (s.ctl q).xst.setWidth 64), (1, c.nkey), (2, BitVec.ofNat 64 c.cmstWord),
        (3, BitVec.ofNat 64 (s.clock - (s.ctl q).cycBase)), (4, BitVec.ofNat 64 (s.ctxOf q).gtab),
        (5, BitVec.ofNat 64 (s.ctxOf q).gtsz), (6, BitVec.ofNat 64 c.slcnt)] : List (BitVec 16 × Word)),
        ∃ t, exec (.crrd d p.1) s = .next t ∧ KNext s t q d p.2) ∧
      (∃ t, exec (.crwr d 0) s = .next t ∧ KNext (s.setCtl q { s.ctl q with xst := x.setWidth 32 &&& 0x3F }) t q 0 0) ∧
      (∃ t, exec (.crwr d 1) s = .next t ∧ KNext (s.setCore q.unit { c with nkey := x }) t q 0 0) ∧
      (∃ t, exec (.crwr d 2) s = .next t ∧ KNext (s.setCore q.unit { c with cmst := x.setWidth 32 &&& 3 }) t q 0 0) ∧
      (crn.toNat ≥ 7 → exec (.crrd d crn) s = .next (s.trap q { code := 1 })) ∧
      (crn.toNat ≥ 3 → exec (.crwr d crn) s = .next (s.trap q { code := 1 }))) ∧
  (∀ (s : State) (d : BitVec 5) (crn : BitVec 16), s.cur.kind = .qf ∨ s.cur.kind = .qu →
      let q := s.cur
      let x := s.getK q d
      let ill := Host.Outcome.next (s.trap q { code := 1 })
      (∀ p ∈ ([
        (0, (s.ctl q).xst.setWidth 64), (3, BitVec.ofNat 64 (s.clock - (s.ctl q).cycBase)), (4, BitVec.ofNat 64 (s.ctxOf q).gtab),
        (5, BitVec.ofNat 64 (s.ctxOf q).gtsz)] : List (BitVec 16 × Word)),
        ∃ t, exec (.crrd d p.1) s = .next t ∧ KNext s t q d p.2) ∧
      (∃ t, exec (.crwr d 0) s = .next t ∧ KNext (s.setCtl q { s.ctl q with xst := x.setWidth 32 &&& 0x3F }) t q 0 0) ∧
      (crn = 1 ∨ crn = 2 ∨ crn.toNat ≥ 6 → exec (.crrd d crn) s = ill) ∧ (crn.toNat ≥ 1 → exec (.crwr d crn) s = ill))

/-- R159, R160, R163, R166: WINX answers its code and changes nothing else: 0 for no bytes, 1 past 2^52, 2 past 64 pages, 3 where nothing is mapped, 4
for a missing permission or a sealed or gauge-table page written, 5 for a POISONED or RETIRED page. BGENQ with every check passed appends the record's command to its
chain, with the next sequence number and the pages it examined, whose counts it raises, and answers that number; no other chain changes. SQWAIT answers the
barge's number once it is at least k[B], and waits before.
That a seal of a PEER page on another module counts in WINX, that a record with AOP = 0 has OPND and CMPV zero, and that BGENQ waits while a store of its
stream to the record is in flight, are log entries 43, 84 and 86, the model's choices. -/
def Obligations.KBarge : Prop :=
  ∀ (s : State) (d a b : BitVec 5) (acc : BitVec 2), isCtl s.cur.kind = true →
    let q := s.cur
    let ea := (s.getK q a).toNat
    let n := (s.getK q b).toNat
    let ch := (s.ctxOf q).chain (bargeKey q n)
    let ca := (s.ctxOf q).chain (bargeKey q ea)
    let md := modOf q.unit
    let asid := s.asidOf q
    let c := s.ctx md asid
    (∃ t v, exec (.winx d a b acc) s = .next t ∧ KNext s t q d v ∧
      (n = 0 → v = 0) ∧
      (n ≠ 0 → ea + n > 2 ^ 52 → v = 1) ∧
      (n ≠ 0 → ea + n ≤ 2 ^ 52 →
        ((c.pagesOf [(ea, n)]).length > 64 → v = 2) ∧
        (c.pageOf ea = none → ea % 2 ^ 16 + n ≤ 2 ^ 16 → v = 3) ∧
        (∀ p, c.pageOf ea = some p → p.tier ≠ 3 → ea + n ≤ p.va + p.size →
          v = if (acc.getLsbD 0 = true ∧ p.r = false) ∨
                 (acc.getLsbD 1 = true ∧ (p.w = false ∨ p.basin.isSome = true ∨ s.sealedAt asid md ea n = true)) then 4
              else if p.poisoned = true ∨ p.retired = true then 5 else 0))) ∧
    (n < 16 → ch.cmds.length < 1024 → s.recCheck q ea 64 = none → s.ownOpen q ea 64 = true → exec (.bgenq d a b) s = .next s) ∧
    (n < 16 → ch.cmds.length < 1024 → s.recCheck q ea 64 = none → s.ownOpen q ea 64 = false → s.bgenqTrap q (s.words q ea 8) = none →
      ∃ t m x, exec (.bgenq d a b) s = .next t ∧ KNext m t q d (BitVec.ofNat 64 (ch.last + 1)) ∧
        m = { s with ids := s.ids + 1, ctxs := m.ctxs } ∧
        (m.ctxOf q).chain (bargeKey q n) = { ch with last := ch.last + 1, cmds := ch.cmds ++ [x] } ∧
        (∀ k, k ≠ bargeKey q n → (m.ctxOf q).chain k = (s.ctxOf q).chain k) ∧
        x.seq = ch.last + 1 ∧ x.enq = q ∧ x.st = .queued ∧ x.order = s.ids ∧ x.pins = s.pinsOf md asid x ∧
        (∀ m' va, (((m.ctx m' asid).pages.find? fun p => p.va == va).map (·.inf)) =
          if (m', va) ∈ x.pins then
            some (match (s.ctx m' asid).pages.find? fun p => p.va == va with
              | some p => p.inf + 1
              | none => 1)
          else ((s.ctx m' asid).pages.find? fun p => p.va == va).map (·.inf)) ∧
        (let w (i : Nat) : Word := (s.words q ea 8).getD i 0
         x.src = (w 0).toNat ∧ x.dst = (w 1).toNat ∧ x.len = (w 2).toNat % 2 ^ 32 ∧ x.rows = (w 2).toNat / 2 ^ 32 ∧
         x.sstr = ((w 3).extractLsb' 0 32).toInt ∧ x.dstr = ((w 3).extractLsb' 32 32).toInt ∧
         x.aw = (w 4).getLsbD 27 ∧ x.aop = (w 4).toNat / 2 ^ 24 % 8 ∧ x.es = (w 4).toNat / 16 % 4 ∧ x.xp = (w 4).getLsbD 3 ∧
         x.rel = (w 4).getLsbD 2 ∧ x.ds = (w 4).getLsbD 1 ∧ x.ss = (w 4).getLsbD 0 ∧ x.opnd = (w 5).toNat ∧ x.cmpv = (w 6).toNat ∧
         x.desc = (if (w 4).getLsbD 6 then some (descPart ((s.grpOf q).descWords ((w 4).toNat / 2 ^ 7 % 2 ^ 16))) else none) ∧
         x.nkey = if q.kind = SeqKind.k then (s.core q.unit).nkey else 0)) ∧
    (ea < 16 → ca.seq ≥ n → ∃ t, exec (.sqwait d a b) s = .next t ∧ KNext s t q d (BitVec.ofNat 64 ca.seq)) ∧
    (ea < 16 → ca.seq < n → exec (.sqwait d a b) s = .next s)

-- Gauges (spec 04) -------------------------------------------------------------------------------------------------------------------

/-- R115, R167 to R169, R107: GALLOC opens a FREE record with every field at its reset value and the CFG given, and its release frees one;
GBIND swaps a descriptor's gauge id; GCLOSE and GCLOSE.CFG close an OPEN record and answer the new GEN: the closed half takes the maximum, the count,
the flags and, for each binary8 format, the largest exponent that keeps the maximum in range, less MARGIN, clamped. No other record changes. R97, R115: an id of 0 or past the table raises
GAUGE_ID, as does a close of a FREE record; a POISONED one raises GAUGE_POISON, a wrong state of GALLOC GAUGE_STATE, a descriptor past the table OPND_RANGE. -/
def Obligations.GaugeInstructions : Prop :=
  ∀ (s : State) (d a b : BitVec 5), isCtl s.cur.kind = true →
    let q := s.cur
    let c := s.ctxOf q
    let g := (s.getK q a).toNat
    let w := (s.getK q b).toNat
    let set (x : Gauge) : State := s.setCtxOf q { c with gauges := sset c.gauges g x }
    let closed (r : Gauge) (margin : Nat) : Prop :=
      let h := (c.gauge g).half
      let fmt (j : Nat) : Fmt := .b8 (j / 4 + 1) (j.testBit 1) (j.testBit 0)
      let top (j : Nat) (z : Int) : Prop := fitsScaled h.amax z (fmt j) = true ∧ fitsScaled h.amax (z + 1) (fmt j) = false
      r.gen = ((c.gauge g).gen + 1) % 2 ^ 32 ∧ r.camax = h.amax ∧ r.ccnt = h.e ∧ r.half = GHalf.zero ∧ r.st = 1 ∧ r.ovcnt = (c.gauge g).ovcnt ∧
      r.margin = margin ∧ r.cflg < 32 ∧ r.cflg.testBit 0 = decide (h.amax = 0) ∧ r.cflg.testBit 1 = decide (h.n ≠ 0) ∧
      r.cflg.testBit 2 = decide (h.i ≠ 0) ∧
      (r.cflg.testBit 3 = true ↔ h.z = 2 ^ 32 - 1 ∨ h.n = 2 ^ 32 - 1 ∨ h.i = 2 ^ 32 - 1 ∨ h.e = 2 ^ 64 - 1 ∨ ∃ b ∈ h.bins, b.2 = 2 ^ 32 - 1) ∧
      r.sx.length = 28 ∧ (h.amax = 0 → r.cflg.testBit 4 = false ∧ ∀ j, r.sx.getD j 0 = 0) ∧
      (0 < h.amax → h.amax < 0x7F800000 →
        (∀ j, j < 28 → ∃ z, top j z ∧ r.sx.getD j 0 = max (-128) (min 127 (z - margin))) ∧
        (r.cflg.testBit 4 = true ↔ ∃ j z, j < 28 ∧ top j z ∧ (z - margin < -128 ∨ z - margin > 127)))
    (0 < g → g < 2 ^ c.gtsz → (c.gauge g).st = 0 →
      ∃ t, exec (.galloc a b) s = .next t ∧
        KNext (set { Gauge.free with st := 1, margin := w / 16 % 16, ovm := w % 2 == 1 }) t q 0 0) ∧
    (0 < g → g < 2 ^ c.gtsz → (c.gauge g).st ≠ 0 → ∃ t, exec (.gallocRel a) s = .next t ∧ KNext (set Gauge.free) t q 0 0) ∧
    (0 < g → g < 2 ^ c.gtsz → (c.gauge g).st = 1 →
      (∃ t r, exec (.gclose d a) s = .next t ∧ KNext (set r) t q d (BitVec.ofNat 64 r.gen) ∧
        closed r (c.gauge g).margin ∧ r.ovm = (c.gauge g).ovm) ∧
      (∃ t r, exec (.gcloseCfg d a b) s = .next t ∧ KNext (set r) t q d (BitVec.ofNat 64 r.gen) ∧
        closed r (w / 16 % 16) ∧ r.ovm = (w % 2 == 1))) ∧
    (let traps (i : Instr) (code : Nat) : Prop := exec i s = .next (s.trap q { code := code })
     (g = 0 ∨ g ≥ 2 ^ c.gtsz →
       traps (.galloc a b) 12 ∧ traps (.gallocRel a) 12 ∧ traps (.gclose d a) 12 ∧ traps (.gcloseCfg d a b) 12) ∧
     (0 < g → g < 2 ^ c.gtsz →
       ((c.gauge g).st ≠ 0 → traps (.galloc a b) 15) ∧
       ((c.gauge g).st = 0 → traps (.gallocRel a) 15 ∧ traps (.gclose d a) 12 ∧ traps (.gcloseCfg d a b) 12) ∧
       ((c.gauge g).st = 2 → traps (.gclose d a) 13 ∧ traps (.gcloseCfg d a b) 13)) ∧
     (w ≥ 2 ^ c.gtsz → traps (.gbind d a b) 12) ∧ (w < 2 ^ c.gtsz → g ≥ (s.grpOf q).ndesc → traps (.gbind d a b) 6)) ∧
    (w < 2 ^ c.gtsz → g < (s.grpOf q).ndesc →
      let ws := (s.grpOf q).descWords g
      ∃ t m, exec (.gbind d a b) s = .next t ∧ KNext m t q d (BitVec.ofNat 64 ((ws.getD 5 0).toNat / 2 ^ 16 % 2 ^ 20)) ∧
        m = s.setGroup (s.gidOf q) { s.grpOf q with desc := (m.grpOf q).desc } ∧
        (∀ n, n ≠ g → (m.grpOf q).descWords n = (s.grpOf q).descWords n) ∧
        (m.grpOf q).descWords g = ws.set 5 (BitVec.ofNat 64 ((ws.getD 5 0).toNat - (ws.getD 5 0).toNat / 2 ^ 16 % 2 ^ 20 * 2 ^ 16 + w * 2 ^ 16)))

/-- R103, R104, R115: a partial that reaches an OPEN record is merged by maximum and saturating sums, one that reaches a FREE record is
discarded and counted, one that reaches a POISONED record is discarded; an uncorrectable error makes an OPEN record POISONED and posts
GPOISON. -/
def Obligations.GaugeUnit : Prop :=
  ∀ (s : State) (p : GPart),
    let md := s.ev.md
    let asid := s.ev.asid
    let c := s.ctx md asid
    let g := c.gauge p.gid
    (c.parts[s.ev.i]? = some p →
      ∃ c', exec .gaugeMerge s = .next (s.setCtx md asid c') ∧ c'.parts = c.parts.eraseIdx s.ev.i ∧
        (g.st = 0 → c' = { c with parts := c'.parts, stray := min (c.stray + 1) 0xFFFFFFFF }) ∧
        (g.st = 1 → c' = { c with parts := c'.parts, gauges := sset c.gauges p.gid (c'.gauge p.gid) } ∧
          (c'.gauge p.gid).half.e = min (g.half.e + p.half.e) (2 ^ 64 - 1) ∧
          (c'.gauge p.gid).half.z = min (g.half.z + p.half.z) 0xFFFFFFFF ∧
          (c'.gauge p.gid).half.n = min (g.half.n + p.half.n) 0xFFFFFFFF ∧
          (c'.gauge p.gid).half.i = min (g.half.i + p.half.i) 0xFFFFFFFF ∧
          (c'.gauge p.gid).half.amax = max g.half.amax p.half.amax ∧
          (c'.gauge p.gid).ovcnt = min (g.ovcnt + p.ov) 0xFFFFFFFF ∧
          ((p.half.bins.map Prod.fst).Nodup → ∀ b, sget 0 g.half.bins b ≤ 0xFFFFFFFF →
            sget 0 (c'.gauge p.gid).half.bins b = min (sget 0 g.half.bins b + sget 0 p.half.bins b) 0xFFFFFFFF) ∧
          c'.gauge p.gid = { g with half := (c'.gauge p.gid).half, ovcnt := (c'.gauge p.gid).ovcnt }) ∧
        (g.st = 2 → c' = { c with parts := c'.parts })) ∧
    ((c.gauge s.ev.i).st = 1 → ∃ t, exec .gpoison s = .next t ∧
      t = ((s.setCtx md asid { c with gauges := sset c.gauges s.ev.i { c.gauge s.ev.i with st := 2 } }).count md 5 1).post md 0x140
        (some asid) (srcHub (0x10 + s.ev.i % 8)) 0 s.ev.i)

-- The matrix and index engines (spec 09) ---------------------------------------------------------------------------------------------

/-- R231, R232, R235: MNEST and MTPB hold the words of their records; MRING.DEF defines a ring, empty; MRING.PUSH gives entries, at most
what the ring can hold; MRING.RD answers head and tail. Only the core's matrix engine changes. That the records' reads wait for stores of their own stream
is log entry 86, the model's choice. -/
def Obligations.MatrixRecords : Prop :=
  ∀ (s : State) (d a b : BitVec 5) (rg : BitVec 3), s.cur.kind = .k →
    let q := s.cur
    let m := s.mx q.unit
    let ea := (s.getK q a).toNat
    let r := m.ring rg.toNat
    (s.recCheck q ea 56 = none → s.ownOpen q ea 56 = true → exec (.mnest a) s = .next s) ∧
    (s.recCheck q ea 64 = none → s.ownOpen q ea 64 = true → exec (.mtpb a) s = .next s) ∧
    (s.recCheck q ea 56 = none → s.ownOpen q ea 56 = false → ∃ t, exec (.mnest a) s = .next t ∧
      KNext (s.setMx q.unit { m with nest := s.words q ea 7 }) t q 0 0) ∧
    (s.recCheck q ea 64 = none → s.ownOpen q ea 64 = false → ∃ t, exec (.mtpb a) s = .next t ∧
      KNext (s.setMx q.unit { m with tpb := s.words q ea 8 }) t q 0 0) ∧
    (∀ x, m.queue.any (·.names rg.toNat) = false → s.cause14 q ea = none → ringOf q.unit ea (s.getK q b).toNat = some x →
      x.base = ea ∧ x.cap = (s.getK q b).toNat % 512 ∧ x.head = 0 ∧ x.tail = 0 ∧
      ∃ t, exec (.mringDef a b rg) s = .next t ∧ KNext (s.setMx q.unit { m with rings := sset m.rings rg.toNat x }) t q 0 0) ∧
    (r.cap ≠ 0 → ea < 2 ^ 32 → r.held + ea ≤ r.cap → ∃ t, exec (.mringPush a rg) s = .next t ∧
      KNext (s.setMx q.unit { m with rings := sset m.rings rg.toNat { r with tail := r.tail + ea } }) t q 0 0) ∧
    (r.cap ≠ 0 → ∃ t, exec (.mringRd d rg) s = .next t ∧ KNext s t q d (BitVec.ofNat 64 (r.head % 2 ^ 32 + r.tail % 2 ^ 32 * 2 ^ 32)))

/-- R229, R238, R244 to R246: an operation that passes its checks enters the queue with the next number, which k[D] receives, and with
what it captured; a full queue makes the instruction wait.
That a full queue is met before the operands are checked is log entry 36, the model's choice. -/
def Obligations.MatrixEnqueue : Prop :=
  ∀ (s : State) (d a b : BitVec 5) (prf : BitVec 8), s.cur.kind = .k →
    let q := s.cur
    let m := s.mx q.unit
    let x := (s.getK q a).toNat
    let k := (s.getK q b).toNat
    let enters (i : Instr) (kd : MxKind) : Prop :=
      ∃ t o, exec i s = .next t ∧ o.num = m.last + 1 ∧ o.kind = kd ∧ o.running = false ∧ o.step = 0 ∧ o.elems = [] ∧
        KNext ({ s with ids := s.ids + 1 }.setMx q.unit { m with last := m.last + 1, queue := m.queue ++ [o] }) t q d
          (BitVec.ofNat 64 (m.last + 1))
    (m.queue.length < 8 →
      (∀ steps, k < 2 ^ 32 → m.plan { m := x % 2 ^ 32, n := x / 2 ^ 32, k := k } = some steps →
        enters (.mgo d a b prf) (.go steps m.tpb prf.toNat)) ∧
      (∀ mask, enters (.mzero d mask) (.zero mask.toNat)) ∧
      (∀ ds za key rel ovf rm t, s.desc q x = .ok ds → ds.fmt.isFloat = true → (ovf = true → ds.fmt.isB8 = true) →
        enters (.mdrain d a b za key rel ovf rm t) (.drain t.toNat ((s.grpOf q).descWords x) rm.toNat ovf rel za
          (if key then some (s.getK q b) else none) (s.core q.unit).nkey)) ∧
      (∀ (f : BitVec 6) (src dst : BitVec 2), s.cause14 q x = none →
        x % (((fmtOfCode f.toNat).getD .f32).width / 8) = 0 →
        ownOrQuad q.unit x (96 * (((fmtOfCode f.toNat).getD .f32).width / 8)) = true → k < 3 →
        enters (.mscale d a b f src dst prf) (.scale src.toNat dst.toNat f.toNat x k prf.toNat (s.core q.unit).nkey))) ∧
    (m.queue.length ≥ 8 → ∀ mask, exec (.mgo d a b prf) s = .next s ∧ exec (.mzero d mask) s = .next s)

/-- R242, R243: MWAIT waits until MOC reaches k[A], then answers it, with bit 63 where an operation up to k[A] has faulted or was
cancelled, and reports each once; MSNAP writes the tile's 2048 elements to two ENGINE granules that no engine command touches, returns them
under REL, and answers SC and WOP. -/
def Obligations.MatrixWaits : Prop :=
  ∀ (s : State) (d a : BitVec 5) (rel : Bool) (tn : BitVec 2), s.cur.kind = .k →
    let q := s.cur
    let m := s.mx q.unit
    let n := (s.getK q a).toNat
    let x := m.tile tn.toNat
    (m.moc < n → exec (.mwait d a) s = .next s) ∧
    (n ≤ m.moc → ∃ t, exec (.mwait d a) s = .next t ∧
      KNext (s.setMx q.unit { m with bad := m.bad.filter fun i => decide (i > n) }) t q d
        (BitVec.ofNat 64 (m.moc % 2 ^ 63 + if ∃ i ∈ m.bad, i ≤ n then 2 ^ 63 else 0))) ∧
    (s.cause14 q n = none → n % 4096 = 0 → ownOrQuad q.unit n 8192 = true → s.isEngine n = true → s.isEngine (n + 4096) = true →
      s.latent = [] → s.bad = [] → (s.claims.any fun c => anyMeets (c.rd ++ c.wr) [((n : Int), 8192)]) = false →
      ∃ t m', exec (.msnap d a rel tn) s = .next t ∧
        KNext m' t q d (BitVec.ofNat 64 (x.sc % 2 ^ 32 + x.wop % 2 ^ 32 * 2 ^ 32)) ∧
        m' = { s with mem := m'.mem, transit := m'.transit, engine := m'.engine } ∧
        (∀ i j, i < 2048 → j < 4 → memGet t.mem (n + 4 * i + j) = BitVec.ofNat 8 (sget 0 x.val i / 256 ^ j)) ∧
        (∀ z, z < n ∨ z ≥ n + 8192 → memGet t.mem z = memGet s.mem z) ∧
        (rel = false → t.engine = s.engine) ∧ (rel = true → t.engine = (s.setOwner n 2 false).engine))

/-- R229, R234, R239 to R241, R244, R248: the head of a matrix queue starts when the range checkers clear it; a running MGO ends one step
after another; it retires once every step has ended, when both rings have given what the nest took, and MOC takes its number; a retiring
MZERO clears the tiles of its mask and no other. An engine event changes the engine of its own core, and what an operation writes.
Which bytes a drain presents to the range checkers is log entry 38, the model's choice. -/
def Obligations.MatrixEngine : Prop :=
  ∀ (s : State) (o : MxOp) (rest : List MxOp),
    let u := s.ev.i
    let m := s.mx u
    m.queue = o :: rest → s.ctxRuns u = true →
    (o.running = false → o.doomed = false → s.clear (m.claim u o) = true →
      exec .matrixOpStart s = .next (s.setMx u { m with queue := { o with running := true } :: rest })) ∧
    (o.running = false → o.doomed = true →
      exec .matrixOpStart s = .next (s.setMx u { m with queue := rest.map (fun x => { x with doomed := true }), moc := o.num,
                                                        bad := m.bad ++ [o.num] })) ∧
    (∀ steps tpb prf st fa fb, o.running = true → o.kind = .go steps tpb prf → steps[o.step]? = some st →
      tpbFmtA tpb = some fa → tpbFmtB tpb = some fb → s.entriesReady (m.ring (tpbRingA tpb)) (m.ring (tpbRingB tpb)) st = true →
      s.latent = [] → s.bad = [] → s.present (modOf u) = true →
      modOf ((m.ring (tpbRingA tpb)).entry ((m.ring (tpbRingA tpb)).head + st.oa) / 2 ^ 20) = modOf u →
      modOf ((m.ring (tpbRingB tpb)).entry ((m.ring (tpbRingB tpb)).head + st.ob) / 2 ^ 20) = modOf u →
      ∃ m' o', exec .mgoStepEnd s = .next (s.setMx u m') ∧ m'.queue = o' :: rest ∧ o'.step = o.step + 1 ∧ o'.num = o.num ∧
        m'.rings = m.rings ∧ m'.moc = m.moc ∧ m'.last = m.last ∧ (∀ n, n ≠ st.t → m'.tile n = m.tile n) ∧
        (∀ p, profileOf prf = some p → o.elems = [] → o.hidden = [] → st.kv % p.g = 0 → st.mv ≤ 32 → st.nv ≤ 64 →
          let w0 := (tpb.getD 0 0).toNat
          let x := m.tile st.t
          let y := m'.tile st.t
          let ra := m.ring (tpbRingA tpb)
          let rb := m.ring (tpbRingB tpb)
          let entry (r : Ring) (k : Nat) : Nat := leNat ((List.range r.size).map fun i => memGet s.mem (r.entry (r.head + k) + i))
          let av (i k : Nat) : Val := decode fa (codeAt fa.width (entry ra st.oa) (if ra.tr then k * 32 + i else i * 16 + k))
          let bv (k j : Nat) : Val := decode fb (codeAt fb.width (entry rb st.ob) (if rb.tr then j * 16 + k else k * 64 + j))
          let fresh := w0.testBit 18 = true ∧ st.kt = 0
          (∀ i j, i < st.mv → j < st.nv → sget 0 y.val (64 * i + j) =
            (frozenDot p (decode .f32 (if fresh then 0 else sget 0 x.val (64 * i + j)))
              ((List.range st.kv).map fun k => mulV (av i k) (bv k j))).1) ∧
          (∀ e, (st.mv ≤ e / 64 ∨ st.nv ≤ e % 64) → sget 0 y.val e = sget 0 x.val e) ∧
          y.mv = st.mv ∧ y.nv = st.nv ∧ y.sc = ((if fresh then 0 else x.sc) + 1) % 2 ^ 32 ∧ y.wop = o.num ∧
          y.key = tpb.getD 3 0 ∧ y.keyv = w0.testBit 20 ∧
          (w0.testBit 19 = false → y.map = CMap.nil) ∧
          (w0.testBit 19 = true → y.map.mode = .affine ∧ y.map.tag = (tpb.getD 2 0).setWidth 16 ∧ y.map.lw = 6 ∧ y.map.ew = .w32 ∧
            y.map.base = ⟨(tpb.getD 1 0).extractLsb' 0 32 + BitVec.ofNat 32 (32 * st.mt),
              (tpb.getD 1 0).extractLsb' 32 32 + BitVec.ofNat 32 (64 * st.nt), 0, 0⟩ ∧
            y.map.rs = ⟨1, 0, 0, 0⟩ ∧ y.map.qs = ⟨0, 1, 0, 0⟩))) ∧
    (∀ steps tpb prf fa fb, o.running = true → o.kind = .go steps tpb prf → tpbFmtA tpb = some fa → tpbFmtB tpb = some fb →
      o.step ≥ steps.length →
      ∃ m' fl, exec .matrixOpRetire s = .next ((s.setMx u m').orXst u fl) ∧ m'.queue = rest ∧ m'.moc = o.num ∧ m'.bad = m.bad ∧
        (∀ n, n ≠ tpbRingA tpb → n ≠ tpbRingB tpb → m'.ring n = m.ring n) ∧
        (tpbRingA tpb ≠ tpbRingB tpb →
          (m'.ring (tpbRingA tpb)).head = (m.ring (tpbRingA tpb)).head + goTake steps MStep.oa ∧
          (m'.ring (tpbRingB tpb)).head = (m.ring (tpbRingB tpb)).head + goTake steps MStep.ob)) ∧
    (∀ mask, o.running = true → o.kind = .zero mask →
      ∃ m', exec .matrixOpRetire s = .next (s.setMx u m') ∧ m'.queue = rest ∧ m'.moc = o.num ∧ m'.bad = m.bad ∧ m'.rings = m.rings ∧
        ∀ n, n < 4 → m'.tile n = if mask / 2 ^ n % 2 = 1 then Tile.init else m.tile n) ∧
    (∀ tn ws rm ovf rel za key nkey d l, o.running = true → o.kind = .drain tn ws rm ovf rel za key nkey → descOf ws = some d →
      d.gid = 0 → s.latent = [] → s.bad = [] →
      s.drainList u (m.tile tn) d ((rmOf rm).getD .rne) ovf (key.getD (if (m.tile tn).keyv then (m.tile tn).key else nkey)) = .ok l →
      s.allEngine ((lastCodes l).map fun x => ((x.1 : Int), d.size)) = true →
      ∃ t, exec .matrixOpRetire s = .next t ∧ (t.mx u).queue = rest ∧ (t.mx u).moc = o.num ∧
        t.mem = memWrite s.mem ((lastCodes l).flatMap fun x => cellsOf x.1 (leBytes d.size x.2)) ∧
        (t.mx u).tile tn = (if za then Tile.init else m.tile tn) ∧ (∀ n, n ≠ tn → (t.mx u).tile n = m.tile n) ∧
        (rel = false → t.engine = s.engine)) ∧
    (∀ src dst sf ga rm prf nkey, o.running = true → o.kind = .scale src dst sf ga rm prf nkey → rm ≠ 2 → s.latent = [] → s.bad = [] →
      s.present (modOf u) = true → modOf (ga / 2 ^ 20) = modOf u →
      s.allEngine [((ga : Int), 96 * ((fmtOfCode sf).getD .f32).width / 8)] = true →
      ∃ t, exec .matrixOpRetire s = .next t ∧ (t.mx u).queue = rest ∧ (t.mx u).moc = o.num ∧ t.mem = s.mem ∧
        (let f := (fmtOfCode sf).getD .f32
         let sc (i : Nat) : Val := decode f (codeAt f.width (leNat ((List.range (96 * f.width / 8)).map fun n => memGet s.mem (ga + n))) i)
         let x := m.tile src
         let y := (t.mx u).tile dst
         y.sc = ((m.tile dst).sc + x.sc) % 2 ^ 32 ∧ y.wop = o.num ∧ y.map = x.map ∧ y.mv = x.mv ∧ y.nv = x.nv ∧ y.key = x.key ∧ y.keyv = x.keyv ∧
         (x.mv ≤ 32 → x.nv ≤ 64 → ∀ e, sget 0 y.val e =
           if e / 64 < x.mv ∧ e % 64 < x.nv then
             (convert .f32 (scaleAcc (decode .f32 (sget 0 (m.tile dst).val e)) (decode .f32 (sget 0 x.val e))
               (mulV (sc (e / 64)) (sc (32 + e % 64))).1).1 ((rmOf rm).getD .rne) false 0).1
           else sget 0 (m.tile dst).val e)) ∧
        ∀ n, n ≠ dst → (t.mx u).tile n = m.tile n)

/-- R249 to R253: IXDEF holds the words of its record; IXGO queues a walk with the next number; IXWAIT waits until IOC reaches k[A], then
answers it. The selection of a mask or a relation holds the blocks with a selected element, each once, in row-major order; that of a fibre takes its entries in the region, repeats of the last
block left out; the output is the walk's part, padded with void entries and cut at its capacity, and its count word. A walk that runs takes its selection; a walk of kind REL, cleared and retiring on ENGINE granules without errors, writes its
list and its count word, leaves the queue, and IOC takes its number. That IXDEF waits while a store of its stream to the record is in flight is log entry 86,
the model's choice. -/
def Obligations.IndexEngine : Prop :=
  ∀ (s : State) (d a b : BitVec 5) (rel : Bool),
    let q := s.cur
    let x := s.ix q.unit
    let v := (s.getK q a).toNat
    let w := (s.getK q b).toNat
    (q.kind = .k →
      (s.recCheck q v 64 = none → s.ownOpen q v 64 = true → exec (.ixdef a) s = .next s) ∧
      (s.recCheck q v 64 = none → s.ownOpen q v 64 = false → ∃ t, exec (.ixdef a) s = .next t ∧
        KNext (s.setIx q.unit { x with desc := s.words q v 8 }) t q 0 0) ∧
      (x.queue.length < 8 → walkOk x.desc v w = true → ∃ t k, exec (.ixgo d a b rel) s = .next t ∧
        k.num = x.last + 1 ∧ k.desc = x.desc ∧ k.list = v ∧ k.count = w ∧ k.rel = rel ∧ k.sel = none ∧
        KNext ({ s with ids := s.ids + 1 }.setIx q.unit { x with last := x.last + 1, queue := x.queue ++ [k] }) t q d
          (BitVec.ofNat 64 (x.last + 1))) ∧
      (x.queue.length ≥ 8 → exec (.ixgo d a b rel) s = .next s) ∧
      (x.ioc < v → exec (.ixwait d a) s = .next s) ∧
      (v ≤ x.ioc → ∃ t, exec (.ixwait d a) s = .next t ∧
        KNext (s.setIx q.unit { x with bad := x.bad.filter fun i => decide (i > v) }) t q d
          (BitVec.ofNat 64 (x.ioc % 2 ^ 63 + if ∃ i ∈ x.bad, i ≤ v then 2 ^ 63 else 0)))) ∧
    (∀ (ws : List Word) (mask : Nat),
      let w3 := (ws.getD 3 0).toNat
      let w4 := (ws.getD 4 0).toNat
      let rel (row col : Int) : Bool :=
        let v := ((ws.getD 4 0).extractLsb' 32 32).toInt + ((ws.getD 4 0).extractLsb' 0 3).toInt * row + ((ws.getD 4 0).extractLsb' 3 3).toInt * col
        ([decide (v < 0), decide (v ≤ 0), decide (v = 0), decide (v ≠ 0), decide (v ≥ 0), decide (v > 0)])[w4 / 64 % 8]?.getD false
      let row0 := ((ws.getD 1 0).extractLsb' 0 32).toInt
      let col0 := ((ws.getD 1 0).extractLsb' 32 32).toInt
      let nr := (ws.getD 2 0).toNat % 2 ^ 32
      let nc := (ws.getD 2 0).toNat / 2 ^ 32
      let br := 2 ^ (w3 / 2 ^ 8 % 16)
      let bc := 2 ^ (w3 / 2 ^ 12 % 16)
      let pick (i j : Nat) : Prop := if w3 % 4 = 0 then mask.testBit (i * nc + j) = true ∧ (w3.testBit 2 = true → rel (row0 + i) (col0 + j) = true)
        else rel (row0 + i) (col0 + j) = true
      let blk (i j : Nat) : Int × Int := (row0 + (i / br * br : Nat), col0 + (j / bc * bc : Nat))
      (∀ b, b ∈ wdSelect ws mask ↔ ∃ i j, i < nr ∧ j < nc ∧ pick i j ∧ b = blk i j) ∧
      ((wdSelect ws mask).Pairwise fun x y => x.1 < y.1 ∨ (x.1 = y.1 ∧ x.2 < y.2)) ∧
      (∀ fa o0 o1 idx x,
        let l := wdFibre ws fa o0 o1 idx
        let row : Int := if fa = 0 then x else o0
        let col : Int := if fa = 0 then o1 else x
        (wdFibre ws fa o0 o1 [] = []) ∧
        (∀ i j : Nat, i < nr → j < nc → row = row0 + i → col = col0 + j → (w3.testBit 2 = true → rel row col = true) →
          wdFibre ws fa o0 o1 (idx ++ [x]) = if l.getLast? = some (blk i j) then l else l ++ [blk i j]) ∧
        (row < row0 ∨ row ≥ row0 + nr ∨ col < col0 ∨ col ≥ col0 + nc ∨ (w3.testBit 2 = true ∧ rel row col = false) →
          wdFibre ws fa o0 o1 (idx ++ [x]) = l)) ∧
      (∀ sel : List (Int × Int),
        let out := wdOutput ws sel
        let parts := w3 / 2 ^ 20 % 256 + 1
        let part := w3 / 2 ^ 28 % 256
        let lo := part * sel.length / parts
        let n := (part + 1) * sel.length / parts - lo
        let room := (ws.getD 5 0).toNat % 2 ^ 32
        let coord (v : Int) : List Byte := leBytes 4 (v % 2 ^ 32).toNat
        let entry (e : Int × Int) : List Byte :=
          if w3.testBit 3 then (if w3.testBit 4 then coord e.2 else coord e.1) else coord e.1 ++ coord e.2
        let size := if w3.testBit 3 then 4 else 8
        part < parts → ∃ full, full % 2 ^ (w3 / 2 ^ 16 % 16) = 0 ∧ n ≤ full ∧ full < n + 2 ^ (w3 / 2 ^ 16 % 16) ∧
          out.1.length = size * min full room ∧
          (∀ e, e < min full room → (out.1.drop (size * e)).take size =
            entry (if e < n then sel.getD (lo + e) (0, 0) else (-2 ^ 31, -2 ^ 31))) ∧
          out.2 = n + sel.length % 2 ^ 31 * 2 ^ 32 + if full > room then 2 ^ 63 else 0)) ∧
    (∀ (k : Walk) (rest : List Walk),
      let u := s.ev.i
      let y := s.ix u
      y.queue = k :: rest → s.ctxMoves u = true → k.doomed = false →
      (wdKind k.desc = 1 → s.walkRead u k.desc = some (s, .ok (wdSelect k.desc 0))) ∧
      (∀ s' l, k.sel = none → s.clear (s.walkClaim k) = true → s.walkRead u k.desc = some (s', .ok l) →
        exec .indexWalkRun s = .next (s'.setIx u { y with queue := { k with sel := some l } :: rest })) ∧
      (∀ sel, k.sel = some sel → s.latent = [] → s.bad = [] →
        let out := wdOutput k.desc sel
        let rs : List Range := [((k.list : Int), out.1.length), ((k.count : Int), 8)]
        (∀ r ∈ rs, s.walkCause u r.1.toNat r.2 1 = none) → s.allEngine rs = true →
        let w := s.write (cellsOf k.list out.1 ++ cellsOf k.count (leBytes 8 out.2))
        let back : State := rs.foldl (fun (z : State) (r : Range) =>
          (granules r.1.toNat r.2).foldl (fun (z : State) (g : Nat) => z.setOwner (g * 4096) 1 false) z) s
        exec .indexWalkRetire s = .next (({ w with engine := if k.rel then back.engine else s.engine }).setIx u
          { y with queue := rest, ioc := k.num })))

-- Traps and the frame (spec 13) ---------------------------------------------------------------------------------------------------------

/-- R312, R313, R315 to R317, R319: a trap of sequencer `q` in normal mode with a handler installed. KSAV takes k31 and k31 takes SCR; CAUSE
holds the code in the field of the trapping stream; each resume address is that of its stream, the trapping one's is `res`; ADDR and INFO are
the trap's; fields 10 and 11 take the oldest engine fault record, which leaves the queue; STEP clears; K goes on at TVEC in handler mode.
Nothing else of the machine changes. R316: with TVEC = 0, or in handler mode, a trap leaves the core stopped and posts a TRAP event with the ASID and the logical index. The
frame holds the new trap, and of a trap of K in a handler KPC holds its address. What such a stop keeps and writes of KSAV, `k31` and the frame is log entry 17, the model's choice. R313: a
trap of another stream in the cycle of the stop joins its frame, in CAUSE and its resume address; ADDR, INFO and the code of a TRAP event that the stop posted (R346) are
those of the first in the order K, L, X, S. Which turns fall in that cycle is log entry 81, the model's choice. -/
def Obligations.TrapEntry : Prop :=
  (∀ (s : State) (q : SeqId) (tr : Trap) (res : Word),
      (q.unit % 8 < 4 ↔ q.kind ≠ .qf ∧ q.kind ≠ .qu) →
      let c := s.ctl q
      let k := s.core q.unit
      c.mode = .normal → c.wait = false → c.frame.tvec ≠ 0 →
      let t := s.stopAt q tr res
      let d := t.ctl q
      let core := decide (q.unit % 8 < 4)
      let n := strmNo q.kind
      t = { s with ctls := t.ctls } ∧
      (∀ r, ctlKey r ≠ ctlKey q → t.ctl r = s.ctl r) ∧
      d = { c with k := d.k, pos := posOfResume c.frame.tvec, frame := d.frame, mode := .handler, only := none, stepDone := false
                   faults := c.faults.drop 1, joint := if core ∧ c.only = none then some (s.clock, c.pos, none) else none
                   brkPass := if tr.code = 18 then sset c.brkPass n res.toNat else c.brkPass } ∧
      (∀ i, sget 0 d.k i = if i = 31 then c.frame.scr else sget 0 c.k i) ∧
      d.frame.ksav = sget 0 c.k 31 ∧ d.frame.cause = BitVec.ofNat 64 (tr.code * 2 ^ (16 * n)) ∧
      d.frame.addr = BitVec.ofNat 64 tr.addr ∧ d.frame.info = BitVec.ofNat 64 tr.info ∧
      d.frame.kpc = (if n = 0 then res else c.pos.resumeWord) ∧
      d.frame.lpc = (if core then if n = 1 then res else k.lpos.resumeWord else 0) ∧
      d.frame.xpc = (if core then if n = 2 then res else k.xpos.resumeWord else 0) ∧
      d.frame.spc = (if core then if n = 3 then res else k.spos.resumeWord else 0) ∧
      (d.frame.xl, d.frame.xr) = (if core then k.loopWords else (0, 0)) ∧
      (c.faults = [] → d.frame.eng = 0 ∧ d.frame.enga = 0) ∧
      (∀ r rs, c.faults = r :: rs → d.frame.enga = BitVec.ofNat 64 r.addr ∧ d.frame.eng =
        BitVec.ofNat 64 (r.num % 2 ^ 40 * 2 ^ 24 + r.barge % 16 * 2 ^ 20 + r.kind % 16 * 2 ^ 16 + r.code % 2 ^ 16)) ∧
      d.frame.tvec = c.frame.tvec ∧ d.frame.scr = c.frame.scr ∧ d.frame.step = 0) ∧
  (∀ (s : State) (q : SeqId) (tr : Trap) (res : Word), isCtl q.kind = true →
      (q.unit % 8 < 4 ↔ q.kind = .k) →
      let c := s.ctl q
      c.mode ≠ .normal ∨ c.frame.tvec = 0 → c.wait = false →
      ∃ m : State, s.stopAt q tr res = m.post (modOf q.unit) 0x11 (some (s.asidOf q)) (srcOf q) tr.code (s.logical q) ∧
        m = { s with ctls := m.ctls } ∧ (∀ r, ctlKey r ≠ ctlKey q → m.ctl r = s.ctl r) ∧
        (m.ctl q).mode = .stopped ∧ (m.ctl q).pos = c.pos ∧
        (m.ctl q).frame.cause = BitVec.ofNat 64 tr.code ∧ (m.ctl q).frame.kpc = res ∧
        (m.ctl q).frame.addr = BitVec.ofNat 64 tr.addr ∧ (m.ctl q).frame.info = BitVec.ofNat 64 tr.info ∧
        (c.mode ≠ .normal → (m.ctl q).frame.ksav = c.frame.ksav ∧ ∀ i, sget 0 (m.ctl q).k i = sget 0 c.k i)) ∧
  (∀ (s : State) (q : SeqId) (tr : Trap) (res : Word), q.kind ≠ .qf → q.kind ≠ .qu → 0 < tr.code → tr.code < 2 ^ 16 →
      let c := s.ctl q
      let n := strmNo q.kind
      let code (f : Frame) (i : Nat) : Nat := field f.cause.toNat (16 * i) 16
      let t := s.join q ((s.unstopped q).stopAt q tr res)
      let f := (t.ctl q).frame
      let m := match c.joint with
        | some (_, _, some k) => if ∀ i, i < n → code c.frame i = 0 then s.recode (modOf q.unit) (srcOf { q with kind := .k }) k tr.code else s
        | _ => s
      s.joins q = true → c.wait = false →
      t = { m with ctls := t.ctls } ∧ (∀ r, ctlKey r ≠ ctlKey q → t.ctl r = s.ctl r) ∧
      (t.ctl q).mode = c.mode ∧ (t.ctl q).k = c.k ∧ (t.ctl q).pos = c.pos ∧ f.ksav = c.frame.ksav ∧ f.tvec = c.frame.tvec ∧
      (∀ i, i < 4 → code f i = if i = n then tr.code else code c.frame i) ∧
      (∀ i, i < 4 → f.pcOf i = if i = n then res else c.frame.pcOf i) ∧
      ((∀ i, i < n → code c.frame i = 0) → f.addr = BitVec.ofNat 64 tr.addr ∧ f.info = BitVec.ofNat 64 tr.info) ∧
      ((∃ i, i < n ∧ code c.frame i ≠ 0) → f.addr = c.frame.addr ∧ f.info = c.frame.info))

/-- R315, R317, R318, R320, R327: ERET in handler mode, and the host's resume of a stopped core: k31 takes KSAV, the mode is normal, and
every stream goes on at the resume address of its field; a STEP mask lets its one stream run. Out of handler mode ERET is ILLEGAL_INST. What a load that is issued
again keeps, that a handler which skips a body instruction passes its place of the loop, and that a held VQNT takes its SCALE from INFO only where no trap of K or L shares the
frame, are log entries 19, 95 and 88, the model's choices. -/
def Obligations.TrapReturn : Prop :=
  ∀ (s : State) (q : SeqId), isCtl q.kind = true → (q.unit % 8 < 4 ↔ q.kind = .k) →
    let c := s.ctl q
    let back (s t : State) : Prop :=
      let c := s.ctl q
      let f := c.frame
      let k := s.core q.unit
      t = { s with ctls := t.ctls, cores := t.cores } ∧ (∀ r, ctlKey r ≠ ctlKey q → t.ctl r = s.ctl r) ∧
      (∀ u, u ≠ q.unit → t.core u = s.core u) ∧
      t.ctl q = { c with k := (t.ctl q).k, mode := .normal, pos := posOfResume f.kpc, only := (t.ctl q).only, brkPass := (t.ctl q).brkPass,
                         stepDone := (t.ctl q).stepDone, joint := none } ∧
      (∀ i, sget 0 (t.ctl q).k i = if i = 31 then f.ksav else sget 0 c.k i) ∧
      (f.step = 0 → (t.ctl q).only = none ∧ (t.ctl q).stepDone = false) ∧
      (∀ n, n < 4 → f.step = BitVec.ofNat 64 (2 ^ n) → (t.ctl q).only = some n ∧ ((t.ctl q).stepDone = true ↔ f.pcOf n = 0)) ∧
      (∀ n a, sfind c.brkPass n = some a → a = (f.pcOf n).toNat → sfind (t.ctl q).brkPass n = some a) ∧
      (∀ n a, sfind (t.ctl q).brkPass n = some a → a = (f.pcOf n).toNat ∧ (n, a) ∈ c.brkPass) ∧
      (q.kind ≠ .k → t.core q.unit = k) ∧
      (q.kind = .k → k.lheld = none →
        let skipped := k.loop.act = true ∧ k.loop.place < k.loop.ns * k.loop.sl ∧ ∃ a, k.xpos = .at a ∧ f.xpc = BitVec.ofNat 64 (a ||| 1)
        let again := field f.cause.toNat 32 16 = 14 ∧ field f.cause.toNat 0 32 = 0
        ∃ lp pd, t.core q.unit = { k with lpos := posOfResume f.lpc, xpos := posOfResume f.xpc, spos := posOfResume f.spc, xsync := s.tick,
                                           lq := k.lq.map LEntry.again, loop := lp, pend := pd } ∧
          (skipped → lp = { k.loop with place := k.loop.place + 1 }) ∧ (¬skipped → lp = k.loop) ∧
          (again → pd = rerunWith f.info.toNat k.pend) ∧ (¬again → pd = k.pend))
    (s.cur = q → c.mode = .handler → ∃ t, exec .eret s = .next t ∧ back s t) ∧
    (s.cur = q → c.mode ≠ .handler → exec .eret s = .next (s.trap q { code := 1 })) ∧
    (s.ev.q = q → c.mode = .stopped →
      ∃ t, exec .hostResumeCore s = .next t ∧ back (s.setCtl q { c with frame := c.frame.writes s.ev.fields }) t)

/-- R313, R317, R318, R327: what TFRD reads and what TFWR writes, in handler mode, and outside it for TVEC and SCR alone; of STEP the low four bits count and of INFO under GAUGE_OVERFLOW all but the low three, the rest is reserved; MQRD reads the mend queue's two words, X entries first and then those of
L and S, and MQWR writes SQ of an X entry; SWTRAP traps with AFTER = 1 and its operand in INFO. R327: YIELD reads the request flag, CTXSTAT its four items; BRKSET and BRKCLR write a breakpoint; out of their ranges they raise
OPND_RANGE. -/
def Obligations.FrameAndContextItems : Prop :=
  (∀ (s : State) (d a b : BitVec 5), isCtl s.cur.kind = true →
      let q := s.cur
      let c := s.ctl q
      let f := c.frame
      let n := (s.getK q a).toNat
      let v := s.getK q b
      let k := s.core q.unit
      let set (f : Frame) : State := s.setCtl q { c with frame := f }
      let slot (w : Word) : Prop := w = 0 ∨ w.toNat / 4 % 8 ≠ 0
      (c.mode = .handler → n < 16 → ∃ t, exec (.tfrd d a) s = .next t ∧ KNext s t q d ([f.cause, f.kpc, f.lpc, f.xpc, f.spc, f.addr, f.info,
        BitVec.ofNat 64 (s.mqn q), f.xl, f.xr, f.eng, f.enga, f.ksav, f.tvec, f.scr, f.step].getD n 0)) ∧
      (c.mode = .handler ∨ n = 13 ∨ n = 14 → ∀ p ∈ [
        (1, decide (slot v ∧ (f.kpc = 0 ↔ v = 0)), { f with kpc := v }), (2, decide (slot v ∧ (f.lpc = 0 ↔ v = 0)), { f with lpc := v }),
        (3, decide (slot v ∧ (f.xpc = 0 ↔ v = 0)), { f with xpc := v }), (4, decide (slot v ∧ (f.spc = 0 ↔ v = 0)), { f with spc := v }),
        (6, decide (field f.cause.toNat 32 16 = 14), { f with info := BitVec.ofNat 64 (v.toNat / 8 * 8) }), (12, true, { f with ksav := v }),
        (13, decide (slot v), { f with tvec := v }), (14, true, { f with scr := v }),
        (15, decide (v.toNat % 16 = 0 ∨ v.toNat % 16 = 1 ∨ v.toNat % 16 = 2 ∨ v.toNat % 16 = 4 ∨ v.toNat % 16 = 8),
          { f with step := BitVec.ofNat 64 (v.toNat % 16) })], n = p.1 →
        (p.2.1 = true → ∃ t, exec (.tfwr a b) s = .next t ∧ KNext (set p.2.2) t q 0 0) ∧
        (p.2.1 = false → exec (.tfwr a b) s = .next (s.trap q { code := 6 }))) ∧
      (c.mode = .handler → n = 0 ∨ n = 5 ∨ (7 ≤ n ∧ n ≤ 11) ∨ n ≥ 16 → exec (.tfwr a b) s = .next (s.trap q { code := 6 })) ∧
      (c.mode ≠ .handler → (n = 13 ∨ n = 14 → ∃ t, exec (.tfrd d a) s = .next t ∧ KNext s t q d (if n = 13 then f.tvec else f.scr)) ∧
        (n ≠ 13 ∧ n ≠ 14 → exec (.tfrd d a) s = .next (s.trap q { code := 6 }) ∧ exec (.tfwr a b) s = .next (s.trap q { code := 6 }))) ∧
      (c.mode = .handler → n < 256 → n / 2 < s.mqn q → ∃ t, exec (.mqrd d a) s = .next t ∧
        KNext s t q d (BitVec.ofNat 64 (k.mendWord (n / 2) (n % 2 == 1)))) ∧
      (c.mode = .handler → n ≥ 256 ∨ n / 2 ≥ s.mqn q → exec (.mqrd d a) s = .next (s.trap q { code := 6 })) ∧
      (c.mode = .handler → q.kind = .k → k.lheld = none → n < 256 →
        let held := ((k.lq.filter fun e => !e.present).map fun e => (1, e.pc)) ++ k.spend.map fun p => (3, p.pc)
        (∀ p, k.pend[n / 2]? = some p → ∃ t, exec (.mqrd d a) s = .next t ∧ KNext s t q d (BitVec.ofNat 64 (if n % 2 = 1 then p.pc
          else (p.cyc - k.xnow) % 256 * 16 + 2 * 4 + (if p.rerun.isSome then 2 else 0) + if p.sq then 1 else 0))) ∧
        (∀ x, k.pend.length ≤ n / 2 → held[n / 2 - k.pend.length]? = some x → ∃ t, exec (.mqrd d a) s = .next t ∧
          KNext s t q d (BitVec.ofNat 64 (if n % 2 = 1 then x.2 else x.1 * 4))) ∧
        (n / 2 ≥ k.pend.length + held.length → exec (.mqrd d a) s = .next (s.trap q { code := 6 }))) ∧
      (c.mode = .handler → n ≥ 256 ∨ n % 2 = 1 ∨ v.toNat ≥ 2 ∨ q.kind ≠ .k ∨ n / 2 ≥ k.pend.length →
        exec (.mqwr a b) s = .next (s.trap q { code := 6 })) ∧
      (c.mode = .handler → q.kind = .k → n < 256 → n % 2 = 0 → v.toNat < 2 → n / 2 < k.pend.length →
        ∃ t p, exec (.mqwr a b) s = .next t ∧ KNext (s.setCore q.unit { k with pend := p }) t q 0 0 ∧ p.length = k.pend.length ∧
          ∀ i x, k.pend[i]? = some x → p[i]? = some (if i = n / 2 then { x with sq := v.toNat == 1 } else x)) ∧
      (c.mode ≠ .handler → exec (.mqrd d a) s = .next (s.trap q { code := 1 }) ∧
        exec (.mqwr a b) s = .next (s.trap q { code := 1 })) ∧
      exec (.swtrap a) s = .next (s.trapAt q { code := 17, info := n } (BitVec.ofNat 64 (s.pc q ||| 1)))) ∧
  (∀ (s : State) (d a b : BitVec 5), isCtl s.cur.kind = true →
      let q := s.cur
      let c := s.ctl q
      let x := (s.getK q a).toNat
      let n := (s.getK q b).toNat
      let opnd := Host.Outcome.next (s.trap q { code := 6 })
      (∃ t, exec (.yield d) s = .next t ∧ KNext s t q d (if c.req then 1 else 0)) ∧
      (∀ p ∈ [(0, s.asidOf q), (1, (s.ctxOf q).st.code), (2, if (s.ctxOf q).req then 1 else 0), (3, (s.ctxOf q).saves)], x = p.1 →
        ∃ t, exec (.ctxstat d a) s = .next t ∧ KNext s t q d (BitVec.ofNat 64 p.2)) ∧
      (x ≥ 4 → exec (.ctxstat d a) s = opnd) ∧
      (x % 4 = 0 → x / 4 % 8 ≠ 0 → n < 4 → ∃ t, exec (.brkset a b) s = .next t ∧ KNext (s.setCtl q { c with brk := sset c.brk n x }) t q 0 0) ∧
      (x % 4 ≠ 0 ∨ x / 4 % 8 = 0 ∨ n ≥ 4 → exec (.brkset a b) s = opnd) ∧
      (x < 4 → ∃ t, exec (.brkclr a) s = .next t ∧ KNext (s.setCtl q { c with brk := sset c.brk x 0 }) t q 0 0) ∧
      (x ≥ 4 → exec (.brkclr a) s = opnd))

/-- R319, R320, R327: a control sequencer that stands at a slot in normal mode with an engine fault waiting traps with ENGINE, before the
instruction; a stream of any unit that stands at a breakpoint traps with BREAK, AFTER = 0, unless it may pass it this once; a stepped stream of any unit that has retired its
instruction traps with STEP, its resume address after it (of X, once the writes due before its cycle are made). That such a stop falls only where the stream stands at a slot is log
entry 20, and what a stepped stream has in flight log entry 22: the model's choices. -/
def Obligations.Stops : Prop :=
  ∀ (s : State) (a : Nat),
    let q := s.cur
    let c := s.ctl q
    (isCtl q.kind = true → c.mode = .normal → c.only = none → c.stepDone = false → c.faults ≠ [] → s.pos q = .at a →
      exec .engineTrap s = .next (s.trapAt q { code := 20 } (BitVec.ofNat 64 a))) ∧
    (c.mode = .normal → c.only = none → c.stepDone = false → s.pos q = .at a → (∃ i, i < 4 ∧ sget 0 c.brk i = a) →
      (sfind c.brkPass (strmNo q.kind) ≠ some a →
        (q.kind ≠ .x → exec .breakStop s = .next (s.trapAt q { code := 18 } (BitVec.ofNat 64 a))) ∧
        (q.kind = .x → exec .breakStop s = .next (s.xTrapAt q { code := 18 } (BitVec.ofNat 64 a)))) ∧
      (sfind c.brkPass (strmNo q.kind) = some a → exec .breakStop s = .next s)) ∧
    (isCtl q.kind = true → c.mode = .handler → s.pos q = .at a → (∃ i, i < 4 ∧ sget 0 c.brk i = a) →
      exec .breakStop s = .next (s.trapAt q { code := 18 } (BitVec.ofNat 64 a))) ∧
    (isCtl q.kind = true → c.only = some 0 → c.stepDone = true →
      exec .stepStop s = .next (s.stopAt q { code := 19 } (s.pos q).resumeWord)) ∧
    (q.kind ≠ .qf → q.kind ≠ .qu → c.stepDone = true →
      let x : SeqId := { q with kind := .x }
      let m := s.landX q.unit (s.core q.unit).xret false
      (c.only = some 1 → exec .stepStop s = .next (s.stopAt { q with kind := .l } { code := 19 } (s.pos { q with kind := .l }).resumeWord)) ∧
      (c.only = some 3 → exec .stepStop s = .next (s.stopAt { q with kind := .s } { code := 19 } (s.pos { q with kind := .s }).resumeWord)) ∧
      (c.only = some 2 → s.pos x = .ended → exec .stepStop s = .next (s.stopAt x { code := 19 } (s.pos x).resumeWord)) ∧
      (c.only = some 2 → s.pos x ≠ .ended → exec .stepStop s = .next (m.stopAt x { code := 19 } (m.pos x).resumeWord)))

-- Contexts (spec 13, 14) ------------------------------------------------------------------------------------------------------------------

/-- R310, R311, R381: CTXNEW with a descriptor within its limits and a FREE ASID takes the context through BUILDING, which holds the
descriptor's fields, to READY with its gauge table and save area mapped as firmware pages; where either does not fit it is FREE again with the cause of the build; one that breaks a
limit, or names an ASID that is not FREE, is refused with a CTXSTATE event and takes none. That a bad descriptor is refused with RCAUSE 3 whatever the state of the ASID it names, and what makes a table
fit, is log entry 45, the model's choice. -/
def Obligations.ContextCreation : Prop :=
  ∀ (s : State) (w : List Word),
    let md := s.ev.md
    let q := s.ev.i
    s.chosen md = some (.queue q) → s.headFate md q = .ready w → recKind w = 1 →
    let r := s.startRec md q w
    let d := wordsOfNat (memNat r.2.mem (hostKey md (recOp w 1)) 64) 8
    let n (i : Nat) : Nat := (d.getD i 0).toNat
    let ok := n 0 < 2048 ∧ n 1 % 2 ^ 16 = 0 ∧ 4 ≤ n 2 ∧ n 2 ≤ 20 ∧ n 3 % 2 ^ 21 = 0 ∧ n 4 < 2 ^ 32 ∧ n 5 = 0 ∧ n 6 = 0 ∧ n 7 = 0
    let c := r.2.ctx md (n 0)
    (ok → c.st = .free → c.pages = [] → c.waiting = [] →
      let e := r.2.enterCtx md (n 0) .building 0 0
      let b := e.setCtx md (n 0) { e.ctx md (n 0) with gtab := n 1, gtsz := n 2, save := n 3, saveq := n 4 }
      let g := b.mapFw md (n 0) (n 1) 0 0 (gaugePages (n 2)) false
      let v := g.mapFw md (n 0) (n 3) 1 1 (2 * n 4) false
      b.fwFits md (n 0) (n 1) 0 0 (gaugePages (n 2)) = true → g.fwFits md (n 0) (n 3) 1 1 (2 * n 4) = true →
      ∃ t, exec .ctxnew s = .next (t.complete md r.1) ∧ t = v.enterCtx md (n 0) .ready 0 0 ∧ (t.ctx md (n 0)).st = .ready ∧
        (t.ctx md (n 0)).gtab = n 1 ∧ (t.ctx md (n 0)).gtsz = n 2 ∧ (t.ctx md (n 0)).save = n 3 ∧ (t.ctx md (n 0)).saveq = n 4) ∧
    (ok → c.st = .free →
      let e := r.2.enterCtx md (n 0) .building 0 0
      let b := e.setCtx md (n 0) { e.ctx md (n 0) with gtab := n 1, gtsz := n 2, save := n 3, saveq := n 4 }
      let g := b.mapFw md (n 0) (n 1) 0 0 (gaugePages (n 2)) false
      (b.fwFits md (n 0) (n 1) 0 0 (gaugePages (n 2)) = false →
        exec .ctxnew s = .next (((b.enterCtx md (n 0) .free 1 0).setCtx md (n 0) Ctx.init).complete md r.1)) ∧
      (b.fwFits md (n 0) (n 1) 0 0 (gaugePages (n 2)) = true → g.fwFits md (n 0) (n 3) 1 1 (2 * n 4) = false →
        exec .ctxnew s = .next (((g.enterCtx md (n 0) .free 2 0).setCtx md (n 0) Ctx.init).complete md r.1))) ∧
    (¬ok → exec .ctxnew s = .next ((r.2.post md 0x10 (some (n 0 % 2048)) (srcHub 0) (r.2.ctx md (n 0 % 2048)).st.code
      (1 + 3 * 2 ^ 8 + 2 ^ 63)).complete md r.1)) ∧
    (ok → c.st ≠ .free → exec .ctxnew s = .next ((r.2.post md 0x10 (some (n 0)) (srcHub 0) c.st.code (1 + 4 * 2 ^ 8 + 2 ^ 63)).complete md r.1))

/-- R311, R321, R323, R331: PREEMPT of a RUNNING context whose groups fit its save area makes it YIELDING, with the request flag raised at
every control sequencer of its groups; of groups that do not fit, and of READY and SAVED contexts, it changes no state; of a YIELDING one it waits for the save; in other states it is refused. RESUME of a SAVED
context restores it, each quad, core and scratchpad as it was saved but for where the streams stand, or waits for the quads it left. R311, R322, R323: a YIELDING context whose sequencers are all quiescent and whose barges run nothing, or whose time limit has passed, once the barges have finished, is saved: it is SAVED with one
more completed save, no request, and one slot of the save area for each quad of its groups; those quads are free, with everything they held
as before any group.
Which requests are refused, when a sequencer is quiescent, and that a saved slot is kept beside the page it stands for, are log entries 45, 47 and 48,
the model's choices. -/
def Obligations.Preemption : Prop :=
  (∀ (s : State) (w : List Word),
      let md := s.ev.md
      let q := s.ev.i
      let r := s.startRec md q w
      let asid := recOp w 1
      let c := r.2.ctx md asid
      let quads := (r.2.running md asid).foldl (fun a g => a + g.2.nq) 0
      s.chosen md = some (.queue q) → s.headFate md q = .ready w →
      (recKind w = 3 →
        (c.st = .ready ∨ c.st = .saved → exec .preempt s = .next (r.2.complete md r.1)) ∧
        (c.st = .yielding → exec .preempt s = .next (r.2.setCtx md asid { c with waiting := c.waiting ++ [(r.1, .saved)] })) ∧
        (c.st = .free ∨ c.st = .building ∨ c.st = .killing ∨ c.st = .dead →
          exec .preempt s = .next ((r.2.ctxRefuse md asid 3 1).complete md r.1)) ∧
        (c.st = .running → quads > c.saveq → exec .preempt s = .next ((r.2.ctxRefuse md asid 3 2).complete md r.1)) ∧
        (c.st = .running → quads ≤ c.saveq → ∃ t, exec .preempt s = .next t ∧ (t.ctx md asid).st = .yielding ∧
          (t.ctx md asid).pages = c.pages ∧ (t.ctx md asid).limit = (if recOp w 2 = 0 then 0 else r.2.clock + recOp w 2) ∧ (t.ctx md asid).waiting = (c.waiting ++ [(r.1, CtxState.saved)]).filter (fun x => x.2 != CtxState.yielding) ∧
          t.cores = r.2.cores ∧ t.quads = r.2.quads ∧ t.groups = r.2.groups ∧
          (∀ g ∈ r.2.running md asid, ∀ k ∈ g.2.ctlSeqs, (t.ctl k).req = true))) ∧
      (recKind w = 4 →
        (c.st ≠ .saved → exec .resume s = .next ((r.2.ctxRefuse md asid 4 1).complete md r.1)) ∧
        (c.st = .saved → r.2.quadsBack md asid = false → exec .resume s = .next (r.2.setCtx md asid
          { c with waiting := c.waiting ++ [(r.1, .running)], held := true })) ∧
        (c.st = .saved → r.2.quadsBack md asid = true → (∀ i, i < c.slots.length → r.2.slotBad md asid i = false) →
          (c.slots.map SavedQuad.qn).Nodup → ∃ t, exec .resume s = .next t ∧ (t.ctx md asid).st = .running ∧ (t.ctx md asid).slots = [] ∧
            ∀ x ∈ c.slots, t.quad (quadIx md x.qn) = x.quad ∧
              ((∀ y ∈ c.slots, (y.cores.map Prod.fst).Nodup ∧ (y.cells.map Prod.fst).Nodup ∧ (∀ z ∈ y.cores, quadOf z.1 = quadIx md y.qn) ∧
                  ∀ z ∈ y.cells, quadOf (z.1 / 2 ^ 20) = quadIx md y.qn) →
                (∀ z ∈ x.cores, let k := t.core z.1
                  k = { z.2 with lpos := k.lpos, xpos := k.xpos, spos := k.spos, lphase := k.lphase, xphase := k.xphase, sphase := k.sphase }) ∧
                ∀ a, quadOf (a / 2 ^ 20) = quadIx md x.qn → memGet t.mem a = sget unlisted x.cells a)))) ∧
  (∀ (s : State),
      let md := s.ev.md
      let asid := s.ev.asid
      let c := s.ctx md asid
      let saved (b t : State) : Prop :=
        let c := b.ctx md asid
        let qs := (b.running md asid).flatMap fun g => span g.2.lo g.2.nq
        (t.ctx md asid).st = .saved ∧ (t.ctx md asid).saves = c.saves + 1 ∧ (t.ctx md asid).req = false ∧ (t.ctx md asid).limit = 0 ∧
        (t.ctx md asid).slots.map SavedQuad.qn = qs.map (· % 512) ∧ (t.ctx md asid).pages = c.pages ∧ (t.ctx md asid).gauges = c.gauges ∧
        (∀ ix ∈ qs, t.quad ix = Quad.init ∧ ∀ u, quadOf u = ix → t.core u = Core.init) ∧
        t.groups = b.groups
      c.st = .yielding →
      (c.runningCmds = [] → (∀ g ∈ s.running md asid, s.groupQuiet g.2 = true) → ∃ t, exec .contextSave s = .next t ∧ saved s t) ∧
      (c.runningCmds ≠ [] ∨ (∃ g ∈ s.running md asid, s.groupQuiet g.2 = false) → exec .contextSave s = .next s) ∧
      (c.limit ≠ 0 → s.clock ≥ c.limit → ∃ t, exec .preemptTimeLimit s = .next t ∧ saved (s.finishBarges md asid) t) ∧
      (c.limit = 0 ∨ s.clock < c.limit → exec .preemptTimeLimit s = .next s))

/-- R311, R326: CTXKILL of its own context, and the record of a context in a state that allows it, make it KILLING with the reason and code
given: its chains, kernels, gauge records and saved slots are gone, and its groups have ended. Once no page of it is in flight, every page is
unmapped and it is DEAD; the host's acknowledgement makes it FREE as new. A held RESUME starts once the quads it left are free (R324).
That a kill and a restore are one step each is log entry 46, what else of a killed context ends log entry 49: the model's choices. -/
def Obligations.ContextKilling : Prop :=
  ∀ (s : State) (a : BitVec 5) (w : List Word),
    let killed (s t : State) (md asid why code : Nat) : Prop :=
      let c := t.ctx md asid
      c.st = .killing ∧ c.why = why ∧ c.kcode = code ∧ c.chains = [] ∧ c.gauges = [] ∧ c.parts = [] ∧ c.slots = [] ∧ c.req = false ∧
      (∀ n, (c.kernel n).st = .unloaded) ∧ (∀ g ∈ s.groupsIn md asid GState.alive, (t.group g.1).st = .retired)
    let can (c : Ctx) : Prop := c.st = .building ∨ c.st = .ready ∨ c.st = .running ∨ c.st = .yielding ∨ c.st = .saved
    let md := s.ev.md
    let asid := s.ev.asid
    let c := s.ctx md asid
    let r := s.startRec md s.ev.i w
    (isCtl s.cur.kind = true → can (s.ctxOf s.cur) → ∃ t, exec (.ctxkill a) s = .next t ∧
      killed s t (modOf s.cur.unit) (s.asidOf s.cur) 2 ((s.getK s.cur a).toNat % 2 ^ 16)) ∧
    (s.chosen md = some (.queue s.ev.i) → s.headFate md s.ev.i = .ready w → recKind w = 2 →
      (can (r.2.ctx md (recOp w 1)) → ∃ t, exec .cmdCtxkill s = .next t ∧ killed r.2 t md (recOp w 1) 1 0) ∧
      (¬can (r.2.ctx md (recOp w 1)) → exec .cmdCtxkill s = .next ((r.2.ctxRefuse md (recOp w 1) 2 1).complete md r.1))) ∧
    (c.st = .killing → (∀ p ∈ c.pages, p.busy = false) → ∃ t, exec .contextKillComplete s = .next t ∧ (t.ctx md asid).st = .dead ∧
      (t.ctx md asid).pages = [] ∧ (t.ctx md asid).why = c.why ∧ ∀ e, (sget TTEntry.zero (t.hub md).tt e).owner ≠ some asid) ∧
    (c.st = .killing → (∃ p ∈ c.pages, p.busy = true) → exec .contextKillComplete s = .next s) ∧
    (c.st = .dead → ∃ t, exec .contextAck s = .next t ∧ t.ctx md asid = Ctx.init) ∧
    (c.st = .saved → c.held = true → s.quadsBack md asid = true → (∀ i, i < c.slots.length → s.slotBad md asid i = false) →
      ∃ t, exec .resumeHeldStart s = .next t ∧ (t.ctx md asid).st = .running ∧ (t.ctx md asid).held = false) ∧
    (c.st = .saved → c.held = true → s.quadsBack md asid = false → exec .resumeHeldStart s = .next s)

-- Queues (spec 14) -------------------------------------------------------------------------------------------------------------------------

/-- R338 to R340: TAKE removes the bottom record of its own core's deque and STEAL the top one of the core named, and write it at k[A],
performed at core scope, and answer 1; of an empty deque they take nothing and answer 0. SPAWN waits for every earlier store of its stream,
then pushes the 32 bytes at k[A] at the bottom and answers 1, or 0 where 256 stand there. JOIN counts a counter down by one and answers what
is left. No other deque changes.
What an acquire makes perform, and what a stream has observed, are log entries 30 and 82, the model's choices. -/
def Obligations.Deques : Prop :=
  ∀ (s : State) (d a b : BitVec 5),
    let q := s.cur
    let u := s.acquire q
    let ea := (s.getK q a).toNat
    let n := (s.getK q b).toNat
    let others (m : State) (i : Nat) : Prop :=
      ∀ j, s.dequeQuad q j ≠ s.dequeQuad q i ∨ j % 4 ≠ i % 4 → m.deque q j = s.deque q j
    let gives (i : Instr) (at' : Nat) (r : ContRec) (rest : List ContRec) : Prop :=
      ∃ t m, exec i s = .next t ∧ KNext m t q d 1 ∧
        m = { u with ids := s.ids + 1, transit := m.transit, latent := m.latent, bad := m.bad, quads := m.quads } ∧
        m.deque q at' = rest ∧ others m at' ∧
        (∀ x, x < 32 → t.byte q (ea + x) = r.getD x 0) ∧ (∀ w x, x < ea ∨ x ≥ ea + 32 → t.byte w x = u.byte w x)
    let none' (i : Instr) (at' : Nat) : Prop :=
      ∃ t m, exec i s = .next t ∧ KNext m t q d 0 ∧ m = { u with quads := m.quads } ∧ m.deque q at' = [] ∧ others m at'
    (q.kind = .k → s.writeCheck q ea 32 32 = none →
      let i := s.logical q
      (∀ r rest, s.deque q i = rest ++ [r] → r.length = 32 → gives (.take d a) i r rest) ∧ (s.deque q i = [] → none' (.take d a) i) ∧
      (n < 4 * (s.grpOf q).nq →
        (∀ r rest, s.deque q n = r :: rest → r.length = 32 → gives (.steal d a b) n r rest) ∧
        (s.deque q n = [] → none' (.steal d a b) n)) ∧
      (n ≥ 4 * (s.grpOf q).nq → exec (.steal d a b) s = .next (s.trap q { code := 6 }))) ∧
    (isCtl q.kind = true → s.readCheck q ea 32 32 = none → n < 4 * (s.grpOf q).nq →
      (s.fenceOpen q 5 = true → exec (.spawn d a b) s = .next s) ∧
      (s.fenceOpen q 5 = false → (s.deque q n).length < 256 → ∃ t m, exec (.spawn d a b) s = .next t ∧ KNext m t q d 1 ∧
        m = { s with quads := m.quads } ∧ m.deque q n = s.deque q n ++ [s.bytes q ea 32] ∧ others m n) ∧
      (s.fenceOpen q 5 = false → (s.deque q n).length ≥ 256 → ∃ t, exec (.spawn d a b) s = .next t ∧ KNext s t q d 0)) ∧
    (isCtl q.kind = true → s.readCheck q ea 4 4 = none →
      (s.fenceOpen q 5 = true → exec (.join d a) s = .next s) ∧
      (s.fenceOpen q 5 = false →
        let f := s.flush q ea 4
        let v := (memNat f.mem ea 4 + (2 ^ 32 - 1)) % 2 ^ 32
        ∃ t, exec (.join d a) s = .next t ∧ KNext (f.write (cellsOf ea (leBytes 4 v))) t q d (BitVec.ofNat 64 v)))

/-- R332, R346, R348: CQAPP appends the record at k[A] to a queue bound to its context, pins its page, writes its address into NEXT of the record before it, and answers APP (what becomes of
a NEXT whose page is gone is log entry 55, the model's choice); CQTAIL answers APP,
CQSTAT the status and the counts of started and completed records; EVPOST posts a SOFT event with its code, source and payload. A queue that
is not bound to the context raises OPND_RANGE. -/
def Obligations.QueueInstructions : Prop :=
  ∀ (s : State) (d a b : BitVec 5), isCtl s.cur.kind = true →
    let q := s.cur
    let md := modOf q.unit
    let asid := s.asidOf q
    let x := (s.getK q a).toNat
    let n := (s.getK q b).toNat
    let mine (n : Nat) : Prop := 1 ≤ n ∧ n ≤ 63 ∧ (s.hostQ md n).st ≠ 0 ∧ (s.hostQ md n).asid = asid
    let opnd := Host.Outcome.next (s.trap q { code := 6 })
    (mine n → x % 64 = 0 → s.runCode md asid x 64 true false = 0 → (s.hostQ md n).st = 1 →
      let pins := s.pinsFor md asid [(x, 64)]
      let h := s.hostQ md n
      let p := s.pin asid pins
      (∀ pg, (s.ctx md asid).pageOf x = some pg → pg.tier ≠ 3 → x + 64 ≤ pg.va + pg.size → pins = [(md, pg.va)]) ∧
      ∃ t l, exec (.cqapp d a b) s = .next t ∧
        KNext (l.setHostQ md n { h with recs := h.recs ++ [{ addr := x, pins := pins }], app := h.app + 1 }) t q d
          (BitVec.ofNat 64 (h.app + 1)) ∧
        (h.recs = [] → l = p) ∧
        (∀ r m pg, h.recs.getLast? = some r → p.homeNow md asid (r.addr + 56) = some (m, pg) → p.sealedAt asid m (r.addr + 56) 8 = false →
          l = (p.pageWrite md asid [(r.addr + 56, leBytes 8 x)]).1)) ∧
    (mine n → x % 64 = 0 → s.runCode md asid x 64 true false = 0 → (s.hostQ md n).st ≠ 1 → ∃ t m, exec (.cqapp d a b) s = .next t ∧
      KNext m t q d 0 ∧ m = s.post md 3 ((s.hostQ md n).ctx n) (srcQueue n) (s.hostQ md n).st x) ∧
    (mine n → x % 64 = 0 → s.runCode md asid x 64 true false ≠ 0 →
      exec (.cqapp d a b) s = .next (s.trap q { code := 7, addr := x, info := s.runCode md asid x 64 true false })) ∧
    (mine x → (∃ t, exec (.cqtail d a) s = .next t ∧ KNext s t q d (BitVec.ofNat 64 (s.hostQ md x).app)) ∧
      ∀ p ∈ [(0, s.queueStatus md x), (1, (s.hostQ md x).started), (2, (s.hostQ md x).done)], n = p.1 →
        ∃ t, exec (.cqstat d a b) s = .next t ∧ KNext s t q d (BitVec.ofNat 64 p.2)) ∧
    (¬mine x → exec (.cqtail d a) s = opnd ∧ exec (.cqstat d a b) s = opnd) ∧ (mine x → n ≥ 3 → exec (.cqstat d a b) s = opnd) ∧
    (¬mine n ∨ x % 64 ≠ 0 → exec (.cqapp d a b) s = opnd) ∧
    (n < 2 ^ 16 → ∃ t, exec (.evpost a b) s = .next t ∧ KNext (s.post md 0x30 (some asid) (srcOf q) n x) t q 0 0) ∧
    (n ≥ 2 ^ 16 → exec (.evpost a b) s = opnd)

/-- R342 to R344: TTWR puts an entry in, for its own context, with counts zero and its next slot the first that begins after now; TTRD
stores an entry's eight words and TTSTAT answers its counts; an entry of another context raises OPND_RANGE. A slot begins once the device
time has reached it: the launch it finds still due is withdrawn and counted late; it is skipped, counted and reported while the entry's group lives, where a time step passed it over, where its
context is neither READY nor RUNNING, and where its kernel or shape is refused; otherwise its launch is due.
That PERIOD is checked with EN = 0 too, that TTWR clears the counts, and which slots a time step passes over are log entry 57, the model's choices;
the payload of TTLATE is free (log entry 9). -/
def Obligations.LaunchTable : Prop :=
  ∀ (s : State) (d a b : BitVec 5),
    let q := s.cur
    let md := modOf q.unit
    let asid := s.asidOf q
    let ea := (s.getK q a).toNat
    let e := (s.getK q b).toNat
    let x := s.tt md e
    let w := s.words q ea 8
    let f (i : Nat) : Nat := (w.getD i 0).toNat
    (isCtl q.kind = true →
      (e < 256 → x.owner = none ∨ x.owner = some asid → s.recCheck q ea 64 = none →
        f 0 / 4 % 2 ^ 14 = 0 → f 0 < 2 ^ 28 → 1000 ≤ f 2 → f 2 ≤ 2 ^ 40 → f 3 < 2 ^ 42 →
        ∃ t y, exec (.ttwr a b) s = .next t ∧ KNext (s.setTt md e y) t q 0 0 ∧
          y = { x with words := w, owner := if f 0 % 2 = 1 ∨ s.ttBusy x = true then some asid else none, ownerId := asid, launched := 0
                       skipped := 0, late := 0, slot := y.slot, steps := [] } ∧
          s.devTime md < y.begins y.slot ∧ (y.slot ≠ 0 → y.begins (y.slot - 1) ≤ s.devTime md)) ∧
      (e < 256 → x.owner = none ∨ x.owner = some asid → s.recCheck q ea 64 = none →
        f 0 / 4 % 2 ^ 14 ≠ 0 ∨ f 0 ≥ 2 ^ 28 ∨ f 2 < 1000 ∨ f 2 > 2 ^ 40 ∨ f 3 ≥ 2 ^ 42 → exec (.ttwr a b) s = .next (s.trap q { code := 6 })) ∧
      (e < 256 → x.owner = none ∨ x.owner = some asid → s.recWriteCheck q ea 64 = none →
        ∃ t m, exec (.ttrd a b) s = .next t ∧ KNext m t q 0 0 ∧
          m = { s with ids := s.ids + 1, transit := m.transit, latent := m.latent, bad := m.bad } ∧
          (∀ i j, i < 8 → j < 8 → t.byte q (ea + 8 * i + j) = BitVec.ofNat 8 ((x.content.getD i 0).toNat / 256 ^ j)) ∧
          (∀ r z, z < ea ∨ z ≥ ea + 64 → t.byte r z = s.byte r z)) ∧
      (let n := (s.getK q a).toNat
       let y := s.tt md n
       n < 256 → y.owner = none ∨ y.owner = some asid → y.skipped < 2 ^ 16 → y.late < 2 ^ 16 → ∃ t, exec (.ttstat d a) s = .next t ∧
         KNext s t q d (BitVec.ofNat 64 (y.launched + y.skipped * 2 ^ 32 + y.late * 2 ^ 48))) ∧
      (x.owner ≠ none → x.owner ≠ some asid → exec (.ttwr a b) s = .next (s.trap q { code := 6 }) ∧
        exec (.ttrd a b) s = .next (s.trap q { code := 6 }))) ∧
    (let m := s.ev.md
     let y := s.tt m s.ev.i
     (y.owner = none ∨ y.en = false → exec .ttSlotBegin s = .next s) ∧
     ∀ o, y.owner = some o → y.en = true →
      (s.devTime m < y.begins y.slot → exec .ttSlotBegin s = .next s) ∧
      (y.begins y.slot ≤ s.devTime m →
        let late := s.ttWithdraw m s.ev.i
        let st := (s.ctx m o).st
        let passed := ∃ p ∈ y.steps, p.1 < y.begins y.slot ∧ y.begins y.slot < p.2
        let next (z : State) : State := z.setTt m s.ev.i { z.tt m s.ev.i with slot := y.slot + 1 }
        let skip (z : State) (reason : Nat) : Prop := exec .ttSlotBegin s = .next (next
          ((z.setTt m s.ev.i { z.tt m s.ev.i with skipped := min (y.skipped + 1) 0xFFFF }).post m 0x21 (some o) (srcHub 3) s.ev.i (reason + y.slot * 2 ^ 8)))
        (y.due = none → late = s) ∧
        (∀ w, y.due = some w → ∃ v, late = (s.setTt m s.ev.i { y with due := none, late := min (y.late + 1) 0xFFFF }).post m 0x22 (some w.owner) (srcHub 3) s.ev.i v) ∧
        (s.ttBusy y = true → skip late 1) ∧
        (s.ttBusy y = false → passed → skip late 2) ∧
        (s.ttBusy y = false → ¬passed → st ≠ .ready → st ≠ .running → skip late 3) ∧
        (s.ttBusy y = false → ¬passed → st = .ready ∨ st = .running → ∀ cause, (s.ctx m o).launchCause (y.word 3) = some cause →
          skip (late.post m 0x13 (some o) (srcHub 3) cause (y.word 3)) 4) ∧
        (s.ttBusy y = false → ¬passed → st = .ready ∨ st = .running → (s.ctx m o).launchCause (y.word 3) = none →
          exec .ttSlotBegin s = .next (next (late.setTt m s.ev.i { late.tt m s.ev.i with due := some { words := y.words, owner := o, slot := y.slot } })))))

/-- R331, R332, R334, R335: what the start of a record and its completion do to the counters of its queue: the head leaves, STARTED and
then DONE count it, and other queues are as before. R331, R333, R334: the records that the scheduler starts from the head of a queue. NOP completes; EVENT posts its payload; WRITEV writes its word at
every scope; WAITV completes when its condition holds, and blocks its queue otherwise until a poll finds that it does; QBIND binds a queue,
changes its level, or unbinds it. A head that fails its checks stops its queue with QERR. That WRITEV and WAITV of queue 0 name host bus addresses is log entry 54, the model's choice. -/
def Obligations.HostRecords : Prop :=
  (∀ (s : State) (md q : Nat) (w : List Word),
      let x := s.hostQ md q
      let r := s.startRec md q w
      let c := r.2.complete md r.1
      s.ids ∉ x.pend →
      r.1 = { q := q, epoch := x.epoch, id := s.ids, evt := recEvt w, utag := recUtag w, asid := x.ctx q } ∧
      r.2.hostQ md q = { x with recs := x.recs.drop 1, started := x.started + 1, pend := x.pend ++ [s.ids], polled := false } ∧
      c.hostQ md q = { x with recs := x.recs.drop 1, started := x.started + 1, done := x.done + 1, polled := false } ∧
      (∀ n, n ≠ q → c.hostQ md n = s.hostQ md n)) ∧
  (∀ (s : State) (w : List Word),
      let md := s.ev.md
      let q := s.ev.i
      let x := s.hostQ md q
      let r := s.startRec md q w
      let fin (t : State) : Host.Outcome State Fault Refusal := .next (t.complete md r.1)
      (s.chosen md ≠ some (.queue q) → exec .cmdNop s = .next s ∧ exec .cmdEvent s = .next s ∧ exec .writev s = .next s) ∧
      (s.chosen md = some (.queue q) → s.headFate md q = .ready w →
        (recKind w = 0 → exec .cmdNop s = fin r.2) ∧
        (recKind w = 0x0B → exec .cmdEvent s = fin (r.2.post md 4 r.1.asid (srcQueue q) 0 (recOp w 1))) ∧
        (recKind w = 0x0A → q = 0 → exec .writev s = fin (r.2.write (cellsOf (hostKey md (recOp w 1)) (leBytes 8 (recOp w 2))))) ∧
        (recKind w = 0x0A → q ≠ 0 → exec .writev s = fin (r.2.pageWrite md x.asid [(recOp w 1, leBytes 8 (recOp w 2))]).1) ∧
        (recKind w = 9 → (s.waitvTrue md q w = true → exec .waitv s = fin r.2) ∧
          (s.waitvTrue md q w = false → exec .waitv s = .next (s.setHostQ md q { x with polled := true }))) ∧
        (recKind w = 5 →
          let n := recOp w 1
          let y := r.2.hostQ md n
          let st := (r.2.ctx md (recOp w 2)).st
          (recOp w 3 / 256 % 2 = 1 → ∃ t, exec .qbind s = fin t ∧ (t.hostQ md n).st = 0) ∧
          (recOp w 3 / 256 % 2 = 0 → st ≠ .free ∧ st ≠ .killing ∧ st ≠ .dead → ¬(y.st = 1 ∧ y.asid = recOp w 2) → ∃ t, exec .qbind s = fin t ∧
            t.hostQ md n = { y with st := 1, asid := recOp w 2, pri := recOp w 3 % 4, wtm1 := recOp w 3 / 16 % 16, app := 0, started := 0
                                    done := 0, err := 0, pcode := 0, epoch := y.epoch + 1, recs := [], polled := false }) ∧
          (recOp w 3 / 256 % 2 = 0 → st ≠ .free ∧ st ≠ .killing ∧ st ≠ .dead → y.st = 1 → y.asid = recOp w 2 → exec .qbind s =
            fin (r.2.setHostQ md n { y with pri := recOp w 3 % 4, wtm1 := recOp w 3 / 16 % 16 })) ∧
          (recOp w 3 / 256 % 2 = 0 → st = .free ∨ st = .killing ∨ st = .dead → exec .qbind s = fin (r.2.ctxRefuse md (recOp w 2) 5 1)))) ∧
      (x.polled = true → x.st = 1 → ∀ v, (s.setHostQ md q { x with polled := false }).headFate md q = .ready v → recKind v = 9 →
        let s' := s.setHostQ md q { x with polled := false }
        (s.waitvTrue md q v = true → exec .waitvPoll s = .next s') ∧ (s.waitvTrue md q v = false → exec .waitvPoll s = .next s)) ∧
      (∀ err pcode, s.chosen md = some (.queue q) → s.headFate md q = .bad err pcode → err ≠ 2 →
        exec .cmdNop s = .next ((s.setHostQ md q { x with st := 4, err := err, pcode := pcode }).post md 2 (x.ctx q) (srcQueue q) err x.started)))

/-- R274, R329, R332, R347, R408, R441: the host's appends and register writes. APPEND to a bound queue, as an event or through BAR0, adds the record, writes its address into NEXT of the record before it
and counts it, and to another is discarded with APPERR; EVRD tells how far the host has read, and EVSIZE how long the log is: where there is room then, the next record is EVLOST with the number of events that were dropped, and
the held events follow it in order, and the ids of refused kernels whose events are read are free; a register of BAR0 takes a value
that it can hold and no other. -/
def Obligations.HostRegisters : Prop :=
  ∀ (s : State),
    let md := s.ev.md
    let h := s.hub md
    let n := s.ev.i
    let v := s.ev.val
    let writes (addr : Nat) (ok : Bool) (t : Hub) : Prop := s.ev.addr = addr → h.power ≠ .off →
      exec .hostRegisterWrite s = .next (if ok then s.setHub md t else s)
    let app (i : Instr) (k a : Nat) : Prop :=
      let x := s.hostQ md k
      (x.st = 1 → ∃ l : State, exec i s = .next (l.setHostQ md k { x with recs := x.recs ++ [{ addr := a, pins := [] }], app := x.app + 1 }) ∧
        (x.recs = [] → l = s) ∧
        ∀ r, x.recs.getLast? = some r →
          (k = 0 → l = s.write (cellsOf (hostKey md (r.addr + 56)) (leBytes 8 a))) ∧
          (k ≠ 0 → ∀ m p, s.homeNow md x.asid (r.addr + 56) = some (m, p) → s.sealedAt x.asid m (r.addr + 56) 8 = false →
            l = (s.pageWrite md x.asid [(r.addr + 56, leBytes 8 a)]).1)) ∧
      (x.st ≠ 1 → exec i s = .next (s.post md 3 (x.ctx k) (srcQueue k) x.st a))
    let drains (i : Instr) (rd size : Nat) : Prop := h.power = .ready → h.evheld.length ≤ 1024 →
      let lost : List Event := if h.dropped = 0 then [] else [{ kind := 0x31, asid := none, src := srcHub 2, code := 0, payload := h.dropped }]
      let out := lost ++ h.evheld
      rd ≤ h.evwr → h.evwr - rd + out.length ≤ 2 ^ size → ∃ t, exec i s = .next t ∧
        (t.hub md).evheld = [] ∧ (t.hub md).dropped = 0 ∧ (t.hub md).evrd = rd ∧ (t.hub md).evsize = size ∧ (t.hub md).evwr = h.evwr + out.length ∧
        ∀ k e j b, out[k]? = some e → (e.record (h.seqNo + k) (s.devTime md))[j]? = some b → j < 32 →
          memGet t.mem (hostKey md (h.evbase + 32 * ((h.evwr + k) % 2 ^ size)) + j) = b
    let reads (i : Instr) : Prop :=
      (h.power = .off → exec i s = .next s) ∧
      (h.power ≠ .off → h.noted = [] → h.evheld = [] ∧ h.dropped = 0 ∨ h.evwr - v ≥ 2 ^ h.evsize → exec i s = .next (s.setHub md { h with evrd := v })) ∧
      (h.noted = [] → drains i v h.evsize) ∧
      (h.power ≠ .off → h.evheld = [] → h.dropped = 0 → ∃ t, exec i s = .next t ∧ (t.hub md).noted = h.noted.filter (fun y => decide (y.1 > v)) ∧
        ∀ y ∈ h.noted, y.1 ≤ v → ((s.ctx md y.2.1).kernel y.2.2).st = .refused → (t.ctx md y.2.1).kernel y.2.2 = Kernel.none)
    (h.power = .ready → n < 64 → app .append n s.ev.addr) ∧
    (h.power = .ready → ∀ k, k < 64 → s.ev.addr = 0x10000 + 0x40 * k → app .hostRegisterWrite k (v % 2 ^ 64)) ∧
    reads .evrd ∧ (s.ev.addr = 0x0118 → reads .hostRegisterWrite) ∧
    writes 0x0100 (v % 4096 == 0) { h with evbase := v } ∧
    (h.evheld = [] ∧ h.dropped = 0 ∨ h.evwr - h.evrd ≥ 2 ^ v ∨ v < 8 ∨ 20 < v → writes 0x0108 (decide (8 ≤ v ∧ v ≤ 20)) { h with evsize := v }) ∧
    (8 ≤ v → v ≤ 20 → s.ev.addr = 0x0108 → drains .hostRegisterWrite h.evrd v) ∧
    writes 0x0120 (decide (1 ≤ v ∧ v ≤ 2 ^ 20)) { h with evint := v } ∧
    writes 0x0200 (v % 4096 == 0) { h with fwaddr := v } ∧
    writes 0x0208 (decide (v ≤ 2 ^ 26)) { h with fwsize := v } ∧
    writes 0x0210 (h.power == .waitfw) { h with power := .verify, fwimg := (h.fwaddr, h.fwsize) } ∧
    (h.power = .ready → h.mbst % 2 = 0 → 1 ≤ v % 256 → v % 256 ≤ 4 →
      writes 0x0220 true { h with mbcmd := some (v % 256), mbopnd := v % 2 ^ 64 / 256 % 2 ^ 56, mbst := 1 }) ∧
    (h.power = .off → exec .hostRegisterWrite s = .next s)

-- Kernels and groups (spec 10, 15) ---------------------------------------------------------------------------------------------------------

/-- R254 to R257, R272 to R274, R448: KLOAD gives the next kernel id, LOADING; of an object that passes every check it maps the image executable and not writable, and the kernel is LOADED; of one
that fails it reports the code and the offset, makes the id REFUSED (until the host has read the event) and maps nothing. The checks go in the order of their codes: the header first, then the
version, then the program header. KUNLOAD makes a LOADED kernel UNLOADED and an ACTIVE one UNLOADING, waits with one that is LOADING or UNLOADING, and reports an id that names none. That a load may end with
a later turn is log entry 46, the model's choice.
How ids are given and that an unreadable object is refused with code 1 at 0 are log entry 51, where the image goes log entry 15, the model's choices. -/
def Obligations.KernelRecords : Prop :=
  ∀ (s : State) (w : List Word),
    let md := s.ev.md
    let q := s.ev.i
    let asid := (s.hostQ md q).asid
    (∀ keys gtsz o,
      let h (off n : Nat) : Nat := leNat ((o.drop off).take n)
      let code (n : Nat) : Prop := ∃ z, objBad keys gtsz o = some (n, z)
      (o.length < 64 ∨ h 0 4 ≠ 0x01464F56 ∨ h 12 4 < 2 ∨ h 12 4 > 32 ∨ h 24 8 ≠ o.length ∨ h 32 8 + 8256 ≠ o.length → code 1) ∧
      (check1 o = none →
        (h 4 2 ≠ 1 ∨ h 8 4 > 8 → code 2) ∧
        (h 4 2 = 1 → h 8 4 ≤ 8 →
          let w := h (secOf (objSecs o) 1).off 8
          w % 1024 = 0 ∨ w % 1024 > w / 1024 % 1024 ∨ w / 1024 % 1024 > 512 ∨ w / 2 ^ 20 % 256 > 6 ∨ w / 2 ^ 60 ≠ 0 → code 3)) ∧
      ∀ e, objBad keys gtsz o = some e → 1 ≤ e.1 ∧ e.1 ≤ 16) ∧
    (s.chosen md = some (.queue q) → s.headFate md q = .ready w → q ≠ 0 →
    (recKind w = 6 →
      let r := s.startRec md q w
      let c := r.2.ctx md asid
      let id := c.nextKernel
      let b := r.2.setCtx md asid { c.setKernel id { Kernel.none with st := .loading, load := some (r.1, recOp w 1, recOp w 2) } with nextKernel := id + 1 }
      let x := b.objectAt md asid (recOp w 1) (recOp w 2)
      let keys := (b.hub md).keys
      let no (e : Nat × Nat) : State :=
        ((x.1.setCtx md asid ((x.1.ctx md asid).setKernel id { Kernel.none with st := .refused })).arbiter md
          { kind := 0x12, asid := some asid, src := srcHub 0, code := e.1, payload := e.2 % 2 ^ 64, frees := some id }).complete md r.1
      (s.ev.j = 1 → exec .kload s = .next b) ∧
      (s.ev.j ≠ 1 → x.2 = none → exec .kload s = .next (no (1, 0))) ∧
      (∀ o, s.ev.j ≠ 1 → x.2 = some o →
        let n := ceilDiv (4 * (imageWords (objRecs o (objSecs o))).length) (2 ^ 16)
        (∀ e, objBad keys c.gtsz o = some e → exec .kload s = .next (no e)) ∧
        (∀ base, objBad keys c.gtsz o = none → b.imageBase md asid id n = some base →
          ∃ t : State, exec .kload s = .next (t.complete md r.1) ∧ (t.ctx md asid).kernel id = kernelOf o base ∧
            ((t.ctx md asid).kernel id).st = .loaded ∧ (t.ctx md asid).nextKernel = id + 1 ∧
            (∀ n, n ≠ id → (t.ctx md asid).kernel n = c.kernel n) ∧
            ∀ p ∈ (t.ctx md asid).pages, p ∈ (x.1.ctx md asid).pages ∨ (p.x = true ∧ p.w = false ∧ p.fw = true)))) ∧
    (recKind w = 7 →
      let r := s.startRec md q w
      let id := recOp w 1
      let c := r.2.ctx md asid
      let k := c.kernel id
      (k.st = .loaded → ∃ t, exec .kunload s = .next t ∧ ((t.ctx md asid).kernel id).st = .unloaded) ∧
      (k.st = .active ∨ k.st = .unloading → exec .kunload s = .next (r.2.setCtx md asid
        (c.setKernel id { k with st := .unloading, unload := k.unload ++ [r.1] }))) ∧
      (k.st = .loading → exec .kunload s = .next (r.2.setCtx md asid (c.setKernel id { k with unload := k.unload ++ [r.1] }))) ∧
      (k.st = .unloaded ∨ k.st = .refused → exec .kunload s =
        .next ((r.2.post md 0x12 (some asid) (srcHub 0) 17 id).complete md r.1))))

/-- R349 to R352, R274: a group that starts holds its quads, and every member of them starts at the first slot of its stream with every
register as R351 says; its kernel is ACTIVE with one more group, its READY context RUNNING. Where the kernel has no data images and no nest
records, every byte of its scratchpads reads zero. Units outside its quads are as before. (With ev.j = 1 the group is STARTING until a later turn: log entry 46, the model's choice.) R335, R336, R343, R349,
R362, R363, R448: a host LAUNCH that the scheduler chooses starts a group at the lowest place with enough free quads, holds the scheduler where there is none, and is refused with LAUNCHREF where its
kernel or its shape is refused; so do a due launch of the table and one of QF; while a launch waits for quads no launch that ranks below it starts. A RUNNING group whose members have finished retires: its quads
are free, and its context is READY once no group runs.
Which launches rank below a waiting one is log entry 56, that a group of a YIELDING context retires log entry 59, the model's choices. -/
def Obligations.GroupLifecycle : Prop :=
  (∀ (s : State) (md asid gid h kw qb : Nat) (args : List Word) (src : Source) (level : Nat),
      let c := s.ctx md asid
      let k := c.kernel (kwKernel kw)
      let nq := kwQuads kw
      let lo := quadIx md qb
      let t := s.startGroup md asid gid h kw qb args src level
      let p (i : Nat) : Pos := if bitAt k.strm i then .next k.base else .ended
      (s.ev.j = 1 → (t.group gid).st = .starting ∧ (∀ i, i < nq → (t.quad (lo + i)).grp = gid) ∧
        (c.st = .ready ∨ c.st = .running → t.endStart gid = t.initGroup gid)) ∧
      (s.ev.j ≠ 1 → (t.group gid).st = .running ∧ (t.group gid).asid = asid ∧ (t.group gid).md = md ∧ (t.group gid).qb = qb ∧ (t.group gid).nq = nq ∧
      (t.group gid).args = args ∧ (t.group gid).handle = h ∧ (t.group gid).kernel = kwKernel kw ∧
      (∀ i, i < nq → t.quad (lo + i) = { Quad.init with grp := gid } ∧
        (∀ n, n < 4 → let u := (lo + i) * 8 + n
          (t.core u).lpos = p 1 ∧ (t.core u).xpos = p 2 ∧ (t.core u).spos = p 3 ∧
          t.core u = { Core.init with lpos := p 1, xpos := p 2, spos := p 3, mx := { Matrix.init with rings := (t.core u).mx.rings }, xsync := s.tick } ∧
          t.ctl { unit := u, kind := .k } = { Ctl.init with pos := p 0, cycBase := s.clock }) ∧
        t.ctl { unit := (lo + i) * 8 + 4, kind := .qf } = { Ctl.init with pos := p 4, cycBase := s.clock } ∧
        t.ctl { unit := (lo + i) * 8 + 4, kind := .qu } = { Ctl.init with pos := p 5, cycBase := s.clock }) ∧
      (∀ g, lo * 2048 ≤ g → g < (lo + nq) * 2048 → sget false t.engine g = false) ∧
      (k.datas = [] → k.nests = [] → ∀ r z, lo * 2 ^ 23 ≤ z → z < (lo + nq) * 2 ^ 23 → z < 2 ^ 42 → t.byte r z = 0) ∧
      (∀ n, n < lo ∨ n ≥ lo + nq → t.quad n = s.quad n) ∧
      (∀ u, quadOf u < lo ∨ quadOf u ≥ lo + nq → t.core u = s.core u) ∧
      (c.st = .ready → (t.ctx md asid).st = .running) ∧ (c.st ≠ .ready → (t.ctx md asid).st = c.st) ∧
      ((t.ctx md asid).kernel (kwKernel kw)).st = .active ∧ ((t.ctx md asid).kernel (kwKernel kw)).groups = k.groups + 1)) ∧
  (∀ (c : Ctx) (kw : Nat),
      let k := c.kernel (kwKernel kw)
      (k.st ≠ .loaded → k.st ≠ .active → c.launchCause kw = some 1) ∧
      (k.st = .loaded ∨ k.st = .active →
        (kwQuads kw < k.qmin ∨ k.qmax < kwQuads kw → c.launchCause kw = some 2) ∧
        (k.qmin ≤ kwQuads kw → kwQuads kw ≤ k.qmax → c.launchCause kw = none))) ∧
  (∀ (s : State) (w : List Word),
      let md := s.ev.md
      let q := s.ev.i
      let x := s.hostQ md q
      let kw := recOp w 1
      let r := s.startRec md q w
      let drop (t : State) (l : LRef) : State := t.setHub md { t.hub md with held := if (t.hub md).held = some l then none else (t.hub md).held }
      (s.chosen md = some (.queue q) → s.headFate md q = .ready w → recKind w = 8 →
        (∀ cause, (s.ctx md x.asid).launchCause kw = some cause →
          exec .cmdLaunch s = .next (drop ((r.2.post md 0x13 (some x.asid) (srcQueue q) cause kw).complete md r.1) (.queue q))) ∧
        ((s.ctx md x.asid).launchCause kw = none → s.placeGroup md (kwQuads kw) = none →
          exec .cmdLaunch s = .next (s.setHub md { s.hub md with held := some (.queue q) })) ∧
        (∀ qb, (s.ctx md x.asid).launchCause kw = none → s.placeGroup md (kwQuads kw) = some qb →
          (∀ i, i < kwQuads kw → s.quadFree md (qb + i) = true) ∧ (∀ b, b < qb → ∃ i, i < kwQuads kw ∧ s.quadFree md (b + i) = false) ∧
          (let z : State := { r.2 with ids := r.2.ids + 1 }
           let c := z.ctx md x.asid
           let u := z.setCtx md x.asid { c with handles := c.handles + 1, byHandle := sset c.byHandle (c.handles + 1) r.2.ids }
           exec .cmdLaunch s = .next
             (drop (u.startGroup md x.asid r.2.ids (handleNo (c.handles + 1)) kw qb ((w.drop 2).take 4) (.host r.1) x.pri) (.queue q))))) ∧
      (∀ l l', (s.dueEntries md).head? = some l → s.refLacks md (.table l) = true → s.chosen md = some l' →
        ∃ q', l' = .queue q' ∧ (q' = 0 ∨ ∀ w', s.headFate md q' = .ready w' → recKind w' ≠ 8)) ∧
      (∀ l l', s.dueEntries md = [] → s.holding md = some l → s.refLacks md l = true → s.chosen md = some l' →
        ∃ q', l' = .queue q' ∧ (q' = 0 ∨ ∀ w', s.headFate md q' = .ready w' → recKind w' ≠ 8)) ∧
      (∀ e d cause, s.launchDue md = some (.table e) → (sget TTEntry.zero (s.hub md).tt e).due = some d →
        (s.ctx md d.owner).launchCause (d.words.getD 3 0).toNat = some cause →
        exec .groupCreate s = .next (drop ((s.setHub md { s.hub md with tt := sset (s.hub md).tt e { sget TTEntry.zero (s.hub md).tt e with due := none } }).post
          md 0x13 (some d.owner) (srcHub 3) cause (d.words.getD 3 0).toNat) (.table e))) ∧
      (∀ l, s.launchDue md = some (.group l.gid) → (s.hub md).pending.find? (fun y => y.gid == l.gid) = some l →
        (∀ cause, (s.ctx md l.asid).launchCause l.kw = some cause →
          let z := (s.setHub md { s.hub md with pending := (s.hub md).pending.filter fun y => y.gid != l.gid }).countTurn md l.level qfTurn
          exec .groupCreate s = .next (drop ((z.setGroup l.gid { s.group l.gid with st := .refused }).post md 0x13 (some l.asid) (srcOf l.q) cause l.kw)
            (.group l.gid))) ∧
        ((s.ctx md l.asid).launchCause l.kw = none → s.placeGroup md (kwQuads l.kw) = none →
          exec .groupCreate s = .next (s.setHub md { s.hub md with held := some (.group l.gid) }))) ∧
      (∀ e d qb, s.ev.j ≠ 1 → s.launchDue md = some (.table e) → (sget TTEntry.zero (s.hub md).tt e).due = some d →
        (s.ctx md d.owner).launchCause (d.words.getD 3 0).toNat = none → s.placeGroup md (kwQuads (d.words.getD 3 0).toNat) = some qb →
        ∃ t, exec .groupCreate s = .next t ∧ (t.group s.ids).st = .running ∧ (t.group s.ids).qb = qb ∧
          (sget TTEntry.zero (t.hub md).tt e).group = s.ids ∧ (sget TTEntry.zero (t.hub md).tt e).due = none) ∧
      (∀ l qb, s.ev.j ≠ 1 → s.launchDue md = some (.group l.gid) → (s.hub md).pending.find? (fun y => y.gid == l.gid) = some l →
        (s.ctx md l.asid).launchCause l.kw = none → s.placeGroup md (kwQuads l.kw) = some qb →
        ∃ t, exec .groupCreate s = .next t ∧ (t.group l.gid).st = .running ∧ (t.group l.gid).handle = (s.group l.gid).handle ∧
          (t.hub md).pending = (s.hub md).pending.filter (fun y => y.gid != l.gid)) ∧
      (s.launchDue md = none → exec .groupCreate s = .next s) ∧
      (let st := (s.ctx md s.ev.asid).st
       let due (x : Nat × Group) : Prop := x.2.md = md ∧ x.2.asid = s.ev.asid ∧ x.2.handle = s.ev.i ∧ x.2.st = .running ∧ s.groupDone x.2 = true
       ((∀ x ∈ s.groups, ¬due x) ∨ (st ≠ .running ∧ st ≠ .yielding) → exec .groupRetire s = .next s) ∧
        (∀ gid g, (gid, g) ∈ s.groups → due (gid, g) → (∀ x ∈ s.groups, due x → x = (gid, g)) → st = .running ∨ st = .yielding → ∃ t, exec .groupRetire s = .next t ∧ (t.group gid).st = .retired ∧
          (∀ i, i < g.nq → t.quad (quadIx md (g.qb + i)) = Quad.init) ∧
          (st = .running → ((∃ y ∈ t.groups, y.2.md = md ∧ y.2.asid = s.ev.asid ∧ (y.2.st = .starting ∨ y.2.st = .running)) ↔ (t.ctx md s.ev.asid).st = .running) ∧
            ((t.ctx md s.ev.asid).st = .running ∨ (t.ctx md s.ev.asid).st = .ready)) ∧
          (st = .yielding → (t.ctx md s.ev.asid).st = .yielding))))

/-- R350, R353 to R359: LAUNCH checks the places of its arguments, waits until the stream's stores have performed and fewer than 1024
groups live, reads the arguments, hands its request to the scheduler and answers the new handle; GRPID
reads its items; GRPWAIT waits for a group to end and answers its status. LSQDEF stores a nest, LSQGO starts a pass over the stored nest with
the cores' shares of R358, and LSQNEXT draws the core's next tile, writes its indices at k[A], and answers 1, or 0 where none is left.
What a pass tells of and a draw observes is log entry 82, the model's choice. -/
def Obligations.GroupInstructions : Prop :=
  ∀ (s : State) (d a b : BitVec 5),
    let q := s.cur
    let md := modOf q.unit
    let asid := s.asidOf q
    let g := s.grpOf q
    let c := s.ctx md asid
    let x := (s.getK q a).toNat
    let y := (s.getK q b).toNat
    let qd := quadOf q.unit
    let u := s.quad qd
    (q.kind = .qf → kwOk x = true → s.recCheck q y 32 = none → s.fenceOpen q 5 = false →
      (s.groupsIn md asid GState.alive).length < 1024 →
      ∃ t m, exec (.launch d a b) s = .next t ∧ KNext m t q d (BitVec.ofNat 64 (handleNo (c.handles + 1))) ∧
        m = { s with ids := s.ids + 1, ctxs := m.ctxs, groups := m.groups, hubs := m.hubs } ∧
        m.ctx md asid = { c with handles := c.handles + 1, byHandle := sset c.byHandle (c.handles + 1) s.ids } ∧
        m.hub md = { s.hub md with pending := (s.hub md).pending ++
          [{ asid := asid, kw := x, args := s.words q y 4, q := q, level := g.level, gid := s.ids }] } ∧
        (m.group s.ids).st = .pending ∧ (m.group s.ids).handle = handleNo (c.handles + 1)) ∧
    (q.kind = .qf → kwOk x = true → ∀ tr, s.placeCheck q y 32 = some tr → exec (.launch d a b) s = .next (s.trap q tr)) ∧
    (q.kind = .qf → kwOk x = true → s.placeCheck q y 32 = none → s.fenceOpen q 5 = true ∨ (s.groupsIn md asid GState.alive).length ≥ 1024 →
      exec (.launch d a b) s = .next s) ∧
    (isCtl q.kind = true →
      (∀ p ∈ [(0, BitVec.ofNat 64 (s.logical q)), (1, BitVec.ofNat 64 g.nq), (2, BitVec.ofNat 64 (quadIx g.md g.qb * 2 ^ 23)), (3, g.args.getD 0 0),
        (4, g.args.getD 1 0), (5, g.args.getD 2 0), (6, g.args.getD 3 0), (7, BitVec.ofNat 64 g.handle)], x = p.1 →
        ∃ t, exec (.grpid d a) s = .next t ∧ KNext s t q d p.2) ∧
      (x ≥ 8 → exec (.grpid d a) s = .next (s.trap q { code := 6 })) ∧
      (∀ gid, x ≠ g.handle → (s.ctxOf q).groupOf x = some gid →
        ((s.group gid).st = .retired ∨ (s.group gid).st = .refused → ∃ t, exec (.grpwait d a) s = .next t ∧
          KNext s t q d (if (s.group gid).st = .refused then 1 else 0)) ∧
        ((s.group gid).st = .pending ∨ (s.group gid).st = .starting ∨ (s.group gid).st = .running → exec (.grpwait d a) s = .next s)) ∧
      (x = g.handle ∨ (s.ctxOf q).groupOf x = none → exec (.grpwait d a) s = .next (s.trap q { code := 6 }))) ∧
    (q.kind = .qf →
      (∀ n, s.recCheck q x 64 = none → nestOf (s.words q x 8) = some n →
        ∃ t, exec (.lsqdef a) s = .next t ∧ KNext (s.setQuad qd { u with nest := some n }) t q 0 0) ∧
      (s.recCheck q x 64 = none → nestOf (s.words q x 8) = none → exec (.lsqdef a) s = .next (s.trap q { code := 6 })) ∧
      (∀ n, u.nest = some n → s.fenceOpen q 2 = false →
        ∃ t v, exec (.lsqgo d) s = .next t ∧ KNext (s.setQuad qd v) t q d (BitVec.ofNat 64 ((u.pass + 1) % 2 ^ 32)) ∧
          v = { u with pass := (u.pass + 1) % 2 ^ 32, passNest := n, cur := v.cur, hi := v.hi, passRel := v.passRel } ∧
          ∀ i, i < 4 → sget 0 v.cur i = (4 * s.logical q + i) * n.total / (4 * g.nq) ∧
            sget 0 v.hi i = (4 * s.logical q + i + 1) * n.total / (4 * g.nq)) ∧
      (u.nest = none → exec (.lsqgo d) s = .next (s.trap q { code := 6 }))) ∧
    (q.kind = .k → s.recWriteCheck q x 32 = none → y < 2 ^ 32 →
      let i := q.unit % 8
      let n := sget 0 u.cur i
      (u.pass < y → exec (.lsqnext d a b) s = .next s) ∧
      (u.pass > y ∨ (u.pass = y ∧ n ≥ sget 0 u.hi i) → ∃ t, exec (.lsqnext d a b) s = .next t ∧ KNext s t q d 0) ∧
      (u.pass = y → n < sget 0 u.hi i → ∃ t m, exec (.lsqnext d a b) s = .next t ∧ KNext m t q d 1 ∧
        m = { s with ids := s.ids + 1, quads := m.quads, transit := m.transit, latent := m.latent, bad := m.bad } ∧
        m.quad qd = { u with cur := sset u.cur i (n + 1) } ∧
        (∀ j, j < 6 → t.read q (x + 4 * j) 4 = sget 0 (Nest.tile u.passNest n) j % 2 ^ 32) ∧
        t.read q (x + 24) 4 = n % 2 ^ 32 ∧ t.read q (x + 28) 4 = u.pass % 2 ^ 32 ∧
        ∀ r z, z < x ∨ z ≥ x + 32 → t.byte r z = s.byte r z))

-- Barriers and semaphores (spec 16) --------------------------------------------------------------------------------------------------------

/-- R365 to R372: BARV, once its stream's stores have performed at the barrier's level, joins the arrivals of its generation and answers
the generation's number; the arrival that makes ARR equal MASK completes it, and a pending mask comes in. A member that has arrived already
is held; a sequencer that is no member traps. An arrival held for the next generation completes its BARV with the number of that one. BWAIT
waits for a generation that has completed, BMASK sets the mask at once where nobody has arrived and else makes it pending, and BGEN reads the
barrier.
That a held BARV has not issued until it is answered is log entry 50, who may set a mask log entry 60, what an acquire makes perform log entry 30, of what an
arrival tells log entry 82: the model's choices. -/
def Obligations.Barriers : Prop :=
  ∀ (s : State) (d a b : BitVec 5) (lvl n : Nat), isCtl s.cur.kind = true → barWord (s.getK s.cur a) = some (lvl, n) →
    let q := s.cur
    let nm := s.barName q lvl n
    let u := (s.fenced q (lvl + 2)).acquire q
    let x := u.bar nm
    let tells := u.tells q (lvl + 2)
    let y := (s.getK q b).toNat
    let opnd := Host.Outcome.next (s.trap q { code := 6 })
    let cur := s.bar nm
    ((s.ctl q).wait = false →
      (s.fenceOpen q (lvl + 2) = true → exec (.barv d a) s = .next s) ∧
      (s.fenceOpen q (lvl + 2) = false →
        (s.member q nm = none → exec (.barv d a) s = opnd) ∧
        (∀ m, s.member q nm = some m →
          (bitAt x.mask m = true → bitAt x.arr m = false → x.held = [] → ∃ t z, exec (.barv d a) s = .next t ∧
            KNext (u.setBar nm z) t q d (BitVec.ofNat 64 x.gen) ∧
            (x.arr ||| 2 ^ m ≠ x.mask → z = { x with arr := x.arr ||| 2 ^ m, rel := x.rel ++ tells }) ∧
            (x.arr ||| 2 ^ m = x.mask → z = { x with gen := (x.gen + 1) % 2 ^ 32, arr := 0, mask := x.pmask.getD x.mask, pmask := none, rel := [], told := x.told ++ (x.rel ++ tells) })) ∧
          (bitAt x.mask m = true → bitAt x.arr m = true → exec (.barv d a) s = .next ((u.setCtl q { u.ctl q with wait := true }).setBar nm
            { x with held := x.held ++ [{ q := q, d := d, member := m }] })) ∧
          (bitAt x.mask m = false → exec (.barv d a) s = .next (u.trap q { code := 6 })) ∧
          (∀ h, bitAt x.mask m = true → bitAt x.arr m = false → x.held = [h] → x.arr ||| 2 ^ m = x.mask → x.pmask = none →
            bitAt x.mask h.member = true → isCtl h.q.kind = true → ctlKey h.q ≠ ctlKey q → h.d ≠ 0 →
            ∃ t, exec (.barv d a) s = .next t ∧ t.getK h.q h.d = BitVec.ofNat 64 ((x.gen + 1) % 2 ^ 32) ∧ (t.ctl h.q).wait = false)))) ∧
    (y < 2 ^ 32 →
      (1 ≤ (cur.gen + 2 ^ 32 - y) % 2 ^ 32 ∧ (cur.gen + 2 ^ 32 - y) % 2 ^ 32 ≤ 2 ^ 31 → ∃ t, exec (.bwait d a b) s = .next t ∧
        KNext s t q d (if cur.abgen = some y then 1 else 0)) ∧
      (¬(1 ≤ (cur.gen + 2 ^ 32 - y) % 2 ^ 32 ∧ (cur.gen + 2 ^ 32 - y) % 2 ^ 32 ≤ 2 ^ 31) → exec (.bwait d a b) s = .next s)) ∧
    (y ≥ 2 ^ 32 → exec (.bwait d a b) s = opnd) ∧
    (lvl ≠ 0 → q.kind = .k → exec (.bmask a b) s = opnd) ∧
    (lvl = 0 ∨ q.kind ≠ .k → ∀ tr, s.placeCheck q y 128 = some tr → exec (.bmask a b) s = .next (s.trap q tr)) ∧
    (lvl = 0 ∨ q.kind ≠ .k → s.recCheck q y 128 = none →
      let mask := s.read q y 128
      (s.maskOk q lvl mask = true → ∃ t, exec (.bmask a b) s = .next t ∧
        KNext (s.setBar nm (if cur.arr = 0 then { cur with mask := mask, pmask := none } else { cur with pmask := some mask })) t q 0 0) ∧
      (s.maskOk q lvl mask = false → exec (.bmask a b) s = opnd)) ∧
    (∃ t v, exec (.bgen d a) s = .next t ∧ KNext s t q d (BitVec.ofNat 64 v) ∧ (cur.gen < 2 ^ 32 → v % 2 ^ 32 = cur.gen) ∧
      (cur.gen < 2 ^ 32 → v / 2 ^ 32 % 2 ^ 11 = countBits cur.arr % 2 ^ 11 ∧ (bitAt v 43 = cur.pmask.isSome) ∧
        (bitAt v 44 = (cur.mask == 0)) ∧ (bitAt v 45 = cur.abgen.isSome)))

/-- R375 to R377: each semaphore instruction acts on the named semaphore as one operation and answers the value before it: SEMADD adds and
saturates, SEMSUB subtracts where it can, SEMCAS replaces where the value matches, SEMWAIT subtracts, or peeks, once the value suffices, and
joins the waiters until it does, SEMRD reads. No other semaphore changes. A waiter that the new value satisfies completes with it.
That a waiting SEMWAIT has not issued until it is answered, and waits on while its quad is saved, is log entry 50, what an acquire makes perform log entry 30: the model's choices. -/
def Obligations.Semaphores : Prop :=
  ∀ (s : State) (d a b : BitVec 5) (qd n : Nat), isCtl s.cur.kind = true → s.semWord s.cur (s.getK s.cur a).toNat = .ok (qd, n) →
    let q := s.cur
    let v := s.sem qd n
    let x := (s.getK q b).toNat
    let u := s.acquire q
    let ws := sget [] (s.quad qd).waiters n
    let acts (base : State) (i : Instr) (v' : Nat) : Prop :=
      ∃ t m, exec i s = .next t ∧ KNext m t q d (BitVec.ofNat 64 v) ∧ m = { base with quads := m.quads } ∧ m.sem qd n = v' ∧
        (∀ c k, c ≠ qd ∨ k ≠ n → m.sem c k = s.sem c k)
    let opnd := Host.Outcome.next (s.trap q { code := 6 })
    (ws = [] →
      (x < 2 ^ 32 → acts u (.semadd d a b) (min (v + x) 0xFFFFFFFF) ∧ acts u (.semsub d a b) (if v ≥ x then v - x else v)) ∧
      acts u (.semcas d a b) (if v = x % 2 ^ 32 then x / 2 ^ 32 else v) ∧
      (x < 2 ^ 33 → (s.ctl q).wait = false → v ≥ x % 2 ^ 32 →
        acts s (.semwait d a b) (if x / 2 ^ 32 = 1 then v else v - x % 2 ^ 32))) ∧
    (∃ t, exec (.semrd d a) s = .next t ∧ KNext s t q d (BitVec.ofNat 64 v)) ∧
    (x ≥ 2 ^ 32 → exec (.semadd d a b) s = opnd ∧ exec (.semsub d a b) s = opnd) ∧ (x ≥ 2 ^ 33 → s.waitsSaved q = false → exec (.semwait d a b) s = opnd) ∧
    (s.waitsSaved q = true → exec (.semwait d a b) s = .next s) ∧
    (x < 2 ^ 33 → (s.ctl q).wait = false → v < x % 2 ^ 32 → ∃ t, exec (.semwait d a b) s = .next t ∧
      t = { s with quads := t.quads, ctls := t.ctls } ∧ t.ctl q = { s.ctl q with wait := true } ∧ t.sem qd n = v ∧
      sget [] (t.quad qd).waiters n = ws ++ [{ q := q, d := d, amount := x % 2 ^ 32, peek := decide (x / 2 ^ 32 = 1) }]) ∧
    (∀ w, x < 2 ^ 32 → ws = [w] → isCtl w.q.kind = true → ctlKey w.q ≠ ctlKey q →
      let v' := min (v + x) 0xFFFFFFFF
      ∃ t, exec (.semadd d a b) s = .next t ∧
        (v' ≥ w.amount → t.getK w.q w.d = (if w.d = 0 then 0 else BitVec.ofNat 64 v') ∧ (t.ctl w.q).wait = false ∧
          t.sem qd n = (if w.peek then v' else v' - w.amount) ∧ sget [] (t.quad qd).waiters n = []) ∧
        (v' < w.amount → t.sem qd n = v' ∧ sget [] (t.quad qd).waiters n = [w]))

/-- R36, R37, R161, R162, R164, R288, R323, R337, R384: a barge runs to its end a queued command of a RUNNING context once the range checkers
clear it, and a running one while its context is RUNNING or YIELDING, with every granule that it has yet to touch ENGINE. A copy between scratchpads without errors
writes the rows it read, at the addresses of its destination rows; it moves in pieces of at most 8 aligned bytes, so that it may stand
between two of them (log entry 34). An atomic combines the old value with its operand at its place and writes the old value to its source. The first command
of a chain, once done, leaves it, with its number, its pins and, under REL, its granules; one that faulted keeps them.
Which engines move in which state of a context is log entry 39, the model's choice. -/
def Obligations.BargeEvents : Prop :=
  ∀ (s : State) (m : BCmd),
    let md := s.ev.md
    let asid := s.ev.asid
    let c := s.ctx md asid
    let key := s.ev.j * 16 + s.ev.i
    let ch := c.chain key
    let at' (t : State) (st : CmdState) : State := t.setCtx md asid (c.setChain key { ch with cmds := setCmd ch.cmds m.seq st })
    let ahead : List Range := match m.st with
      | .reading got => (if m.ss then (m.pieces.drop got.length).map fun p => ((p.1 : Int), p.2) else []) ++ (if m.ds then m.dstRows else [])
      | .writing left _ => if m.ds then left.map fun x => ((x.1 : Int), 1) else []
      | _ => m.claim.rd ++ m.claim.wr
    let mayRun : Prop := s.allEngine ahead = true ∧ ((m.st = .queued ∧ c.st = .running ∧ s.clear m.claim = true) ∨
      (m.st.running = true ∧ (c.st = .running ∨ c.st = .yielding)))
    let cells (rows : RowData) : List (Nat × Byte) := (m.outRows rows).flatMap fun x => cellsOf x.1 x.2
    let read (rs : List (Nat × Nat)) : RowData := rs.map fun r => (memBytes s.mem r.1 r.2).map some
    let plainCopy : Prop := s.latent = [] ∧ s.bad = [] ∧ m.aop = 0 ∧ m.ss = true ∧ m.ds = true ∧ m.desc = none ∧
      ∀ r ∈ natRows m.srcRows ++ natRows m.dstRows ++ m.pieces,
        s.present (modOf (r.1 / 2 ^ 20)) = true ∧ s.reachable md (modOf (r.1 / 2 ^ 20)) = true
    (ch.cmds[s.ev.val]? = some m →
      (¬mayRun → exec .bargeCommandRun s = .next s) ∧
      (mayRun → plainCopy →
        (m.st = .queued → exec .bargeCommandRun s = .next (at' (s.write (cells (read (natRows m.srcRows)))) .done)) ∧
        (∀ got, m.st = .reading got →
          exec .bargeCommandRun s = .next (at' (s.write (cells (m.rowsOf (got ++ read (m.pieces.drop got.length))))) .done)) ∧
        (∀ left lost, m.st = .writing left lost → exec .bargeCommandRun s = .next (at' (s.write left) .done))) ∧
      (mayRun → m.st = .queued → s.latent = [] → s.bad = [] → m.aop ≠ 0 → m.dst % m.len = 0 → m.len = 4 ∨ m.len = 8 →
        ∀ h p, s.home md asid m.dst = some (h, p) → s.reachable md h = true → p.lineBad m.dst = false →
          let k := s.vkey md asid m.dst
          let old := memNat s.mem k m.len
          let new := (if m.aop = 1 then old + m.opnd else if m.aop = 2 then old &&& m.opnd else if m.aop = 3 then old ||| m.opnd
            else if m.aop = 4 then old ^^^ m.opnd else if m.aop = 5 then m.opnd else if old = m.cmpv then m.opnd else old) % 256 ^ m.len
          exec .bargeCommandRun s = .next (at' ((s.write (cellsOf k (leBytes m.len new))).write (cellsOf m.src (leBytes 8 old))) .done))) ∧
    (ch.cmds.find? (fun x => x.seq == m.seq) = some m → mayRun → plainCopy → ∀ s₀, s₀.advance = (.copy md asid key m.seq, s) →
      (m.st = .queued → step s₀ = .next (at' s (.reading []))) ∧
      (∀ got, m.st = .reading got →
        (∀ r, m.pieces[got.length]? = some r → step s₀ = .next (at' s (.reading (got ++ read [r])))) ∧
        (m.pieces.length ≤ got.length → step s₀ = .next (at' s (.writing (cells (m.rowsOf got)) [])))) ∧
      (∀ b left lost, m.st = .writing (b :: left) lost →
        let now := (b :: left).takeWhile fun x => x.1 / 8 == b.1 / 8
        step s₀ = .next (at' (s.write now) (if now.length = left.length + 1 then .done else .writing ((b :: left).drop now.length) lost)))) ∧
    (∀ rest, ch.cmds = m :: rest →
      let gone := s.setCtx md asid (c.setChain key { seq := m.seq, last := ch.last, cmds := rest })
      (m.st.live = true → exec .bargeRetire s = .next s) ∧
      (m.st.live = false → m.rel = false ∨ m.ds = false ∨ m.st ≠ .done → exec .bargeRetire s = .next (gone.unpin asid m.pins)) ∧
      (m.st = .done → m.rel = true → m.ds = true → m.pins = [] → ∃ t, exec .bargeRetire s = .next t ∧
        t = { gone with engine := t.engine } ∧
        ∀ g, sget false t.engine g = (if ∃ r ∈ m.dstRows, g ∈ granules r.1.toNat r.2 then false else sget false s.engine g)) ∧
      (∀ va p, m.st = .done → m.rel = false → m.pins = [(md, va)] → c.pages = [p] → p.va = va → p.poisoned = false →
        ∃ t, exec .bargeRetire s = .next t ∧ (t.ctx md asid).pages = [{ p with inf := p.inf - 1 }])) ∧
    (ch.cmds = [] → exec .bargeRetire s = .next s)

-- Pages (spec 18) --------------------------------------------------------------------------------------------------------------------------

/-- R386 to R390, R380: PGMAP answers its code, and where that is 0 maps the page that its record describes, with a frame of zeros. PGATTR replaces a page's
attributes and answers its old entry; PGQRY answers an entry, or 0 (a page that a waiting TLBINV took out is not FREE yet). SEAL and UNSEAL answer their
code, and where that is 0 seal and unseal the pages of the range; SEAL waits for writers and stores. R384, R389, R391: TLBINV of whole pages takes them
out of translation and waits while one is in flight; then they are FREE with their frames zeroed, those RETIRED spent, and it answers how many there were. A firmware page
in the range, or a page that straddles it, raises OPND_RANGE.
How frames are counted is log entry 42, what a waiting TLBINV has taken out and counts log entry 43: the model's choices. -/
def Obligations.PageInstructions : Prop :=
  (∀ (s : State) (d a b : BitVec 5), isCtl s.cur.kind = true →
      let q := s.cur
      let md := modOf q.unit
      let asid := s.asidOf q
      let c := s.ctxOf q
      let x := (s.getK q a).toNat
      let e := s.getK q b
      let opnd := Host.Outcome.next (s.trap q { code := 6 })
      let frame (va sz k : Nat) : Prop := pageKey md asid va ≤ k ∧ k < pageKey md asid va + sz
      (s.recCheck q x 32 = none →
        let w := s.words q x 4
        let va := (w.getD 0 0).toNat
        let p := pageOfWord va (w.getD 1 0) (w.getD 2 0).toNat
        let good := entryValid (w.getD 1 0) = true ∧ (w.getD 1 0).toNat / 2 ^ 44 = 0 ∧ va < 2 ^ 51 ∧ va % p.size = 0 ∧ p.bus % p.size = 0 ∧
          (p.tier = 2 ∨ p.bus = 0) ∧ w.getD 3 0 = 0
        let taken := ∃ y ∈ c.pages, y.va < va + p.size ∧ va < y.va + y.size
        let full := p.tier < 2 ∧ s.tierUsed md p.tier + p.size > (if p.tier = 0 then 576 * 2 ^ 30 else 2048 * 2 ^ 30)
        let noPeer := p.tier = 3 ∧ ¬(s.present p.peer = true ∧ ∃ h, (s.ctx p.peer asid).pageOf va = some h ∧ h.tier < 2)
        let code := s.mapCode md asid va p
        (¬good → exec (.pgmap d a) s = opnd) ∧
        (taken → code = 1) ∧ (¬taken → full → code = 2) ∧ (¬taken → noPeer → code = 3) ∧ (¬taken → ¬full → ¬noPeer → code = 0) ∧
        (good → code ≠ 0 → ∃ t, exec (.pgmap d a) s = .next t ∧ KNext s t q d (BitVec.ofNat 64 code)) ∧
        (good → code = 0 → ∃ t m, exec (.pgmap d a) s = .next t ∧ KNext m t q d 0 ∧ m = { s with mem := m.mem, ctxs := m.ctxs, latent := m.latent } ∧
          m.ctxOf q = { c with pages := p :: c.pages } ∧
          (∀ z, p.tier < 2 → frame va p.size z → memGet m.mem z = 0 ∧ z ∉ m.latent) ∧
          (∀ z, p.tier ≥ 2 ∨ ¬frame va p.size z → memGet m.mem z = memGet s.mem z ∧ (z ∈ m.latent ↔ z ∈ s.latent)))) ∧
      (∀ t, s.recCheck q x 32 = some t → exec (.pgmap d a) s = .next (s.trapRead q t x 32)) ∧
      (∀ p, c.entryOf x = some p →
        let n := pageOfWord p.va e p.bus
        let good := p.fw = false ∧ entryValid e = true ∧ e.toNat / 2 ^ 44 = 0 ∧ n.sz = p.sz ∧ n.tier = p.tier ∧ n.peer = p.peer
        (¬good → exec (.pgattr d a b) s = opnd) ∧
        (good → ∃ t, exec (.pgattr d a b) s = .next t ∧
          KNext (s.setCtxOf q (c.updPage p.va fun y => { y with r := n.r, w := n.w, x := n.x, hv := n.hv, ap := n.ap, sa := n.sa, pp := n.pp, hq := n.hq }))
            t q d p.word)) ∧
      (c.entryOf x = none → exec (.pgattr d a b) s = opnd) ∧
      (∀ p ∈ c.pages, p.covers x = true → ∃ y ∈ c.pages, c.entryOf x = some y ∧ y.covers x = true) ∧
      (x < 2 ^ 51 → (∀ p ∈ c.pages, p.covers x = false) → c.entryOf x = none) ∧
      (x < 2 ^ 52 → ∃ t, exec (.pgqry d a) s = .next t ∧ KNext s t q d (((c.entryOf x).map Page.word).getD 0)) ∧
      (x ≥ 2 ^ 52 → exec (.pgqry d a) s = opnd) ∧
      (rangeOk x e.toNat = true →
        let n := e.toNat
        let odd := x + n > 2 ^ 51 ∨ (∃ p ∈ c.pages, p.touches x n = true ∧ (p.fw = true ∨ p.inside x n = false)) ∨
          ((c.pages.filter fun p => p.touches x n && p.inside x n).map Page.size).sum ≠ n
        let ill := ∃ p ∈ c.pages, p.touches x n = true ∧ (p.poisoned = true ∨ p.retired = true)
        let answers (code : BitVec 64) : Prop := (∃ t, exec (.seal d a b) s = .next t ∧ KNext s t q d code) ∧
          ∃ t, exec (.unseal d a b) s = .next t ∧ KNext s t q d code
        let sealed (on : Bool) : State := s.setCtxOf q { c with pages := c.pages.map fun p => if p.inside x n then { p with sealed := on } else p }
        (odd → answers 3) ∧ (¬odd → ill → answers 5) ∧
        (¬odd → ¬ill → (∃ t, exec (.unseal d a b) s = .next t ∧ KNext (sealed false) t q d 0) ∧
          (s.writersOf md asid x n = true ∨ s.fenceOpen q 5 = true → exec (.seal d a b) s = .next s) ∧
          (s.writersOf md asid x n = false → s.fenceOpen q 5 = false → ∃ t, exec (.seal d a b) s = .next t ∧
            KNext (sealed true) t q d 0))) ∧
      (rangeOk x e.toNat = false → exec (.seal d a b) s = opnd ∧ exec (.unseal d a b) s = opnd)) ∧
  (∀ (s : State) (d a b : BitVec 5), isCtl s.cur.kind = true →
      let q := s.cur
      let md := modOf q.unit
      let c := s.ctxOf q
      let lo := (s.getK q a).toNat
      let n := (s.getK q b).toNat
      let live := c.pages.filter fun p => p.touches lo n
      let mine := c.pages.filter fun p => p.gone.contains q && p.inside lo n
      let freed (m : State) (ps : List Page) : Prop :=
        m = { s with mem := m.mem, ctxs := m.ctxs, latent := m.latent, transit := m.transit, hubs := m.hubs, ctls := m.ctls } ∧
        m.ctl q = { s.ctl q with wait := false } ∧ (∀ r, ctlKey r ≠ ctlKey q → m.ctl r = s.ctl r) ∧
        m.ctxOf q = { c with pages := c.pages.filter fun p => !(ps.any fun y => y.va == p.va) } ∧
        (∀ p ∈ ps, p.tier < 2 → ∀ z, pageKey md (s.asidOf q) p.va ≤ z → z < pageKey md (s.asidOf q) p.va + p.size → memGet m.mem z = 0) ∧
        (∀ k, sget 0 (m.hub md).spent k = sget 0 (s.hub md).spent k +
          (if k < 2 then ((ps.filter fun p => p.retired && p.tier == k).map Page.size).sum else 0)) ∧
        m.hub md = { s.hub md with spent := (m.hub md).spent } ∧ ∀ md', md' ≠ md → m.hub md' = s.hub md'
      (c.pages.map Page.va).Nodup → ((s.ctl q).wait = false →
        (rangeOk lo n = false ∨ lo + n > 2 ^ 51 ∨ (∃ p ∈ live, p.fw = true ∨ p.inside lo n = false) →
          exec (.tlbinv d a b) s = .next (s.trap q { code := 6 })) ∧
        (rangeOk lo n = true → lo + n ≤ 2 ^ 51 →
          (∀ p ∈ live, p.fw = false ∧ p.inside lo n = true ∧ (p.poisoned = true → p.retired = true ∨ p.inf > 0)) →
          ((∀ p ∈ live, p.inf = 0) →
            ∃ t m, exec (.tlbinv d a b) s = .next t ∧ KNext m t q d (BitVec.ofNat 64 live.length) ∧ freed m live) ∧
          ((∃ p ∈ live, p.inf > 0) →
            ∃ t, exec (.tlbinv d a b) s = .next t ∧ (t.ctl q).wait = true ∧ (t.ctl q).pos = (s.ctl q).pos ∧ t.mem = s.mem ∧
              ∀ va, lo ≤ va → va < lo + n → (t.ctxOf q).listedPage va = none))) ∧
      ((s.ctl q).wait = true →
        ((∃ p ∈ mine, p.inf > 0 ∨ (p.poisoned = true ∧ p.retired = false)) →
          exec (.tlbinv d a b) s = .next (s.setCtl q { s.ctl q with wait := true })) ∧
        ((∀ p ∈ mine, p.inf = 0 ∧ (p.poisoned = true → p.retired = true)) →
          ∃ t m, exec (.tlbinv d a b) s = .next t ∧ KNext m t q d (BitVec.ofNat 64 mine.length) ∧ freed m mine)))

/-- R307, R308, R383, R392, R416: a host request on pages visible to the host that give the access reads, writes, or reads and writes as one action the
bytes of their frames; one that reaches no such page is answered as unsupported and changes nothing else. Where a seal, be it of a PEER page on
another module, or a basin holds the page, the write is discarded with SEALWR. ROW_REMAP changes nothing but its counter. (Alignment and widths of an AtomicOp are the
model's, from PCIe: log entry 44.) -/
def Obligations.HostPages : Prop :=
  ∀ (s : State),
    let md := s.ev.md
    let asid := s.ev.asid
    let va := s.ev.addr
    let n := s.ev.val
    let w := s.ev.j
    let sz := s.ev.data.length
    let reply (t : State) (c : Completion) : State := t.setHub md { t.hub md with cpl := c }
    let clean (k : Nat) : Prop := ∀ l ∈ linesIn va k, ∀ m p, s.home md asid l = some (m, p) → p.lineBad l = false
    let shut (k : Nat) (x : Nat × Page) : Prop := x.2.basin ≠ none ∨ ∃ y ∈ s.ctxs, y.1 % 2048 = asid ∧ ∃ p ∈ y.2.pages,
      p.sealed = true ∧ p.va < va + k ∧ va < p.va + p.size ∧ (if p.tier = 3 then p.peer = x.1 else y.1 / 2048 = x.1)
    let opnd := s.ev.val
    let k := s.vkey md asid va
    let old := memNat s.mem k w
    let new := (if s.ev.i = 0 then old + opnd else if s.ev.i = 1 then opnd
      else if old = s.ev.val2 % 256 ^ w then opnd else old) % 256 ^ w
    s.present md = true → s.latent = [] →
    (s.hostReach md asid va n true false = none → exec .hostPageRead s = .next (reply s .unsupported)) ∧
    (∀ ps, s.hostReach md asid va n true false = some ps → clean n →
      exec .hostPageRead s = .next (reply s (.data ((s.vkeys md asid va n).map (memGet s.mem))))) ∧
    (s.hostReach md asid va sz false true = none → exec .hostPageWrite s = .next (reply s .unsupported)) ∧
    (∀ ps, s.hostReach md asid va sz false true = some ps →
      ((∀ p ∈ ps, ¬shut sz p) → exec .hostPageWrite s = .next (s.pageWrite md asid [(va, s.ev.data)]).1) ∧
      (∀ p rest, ps = p :: rest → shut sz p → exec .hostPageWrite s = .next (s.post p.1 0x104 (some asid) (srcHub 5) 0 va))) ∧
    (s.ev.i < 3 → w = 4 ∨ w = 8 ∨ (w = 16 ∧ s.ev.i = 2) → va % w = 0 →
      (s.hostReach md asid va w true true = none → exec .hostAtomic s = .next (reply s .unsupported)) ∧
      (∀ ps, s.hostReach md asid va w true true = some ps → (∀ p ∈ ps, ¬shut w p) → clean w →
        exec .hostAtomic s = .next (reply (s.write (cellsOf k (leBytes w new))) (.data (leBytes w old)))) ∧
      (∀ p rest, s.hostReach md asid va w true true = some (p :: rest) → shut w p → clean w →
        exec .hostAtomic s = .next (reply (s.post p.1 0x104 (some asid) (srcHub 5) 0 va) (.data (leBytes w old))))) ∧
    (∀ b rd wr, 0 < b → b ≤ 2 ^ 16 → (s.hostReach md asid va b rd wr = none ↔
      ∃ a, (a = va ∨ a = va + b - 1) ∧ ∀ x, s.homeNow md asid a = some x → ¬(x.2.hv = true ∧ (rd = true → x.2.r = true) ∧ (wr = true → x.2.w = true)))) ∧
    (∃ t, exec .rowRemap s = .next t ∧ t = s.setHub md { s.hub md with counts := (t.hub md).counts } ∧
      sget 0 (t.hub md).counts 8 = min (sget 0 (s.hub md).counts 8 + 1) (2 ^ 64 - 1))

-- The link (spec 21) -----------------------------------------------------------------------------------------------------------------------

/-- R402, R404, R406, R410, R411: COLL with a descriptor and a rank table that pass their checks records the session at its sequencer, JOINING; it is aborted
with cause 2 where it disagrees with those that have joined, or where its SID is that of a RUNNING session that does not name its sequencer, and an aborted session that awaits
it gives it its abort (log entry 61). COLWAIT waits for its session to end,
then answers its status and closes it; a SID that its sequencer has not open raises OPND_RANGE. Sessions of other contexts do not count. -/
def Obligations.CollectiveInstructions : Prop :=
  ∀ (s : State) (d a : BitVec 5), isCtl s.cur.kind = true →
    let q := s.cur
    let asid := s.asidOf q
    let ea := (s.getK q a).toNat
    let w := s.words q ea 8
    let n (i : Nat) : Nat := (w.getD i 0).toNat
    let mine := s.sessions.filter fun x => x.q == q && x.asid == asid
    let tab := (s.words q (cdRtab w) (cdNp w)).map BitVec.toNat
    let opnd := Host.Outcome.next (s.trap q { code := 6 })
    let op := cdOp w
    let sums := op = 0 ∨ op = 1 ∨ op = 4
    let own (x k : Nat) : Prop := (unitBase (quadOf q.unit * 8 + 4) ≤ x ∧ x + k ≤ unitBase (quadOf q.unit * 8 + 4) + 2 ^ 20) ∨
      (q.kind = .k ∧ unitBase q.unit ≤ x ∧ x + k ≤ unitBase q.unit + 0x80000)
    let good := n 2 / 2 ^ 49 = 0 ∧ field (n 3) 40 24 = 0 ∧ n 5 / 2 ^ 32 = 0 ∧ n 6 = 0 ∧ n 7 = 0 ∧ 1 ≤ cdCount w ∧ cdCount w ≤ 2 ^ 18 ∧
      cdRank w < cdNp w ∧ (∀ b, cdBz w = some b → (s.bar (.pod asid b)).mask ≠ 0) ∧ cdRtab w % 8 = 0 ∧
      (∃ f, fmtOfCode (cdF w 32 6) = some f ∧ cdSrc w % (f.width / 8) = 0 ∧ cdDst w % (f.width / 8) = 0 ∧
        (sums → cdRed w ≠ 3 ∧ (f = .f32 ∨ f = .bf16 ∨ f = .f16 ∨ f = .i32)) ∧ (¬sums → op < 5 ∧ cdRed w = 0 ∧ f ≠ .e8m0)) ∧
      own (cdSrc w) (cdSrcLen w) ∧ own (cdDst w) (cdDstLen w) ∧
      (Range.meets ((cdSrc w : Int), cdSrcLen w) ((cdDst w : Int), cdDstLen w) = false ∨
        ((op = 0 ∨ op = 2) ∧ cdSrc w = cdDst w ∧ cdSrcLen w = cdDstLen w))
    (∀ t, s.recCheck q ea 64 = some t → exec (.coll a) s = .next (s.trapRead q t ea 64)) ∧
    (s.recCheck q ea 64 = none → ¬good → exec (.coll a) s = opnd) ∧
    (s.recCheck q ea 64 = none → good → ∀ t, s.recCheck q (cdRtab w) (8 * cdNp w) = some t →
      exec (.coll a) s = .next (s.trapRead q t (cdRtab w) (8 * cdNp w))) ∧
    (s.recCheck q ea 64 = none → good → s.recCheck q (cdRtab w) (8 * cdNp w) = none →
      ((∃ e ∈ tab, s.rankOk q e = false) ∨ mine.length ≥ 8 ∨ (∃ x ∈ mine, cdSid x.desc = cdSid w) → exec (.coll a) s = opnd) ∧
      ((∀ e ∈ tab, s.rankOk q e = true) → mine.length < 8 → (∀ x ∈ mine, cdSid x.desc ≠ cdSid w) →
        let awaits := s.aborted.filter fun z => z.asid == asid && z.sid == cdSid w && z.ranks.contains q
        let same := s.sessions.filter fun x => x.asid == asid && cdSid x.desc == cdSid w && x.msg.isNone
        let joining := same.filter fun x => x.st == 0
        let open' := if joining.isEmpty then same.filter fun x => x.st == 1 && !x.names q else joining
        let joins (x : Session) : Prop := x.q = q ∧ x.asid = asid ∧ x.desc = w ∧ x.table = tab ∧ x.st = 0 ∧ x.since = s.clock
        (awaits = [] → (∀ x ∈ open', x.st = 0 ∧ cdShape x.desc = cdShape w ∧ x.table = tab ∧ cdRank x.desc ≠ cdRank w) →
          rankSeq (tab.getD (cdRank w) 0) = q → ∃ t x, exec (.coll a) s = .next t ∧
            KNext { s with ids := s.ids + 1, sessions := s.sessions ++ [x] } t q 0 0 ∧ joins x ∧ x.msg = none ∧
            (∀ y, open'.head? = some y → x.inst = y.inst) ∧ x.pause = (if ∀ y ∈ x :: s.peers x.inst, s.runs y = true then none else some s.clock)) ∧
        (∀ z rest, awaits = z :: rest → ∃ t m x, exec (.coll a) s = .next t ∧ KNext m t q 0 0 ∧ joins x ∧ x.inst = z.inst ∧ x.msg = some z.cause ∧
          m = { s with ids := s.ids + 1, sessions := s.sessions ++ [x], aborted := m.aborted }) ∧
        (awaits = [] → (∃ x ∈ open', x.st ≠ 0 ∨ cdShape x.desc ≠ cdShape w ∨ x.table ≠ tab ∨ cdRank x.desc = cdRank w) ∨
          rankSeq (tab.getD (cdRank w) 0) ≠ q → cdBz w = none →
          ∃ t, exec (.coll a) s = .next t ∧ (t.session q asid (cdSid w)).map (fun x => (x.st, x.cause)) = some (3, 2)))) ∧
    (∀ x, ea < 2 ^ 16 → s.session q asid ea = some x →
      (x.st < 2 → exec (.colwait d a) s = .next s) ∧
      (x.st ≥ 2 → ∃ t, exec (.colwait d a) s = .next t ∧ KNext { s with sessions := s.sessions.filter fun y => y.order != x.order } t q d
        (BitVec.ofNat 64 (if x.st = 3 then 1 + x.cause * 2 ^ 8 else 0)))) ∧
    (ea ≥ 2 ^ 16 ∨ s.session q asid ea = none → exec (.colwait d a) s = opnd)

/-- R403, R405, R406: once every rank has joined, with the sources ENGINE and no error, RUNNING begins and each participant's result is what R403 makes of
the sources in rank order: for OP SUM of i32 at two ranks, the wrapped sum; three ranks combine as (0, 1), then 2. A participant whose context RUNS and that holds its
destination writes its result, which returns to STREAM, and is DONE; nothing else is written. A time-out aborts with cause 3, sent to every other
participant, and an abort message ends its participant with its cause.
That the result is made once, when RUNNING begins, and that time stands still for a suspended participant are log entry 61, the model's choices. -/
def Obligations.CollectiveSessions : Prop :=
  ∀ (s : State),
    let sid := s.ev.i
    let asid := s.ev.asid
    let q := s.ev.q
    (∀ x rest srcs, s.sessions.filter (fun x => x.asid == asid && cdSid x.desc == sid && x.st == 0) = x :: rest →
      let ps := rankOrder (s.peers x.inst)
      (ps.length ≠ cdNp x.desc ∨ (∃ y ∈ ps, y.st ≠ 0 ∨ y.msg.isSome = true ∨ s.runs y = false ∨ s.allEngine y.claim.rd = false) →
        exec .collAllJoined s = .next s) ∧
      (ps.length = cdNp x.desc → (∀ y ∈ ps, y.st = 0 ∧ y.msg = none ∧ y.held = false ∧ s.runs y = true ∧ s.allEngine y.claim.rd = true ∧
        s.clear { y.claim with wr := [] } = true) →
        (s.latent = [] → s.bad = [] → (∀ y ∈ ps, s.present (modOf (cdSrc y.desc / 2 ^ 20)) = true ∧
          s.reachable (modOf y.q.unit) (modOf (cdSrc y.desc / 2 ^ 20)) = true) →
          s.readSources ps = (s, some (ps.map fun y => memBytes s.mem (cdSrc y.desc) (cdSrcLen y.desc)))) ∧
        (s.readSources ps = (s, some srcs) → ∃ t, exec .collAllJoined s = .next t ∧ t = { s with sessions := t.sessions } ∧
          t.sessions.length = s.sessions.length ∧ ∀ (i : Nat) (y : Session), s.sessions[i]? = some y → t.sessions[i]? = some (if y.inst = x.inst then
            { y with st := 1, out := (collResult y.desc srcs (cdRank y.desc)).1, flags := (collResult y.desc srcs (cdRank y.desc)).2 } else y)))) ∧
    (∀ x, s.session q asid sid = some x →
      let ends (st cause : Nat) : List Session := s.sessions.map fun y => if y.order = x.order then { y with st := st, cause := cause, msg := none } else y
      (x.st = 1 → x.msg = none → s.runs x = true → s.allEngine [((cdDst x.desc : Int), cdDstLen x.desc)] = true →
        s.clear { x.claim with rd := [] } = true → s.latent = [] → s.bad = [] → isCtl q.kind = true →
        ∃ t, exec .collSessionDone s = .next t ∧ t.mem = (if x.writes then memWrite s.mem (cellsOf (cdDst x.desc) x.out) else s.mem) ∧
          (t.ctl q).xst = (s.ctl q).xst ||| BitVec.ofNat 32 x.flags ∧ (t.session q asid sid).map Session.st = some 2 ∧ t.cores = s.cores ∧
          ∀ g, sget false t.engine g = (if g ∈ granules (cdDst x.desc) (cdDstLen x.desc) then false else sget false s.engine g)) ∧
      (x.st ≠ 1 ∨ x.msg ≠ none ∨ s.runs x = false → exec .collSessionDone s = .next s) ∧
      (x.st < 2 → x.msg = none → cdTmo x.desc ≠ 0 → s.clock ≥ x.since + cdTmo x.desc * 1000 →
        (∀ y ∈ s.peers x.inst, s.runs y = true) → cdBz x.desc = none →
        ∃ t, exec .collTimeout s = .next t ∧ (t.session q asid sid).map (fun y => (y.st, y.cause)) = some (3, 3) ∧
          ∀ y ∈ s.peers x.inst, y.order ≠ x.order → y.st < 2 → y.msg = none → { y with msg := some 3 } ∈ t.sessions) ∧
      (cdTmo x.desc = 0 ∨ s.clock < x.since + cdTmo x.desc * 1000 ∨ (∃ y ∈ s.peers x.inst, s.runs y = false) → exec .collTimeout s = .next s) ∧
      (x.msg = none → exec .collAbort s = .next s) ∧
      (∀ cause, x.msg = some cause → cause ≠ 1 → exec .collAbort s = .next { s with sessions := ends 3 cause }) ∧
      (x.msg = some 1 → exec .collAbort s = .next (({ s with sessions := ends 3 1 } : State).post (modOf q.unit) 0x115 (some x.asid) (srcOf q) 1
        (sid + x.bz.getD 0 % 2 ^ 32 * 2 ^ 32)))) ∧
    (∀ i j k : Nat, i < 2 ^ 32 → j < 2 ^ 32 → k < 2 ^ 32 → combine .i32 0 13 [i, j] = ((i + j) % 2 ^ 32, 0) ∧
      combine .i32 0 13 [i, j, k] = ((i + j + k) % 2 ^ 32, 0)) ∧
    (∀ (f : Fmt) (red x y z : Nat), (combine f red 13 [x, y, z]).1 = (combineOp f red (combineOp f red x y).1 z).1)

/-- R397, R398, R400, R412, R443: LNKST reads a port's status word, a route, or the host link; a replay and a lane failure are counted; training that ends in
time brings a port up with two lanes or one, and one that does not, or the loss of the last lane, fails the port. R341, R407, R413: TMRD answers the device time of its module. A time message that would move device time forward by 1 ms or more steps it to the
message's time; any other is slewed: device time stays where it is at once, and never moves by more than 200 parts per million of the time
that passes. What reaches the master moves the modules that follow it with it, and a module with a route to its master follows it and what that has yet to slew. TIMEHOLD makes every module that followed a master that has lost its host time, or
that it cannot reach, follow the lowest-numbered module it reaches whose host delivers time (log entry 63).
When routes exist is log entry 62, the model's choice; the rate field of the host link is free (log entry 10). -/
def Obligations.PortsAndTime : Prop :=
  (∀ (s : State) (d a : BitVec 5),
      let q := s.cur
      let x := (s.getK q a).toNat
      let md := s.ev.md
      let n := s.ev.i
      let p := s.port md n
      let ev (t : State) (kind pay : Nat) : State := t.post md kind none (srcHub (if n < 48 then 6 else 7)) n pay
      (isCtl q.kind = true →
        (x < 96 → ∃ t, exec (.lnkst d a) s = .next t ∧ KNext s t q d (BitVec.ofNat 64 (s.port (modOf q.unit) x).word)) ∧
        (0x100 ≤ x → x < 0x500 → x ≠ 0x200 → ∃ t, exec (.lnkst d a) s = .next t ∧ KNext s t q d
          (match if s.present (x - 0x100) then s.route (modOf q.unit) (x - 0x100) else none with
            | some r => BitVec.ofNat 64 (1 + r.1 % 16 * 2 ^ 4 + r.2 * 2 ^ 8)
            | none => 0)) ∧
        ((96 ≤ x ∧ x < 0x100) ∨ x ≥ 0x500 → exec (.lnkst d a) s = .next (s.trap q { code := 6 })) ∧
        (x = 0x200 → ∃ t, exec (.lnkst d a) s = .next t ∧ KNext s t q d (BitVec.ofNat 64 (s.hub (modOf q.unit)).hostLink))) ∧
      (p.up = true → exec .flitReplay s = .next ((s.setPort md n { p with retry := min (p.retry + 1) 0xFFFF }).count md 11 1)) ∧
      (p.st = 1 → s.clock ≤ p.since + 10 ^ 8 →
        (s.ev.val = 2 → exec .portup s = .next (ev (s.setPort md n { p with st := 2, l0 := true, l1 := true }) 0x110 2)) ∧
        (s.ev.val = 1 → s.ev.j < 2 →
          let p' : Port := { p with st := 3, l0 := s.ev.j != 0, l1 := s.ev.j != 1, lfail := min (p.lfail + 1) 0xFFFF }
          exec .portup s = .next (ev (ev ((s.setPort md n p').count md 10 1) 0x110 1) 0x111 s.ev.j))) ∧
      (p.st = 1 → s.clock < p.since + 10 ^ 8 → exec .portTrainTimeout s = .next s) ∧
      (p.st = 1 → s.clock ≥ p.since + 10 ^ 8 →
        exec .portTrainTimeout s = .next ((ev (s.setPort md n { p with st := 4, l0 := false, l1 := false }) 0x112 p.pmod).reroute s)) ∧
      (p.st = 2 → (s.ev.j = 0 ∧ p.l0 = true) ∨ (s.ev.j = 1 ∧ p.l1 = true) →
        let p' : Port := { p with st := 3, l0 := s.ev.j != 0, l1 := s.ev.j != 1, lfail := min (p.lfail + 1) 0xFFFF }
        exec .lanefail s = .next (ev ((s.setPort md n p').count md 10 1) 0x111 s.ev.j)) ∧
      (p.st = 3 → (s.ev.j = 0 ∧ p.l0 = true) ∨ (s.ev.j = 1 ∧ p.l1 = true) →
        let c := s.count md 10 1
        exec .lanefail s = .next ((ev (c.setPort md n { p with st := 4, l0 := false, l1 := false, lfail := min (p.lfail + 1) 0xFFFF })
          0x112 p.pmod).reroute c))) ∧
  (∀ (s : State) (d : BitVec 5),
      let q := s.cur
      let md := s.ev.md
      let v := s.ev.val
      let m := (s.hub md).master
      (isCtl q.kind = true → ∃ t, exec (.tmrd d) s = .next t ∧ KNext s t q d (BitVec.ofNat 64 (s.devTime (modOf q.unit)))) ∧
      let moved (t : State) (n x : Nat) (along : Prop) (more : Int) : Prop :=
        let steps := s.devTime n + 10 ^ 6 ≤ x ∨ (along ∧ s.devTime n ≤ x)
        (steps → t.devTime n = x ∧ (t.hub n).slew = more) ∧
        (¬steps → t.devTime n = s.devTime n ∧ (t.hub n).slew = (x : Int) - s.devTime n + more)
      let new (n : Nat) : Nat := ((List.range 1024).find? fun k => bitAt v k && s.present k && s.reachable n k).getD n
      let concerned (n : Nat) : Prop := n ∈ s.modules ∧ (s.hub n).master = md ∧ (s.ev.j = 1 ∨ s.present md = false ∨ s.reachable n md = false)
      (s.present md = true → v < 2 ^ 64 → md = m → ∃ t, exec .timeMessage s = .next t ∧ t = { s with hubs := t.hubs } ∧ moved t md v False 0 ∧
        (∀ n ∈ s.modules, n ≠ md → (s.hub n).master = md → s.reachable n md = true → moved t n v (s.devTime md + 10 ^ 6 ≤ v) 0) ∧
        (∀ n, n ≠ md → n ∉ s.modules ∨ (s.hub n).master ≠ md ∨ s.reachable n md = false → t.hub n = s.hub n)) ∧
      (s.present md = true → md ≠ m → s.present m = true → s.reachable md m = true → ∃ t, exec .timeMessage s = .next t ∧
        t = { s with hubs := t.hubs } ∧ (∀ n, n ≠ md → t.hub n = s.hub n) ∧
        moved t md (s.devTime m) False ((s.hub m).slew - slewed (s.hub m).slew (s.clock - (s.hub m).slewAt))) ∧
      (s.present md = false ∨ (md ≠ m ∧ (s.present m = false ∨ s.reachable md m = false)) → exec .timeMessage s = .next s) ∧
      (∀ (e : Int) (n : Nat), (slewed e n).natAbs ≤ e.natAbs ∧ (slewed e n).natAbs * 5000 ≤ n ∧
        (n ≥ e.natAbs * 5000 → slewed e n = e)) ∧
      (∃ t, exec .timehold s = .next t ∧ ∀ n, (t.hub n).master = (if concerned n then new n else (s.hub n).master)) ∧
      (∀ n, s.modules = [n] →
        (concerned n → exec .timehold s = .next
          ((s.setHub n { s.settleTime n with master := new n }).post n 0x116 none (srcHub 0) (new n) (s.devTime n))) ∧
        (¬concerned n → exec .timehold s = .next s)))

-- Basins (spec 22) -------------------------------------------------------------------------------------------------------------------------

/-- R421, R422: what the primary decides of a push: HALTED 7, a step that is past or abandoned 3, one too far ahead 4, a block or a count that
does not match 6, a contribution that is there already 2, a full buffer 5; otherwise it is taken, for the next step with code 1, for the current one
with code 0, and a CLOSED group that lacks nothing more is READY.
That the current step, once abandoned, is past, and what counts against a basin's 256, are log entry 66, the model's choices. -/
def Obligations.BasinPush : Prop :=
  ∀ (s : State) (g : PGroup) (step b ci ncm1 : Nat) (nf : Bool) (pay : List Byte),
    let r := s.push g step b ci ncm1 nf pay
    let old := if step = g.cur then g.now else g.next
    let blk : Blk := (old.lookup b).getD { nc := ncm1 + 1, got := [] }
    let c : Contrib := { ci := ci, nf := nf, pay := pay }
    (g.st = 5 → r = (7, g)) ∧
    (g.st ≠ 5 → step < g.cur ∨ (step = g.cur ∧ g.abandoned = true) → r.1 = 3 ∧ r.2.now = g.now ∧ r.2.next = g.next) ∧
    (g.st ≠ 5 → step ≥ g.cur + 2 → r.1 = 4 ∧ r.2.now = g.now ∧ r.2.next = g.next) ∧
    (g.st ≠ 5 → (step = g.cur ∧ g.abandoned = false) ∨ step = g.cur + 1 →
      (b ≥ grNblk g.words ∨ blk.nc ≠ ncm1 + 1 → r.1 = 6 ∧ r.2.now = g.now ∧ r.2.next = g.next) ∧
      (b < grNblk g.words → blk.nc = ncm1 + 1 →
        ((∃ y ∈ blk.got, y.ci = ci) → r.1 = 2 ∧ r.2.now = g.now ∧ r.2.next = g.next) ∧
        ((∀ y ∈ blk.got, y.ci ≠ ci) →
          ((step = g.cur + 1 ∨ blk.ready < ci) → s.basinLoad g.prim ≥ 256 → r.1 = 5 ∧ r.2.now = g.now ∧ r.2.next = g.next) ∧
          (step = g.cur + 1 → s.basinLoad g.prim < 256 → r.1 = 1 ∧ r.2.now = g.now ∧ r.2.st = g.st ∧
            r.2.next = sset g.next b { blk with got := c :: blk.got }) ∧
          (step = g.cur → blk.ready ≥ ci ∨ s.basinLoad g.prim < 256 → r.1 = 0 ∧ r.2.next = g.next ∧
            r.2.now = sset g.now b { blk with got := c :: blk.got } ∧ r.2.first = some (g.first.getD s.clock) ∧
            r.2.st = (if g.st = 2 ∧ r.2.missing = 0 then 3 else g.st)))))

/-- R415, R417, R420, R421, R423, R429, R431 to R434: the basin instructions. BPUSH reads its record and payload and answers the primary's code, once the buddy can
take what is kept; BCLOSE closes the current step; BSUB makes a subscription and waits for its first delivery, or cancels one; BRULE registers a
group where its code is 0, changes its hyperparameters for the next decision, or releases it; BSTAT reads an item. A group that is not registered
answers 8, and 0 to BSTAT; while the primary cannot be reached the stream waits. R97: a GID beyond the gauge table raises GAUGE_ID, before the codes (log entry 78).
That a waiting BSUB has not issued until it is answered is log entry 50, the corners of BSTAT and BSUB are log entry 66: the model's choices. -/
def Obligations.BasinInstructions : Prop :=
  ∀ (s : State) (d a b : BitVec 5) (g : PGroup),
    let q := s.cur
    let asid := s.asidOf q
    let md := modOf q.unit
    let x := (s.getK q a).toNat
    let y := (s.getK q b).toNat
    let near (g : PGroup) : Prop := s.present g.md = true ∧ g.lost ≠ some g.prim ∧ s.reachable md g.md = true
    let away (g : PGroup) : Prop := ∃ n, g.buddy = some n ∧ (s.linked g.md (n / 2) = false ∨ g.lost ≠ none)
    let ans (i : Instr) (m : State) (v : Nat) : Prop := ∃ t, exec i s = .next t ∧ KNext m t q d (BitVec.ofNat 64 v)
    let opnd := Host.Outcome.next (s.trap q { code := 6 })
    let stays (i : Instr) : Prop := exec i s = .next s
    (isCtl q.kind = true → s.recCheck q x 32 = none →
      let w := s.words q x 4
      let ci := grF w 2 0 12
      let ncm1 := grF w 2 12 12
      let pay := (w.getD 3 0).toNat
      let ok := grF w 0 21 43 = 0 ∧ grF w 1 52 12 = 0 ∧ grF w 2 24 40 = 0 ∧ ci ≤ ncm1 ∧ grPgid w ≠ 0
      let sz := (grGf g.words).width / 8
      (¬ok → exec (.bpush d a) s = opnd) ∧ (ok → s.pg asid (grPgid w) = none → ans (.bpush d a) s 8) ∧
      (ok → s.pg asid (grPgid w) = some g → s.payCheck q pay blockLen sz = none →
        (∀ i < blockLen, s.readCheck q (pay + sz * i) sz sz = none) →
        let r := s.push g (grF w 1 0 32) (grF w 1 32 20) ci ncm1 (grF w 0 20 1 == 1) (s.bytes q pay (blockLen * sz))
        (¬near g → stays (.bpush d a)) ∧ (near g → r.1 < 2 → away g → stays (.bpush d a)) ∧
        (near g → r.1 ≥ 2 ∨ ¬away g → ans (.bpush d a) (s.setPg r.2) r.1))) ∧
    (q.kind = .qu → x < 2 ^ 20 → y < 2 ^ 32 →
      (s.pg asid x = none → ans (.bclose d a b) s 8) ∧
      (s.pg asid x = some g → (¬near g → stays (.bclose d a b)) ∧ (near g →
        (g.st = 5 → ans (.bclose d a b) s 7) ∧ (g.st ≠ 5 → y ≠ g.cur → ans (.bclose d a b) s 2) ∧
        (g.st ≠ 5 → y = g.cur → g.st ≠ 1 → ans (.bclose d a b) s 1) ∧
        (g.st = 1 → y = g.cur → ans (.bclose d a b) (s.closeStep g) 0)))) ∧
    (q.kind = .qu → x ≥ 2 ^ 20 ∨ y ≥ 2 ^ 32 → exec (.bclose d a b) s = opnd) ∧
    (isCtl q.kind = true → (s.ctl q).wait = true → stays (.bsub d a b)) ∧
    (isCtl q.kind = true → (s.ctl q).wait = false → y > 64 → exec (.bsub d a b) s = opnd) ∧
    (isCtl q.kind = true → (s.ctl q).wait = false → 1 ≤ y → y ≤ 64 →
      (s.pg asid x = none → ans (.bsub d a b) s 8) ∧
      (s.pg asid x = some g → near g →
        (g.st = 5 → ans (.bsub d a b) s 7) ∧
        (g.st ≠ 5 → g.subs.lookup y = none → ans (.bsub d a b) s 9) ∧
        (∀ u, g.st ≠ 5 → g.subs.lookup y = some u → u.wait = none → ans (.bsub d a b) (s.setPg { g with subs := sdel g.subs y }) (y * 2 ^ 8)))) ∧
    (isCtl q.kind = true → (s.ctl q).wait = false → y = 0 → s.recCheck q x 32 = none →
      let w := s.words q x 4
      let f := (fmtOfCode (grF w 0 20 6)).getD .f32
      let n := grF w 1 20 20
      fmtOfCode (grF w 0 20 6) = some f → f = .f32 ∨ f = .bf16 ∨ f = .f16 ∨ (f.isB8 = true ∧ grGid g.words ≠ 0) →
      grF w 0 26 38 = 0 → grF w 1 40 24 = 0 → n ≠ 0 → grF w 1 0 20 + n ≤ grNblk g.words →
      s.payCheck q (w.getD 2 0).toNat (n * blockLen) (f.width / 8) = none → s.cause15 q (w.getD 3 0).toNat 8 = none →
      s.pg asid (grF w 0 0 20) = some g →
      (¬near g → stays (.bsub d a b)) ∧ (near g → g.st = 5 → ans (.bsub d a b) s 7) ∧
      (near g → g.st ≠ 5 → (∀ i ∈ span 1 64, g.subs.lookup i ≠ none) → ans (.bsub d a b) s 5) ∧
      (near g → g.st ≠ 5 → ∀ i, (span 1 64).find? (fun i => (g.subs.lookup i).isNone) = some i →
        ∃ t u, exec (.bsub d a b) s = .next t ∧
          t = ((s.weights g u.b0 u.nb).1.setPg { g with subs := sset g.subs i u }).setCtl q { s.ctl q with wait := true } ∧
          (s.latent = [] → (s.weights g u.b0 u.nb).1 = s) ∧
          u.q = q ∧ u.b0 = grF w 1 0 20 ∧ u.nb = n ∧ u.dst = (w.getD 2 0).toNat ∧ u.stw = (w.getD 3 0).toNat ∧ u.wait = some d ∧ u.lag = 0 ∧
          u.due.map Publication.out = some g.last)) ∧
    (q.kind = .qu →
      (y = 1 → x ≥ 2 ^ 20 → exec (.brule d a b) s = opnd) ∧
      (y = 1 → x < 2 ^ 20 → s.pg asid x = some g → near g → ans (.brule d a b) (s.unregister g) 0) ∧
      (y ≥ 3 → exec (.brule d a b) s = opnd) ∧
      (s.recCheck q x 384 = none → let w := s.words q x 48
        let far := ∃ n, (n = grPrim w / 2 ∨ n = grBuddy w / 2) ∧ (s.present n = false ∨ s.reachable md n = false)
        let full := s.basinHolds (grPrim w) ≥ 4096 ∨ s.basinHolds (grBuddy w) ≥ 4096
        let unfit := s.stateUnfit w asid (grPrim w / 2) = true ∨ s.stateUnfit w asid (grBuddy w / 2) = true
        let shut := grGid w ≠ 0 ∧ ((s.ctx (grPrim w / 2) asid).gauge (grGid w)).st ≠ 1
        let apart := ∃ z ∈ s.stepSet asid (grSsid w), z.cur ≠ grStep0 w
        let known := s.pg asid (grPgid w) ≠ none
        (y = 2 → s.pg asid (grPgid w) = some g → (¬near g → stays (.brule d a b)) ∧ (near g → g.st = 5 → ans (.brule d a b) s 7) ∧
          (near g → g.st ≠ 5 → away g → stays (.brule d a b)) ∧
          (near g → g.st ≠ 5 → ¬away g → ans (.brule d a b) (s.setPg { g with hypNext := some (grHyp w) }) 0)) ∧
        (y = 2 → s.pg asid (grPgid w) = none → ans (.brule d a b) s 8) ∧
        (y = 0 → grOk w = false → exec (.brule d a b) s = opnd) ∧
        (y = 0 → grOk w = true → grGid w ≥ 2 ^ (s.ctxOf q).gtsz → exec (.brule d a b) s = .next (s.trap q { code := 12 })) ∧
        (y = 0 → grOk w = true → grGid w < 2 ^ (s.ctxOf q).gtsz → (known → ans (.brule d a b) s 1) ∧ (¬known → far → ans (.brule d a b) s 5) ∧
          (¬known → ¬far → full → ans (.brule d a b) s 6) ∧ (¬known → ¬far → ¬full → unfit → ans (.brule d a b) s 2) ∧
          (¬known → ¬far → ¬full → ¬unfit → shut → ans (.brule d a b) s 3) ∧
          (¬known → ¬far → ¬full → ¬unfit → ¬shut → apart → ans (.brule d a b) s 4) ∧
          (¬known → ¬far → ¬full → ¬unfit → ¬shut → ¬apart → ans (.brule d a b) (s.register q w) 0 ∧
            (grGid w = 0 → ∃ z, (s.register q w).pg asid (grPgid w) = some z ∧ z.cur = grStep0 w ∧ z.last = 0 ∧ z.st = 1 ∧ z.prim = grPrim w ∧
              z.buddy = some (grBuddy w) ∧ z.hyp = grHyp w ∧ z.hypNext = none ∧ z.now = [] ∧ z.next = [] ∧ z.acked = true ∧ z.subs = []))))) ∧
    (isCtl q.kind = true → y < 10 →
      (s.pg asid x = none → ans (.bstat d a b) s 0) ∧
      (s.pg asid x = some g → near g → ans (.bstat d a b) s (if y = 0 then g.cur + g.st * 2 ^ 32 + g.last * 2 ^ 35 +
        (if g.buddy = none ∧ g.takeover = none then 2 ^ 37 else 0) + g.takeover.getD g.prim * 2 ^ 38 else if y = 8 then g.flg else sget 0 g.counts y)) ∧
      (s.pg asid x = some g → ¬near g → stays (.bstat d a b))) ∧
    (isCtl q.kind = true → y ≥ 10 → exec (.bstat d a b) s = opnd)

/-- R423 to R430, R435: a step time-out closes an OPEN step, and in CLOSED reports what is missing and runs again. Once every group of a step set is READY at one
step, the decision reaches all: 3 where the group has abandoned the step, else 2 where a complete block of any group is NF, 1 otherwise. The
buddy runs a published step on its mirror, and its acknowledgement lets the primary go on. A failover lets the buddy act with no buddy of its own; once it has published the step, or
halted, it is the primary and BFAILOVER is posted. The loss of a buddy leaves none. A block that cannot be committed HALTS its group. A delivery writes its elements and its status word, and completes the BSUB that
waits for it; while a quad it writes to is not the context's, it waits.
That a failover and a decision are one step each is log entry 46; TMO of a CLOSED step, the spare frames and what a delivery carries are log entry 66:
the model's choices. -/
def Obligations.BasinEvents : Prop :=
  ∀ (s : State) (g : PGroup) (bd : Nat),
    let asid := s.ev.asid
    let closed := if g.missing = 0 then s.setPg { g with st := 3 }
      else if grSkip g.words then
        (s.pgEvent g 0x121 0 g.cur).setPg { g with st := 3, now := [], abandoned := true, counts := sset g.counts 9 (min (sget 0 g.counts 9 + 1) 0xFFFFFFFF) }
      else s.setPg { g with st := 2, first := some s.clock }
    (s.pg asid s.ev.i = some g →
      (∀ at', g.first = some at' → grTmo g.words ≠ 0 → s.clock ≥ at' + 1000 * grTmo g.words → s.present g.md = true → g.lost ≠ some g.prim →
        (g.st = 1 → exec .basinStepTmo s = .next closed) ∧
        (g.st = 2 → exec .basinStepTmo s = .next ((s.pgEvent g 0x120 (min g.missing 0xFFFF) g.cur).setPg { g with first := some s.clock }))) ∧
      (g.first = none ∨ grTmo g.words = 0 → exec .basinStepTmo s = .next s) ∧
      (g.buddy = some bd →
        let heir := { g with prim := bd, buddy := none, spare := [], job := none, acked := true, lost := none, takeover := some g.prim }
        let alone := { g with buddy := none, job := none, acked := true, lost := none }
        (∀ j, g.job = some j → s.linked g.md (bd / 2) = true → g.lost = none →
          (j.out ≠ 1 → exec .buddyMirrorStep s = .next (s.setPg { g with job := none })) ∧
          (j.out = 1 → exec .buddyMirrorStep s = .next ((s.mirrorStep g bd true).1.setPg { g with job := none }))) ∧
        (g.acked = false → g.job = none → s.linked g.md (bd / 2) = true → g.lost = none →
          exec .basinBuddyAck s = .next (s.commitGroup { g with acked := true })) ∧
        (g.acked = true ∨ g.job ≠ none ∨ s.linked g.md (bd / 2) = false ∨ g.lost ≠ none → exec .basinBuddyAck s = .next s) ∧
        (s.present (bd / 2) = true → g.lost ≠ some bd → s.linked (bd / 2) g.md = false ∨ g.lost ≠ none ∨ s.ev.val = 1 → g.job = none →
          exec .bfailover s = .next (s.commitGroup heir)) ∧
        (s.present g.md = true → g.lost ≠ some g.prim → s.linked g.md (bd / 2) = false ∨ g.lost ≠ none ∨ s.ev.val = 1 →
          exec .bnobuddy s = .next ((s.pgEvent alone 0x125 bd 0).commitGroup alone)) ∧
        (s.linked (bd / 2) g.md = true → s.linked g.md (bd / 2) = true → g.lost = none → s.ev.val ≠ 1 →
          exec .bfailover s = .next s ∧ exec .bnobuddy s = .next s)) ∧
      (∀ x p, g.subs.lookup s.ev.j = some x → x.due = some p →
        let held := s.holdsUnit g.asid x.q.unit = true ∧ s.holdsUnit g.asid (x.dst / 2 ^ 20) = true ∧ s.holdsUnit g.asid (x.stw / 2 ^ 20) = true
        let able := s.linked g.md (modOf x.q.unit) = true ∧ g.lost ≠ some g.prim ∧ held ∧ s.allEngine [((x.dst : Int), x.len)] = true
        (¬able → exec .subscriptionDelivery s = .next s) ∧ (able → s.latent = [] → s.bad = [] →
          let y := x.content g p
          let word := p.step + p.out * 2 ^ 32 + wrapNat 8 y.2 * 2 ^ 40 + x.lag * 2 ^ 48
          ∃ t, exec .subscriptionDelivery s = .next t ∧
            t.mem = memWrite (memWrite s.mem (cellsOf x.dst y.1)) (cellsOf x.stw (leBytes 8 word)) ∧
            t.basin = sset s.basin (pgKey g.asid g.pgid) { g with subs := sset g.subs s.ev.j { x with due := none, lag := 0, wait := none } } ∧
            (∀ n, sget false t.engine n = (if n ∈ granules x.dst x.len then false else sget false s.engine n)) ∧
            (∀ e, x.wait = some e → isCtl x.q.kind = true → (t.ctl x.q).wait = false ∧
              t.getK x.q e = (if e = 0 then 0 else BitVec.ofNat 64 (s.ev.j * 2 ^ 8))) ∧
            (x.wait = none → t.ctls = s.ctls)))) ∧
    (s.closeStep g = closed) ∧
    (let gs := s.stepSet asid s.ev.i
     let ready (g₀ : PGroup) : Prop := ∀ x ∈ gs, x.st = 3 ∧ x.cur = g₀.cur ∧ s.present x.md = true ∧ x.lost ≠ some x.prim ∧ s.reachable g₀.md x.md = true
     (gs = [] → exec .basinDecision s = .next s) ∧
     (∀ g₀ rest, gs = g₀ :: rest → (¬ready g₀ → exec .basinDecision s = .next s) ∧
       (ready g₀ → ∀ nf, (nf = true ↔ ∃ x ∈ gs, ∃ y ∈ x.now, y.2.full = true ∧ (y.2.reduce (grGf x.words)).2 = true) →
         exec .basinDecision s = .next (gs.foldl (fun s x => s.commitGroup { x with
           st := 4, hyp := x.hypNext.getD x.hyp, hypNext := none, decided := some (if x.abandoned then 3 else if nf then 2 else 1) }) s)))) ∧
    (g.decided = none ∨ g.acked = false → s.commitGroup g = s.setPg g) ∧
    let ends (m : State) (z : PGroup) : State := match z.takeover with
      | none => m.setPg z
      | some _ => (m.setPg { z with takeover := none }).pgEvent z 0x124 z.prim 0
    (∀ s' g', g.decided = some 1 → g.acked = true → grNblk g.words = 1 → s.commitBlock g 0 = (s', g', false) →
      s.commitGroup g = ends s' { g' with st := 5, decided := none }) ∧
    (∀ out, g.decided = some out → out ≠ 1 → g.acked = true → grGid g.words = 0 → s.latent = [] → ∃ g', s.commitGroup g = ends s g' ∧ g'.takeover = g.takeover ∧ g'.prim = g.prim ∧
      g'.cur = (g.cur + 1) % 2 ^ 32 ∧ g'.last = out ∧ g'.st = 1 ∧ g'.now = g.next ∧ g'.next = [] ∧ g'.decided = none ∧ g'.abandoned = false)

-- Power, heat, the mailbox (spec 24) ------------------------------------------------------------------------------------------------

/-- R439 to R444: the start sequence of a module (power applied, FWGO, the image's check, repair, links, power removed), what heat and a failed core do, STSTAT, and
the four mailbox commands. CODE and PAYLOAD of THERMAL and REPAIR are free values of the model (log entry 11); what a retrained port does to routes is log entry 62.
When time starts at READY is log entry 3, the end of verification and its CAUSE log entry 67, the shutdown temperature as ev.val = 1 log entry 68, the
parameters of REPAIR_DONE log entry 69, what POWER_REMOVED takes log entry 70, a bad mailbox operand log entry 71: the model's choices; power draw and
keys are free (log entries 13 and 14), the signature schemes those of their standards (log entry 14); whose time a module takes is log entry 63. -/
def Obligations.PowerAndStart : Prop :=
  (∀ s : State,
    let md := s.ev.md
    let h := s.hub md
    let fw := h.power = .repair ∨ h.power = .links ∨ h.power = .ready ∨ h.power = .failed
    let hot := (s.killAll md).post md 0x130 none (srcHub 0) (Config.eventCode 0x130 s.tick) (Config.eventPayload 0x130 s.tick)
    let dark := hot.setHub md { hot.hub md with dark := true, hot := false }
    (md < 1024 → h.power = .off → exec .powerApplied s = .next (s.setHub md { Hub.init with power := .waitfw })) ∧
    (h.power ≠ .off → exec .powerApplied s = .next s) ∧
    (h.power = .waitfw → exec .fwgo s = .next (s.setHub md { h with power := .verify, fwimg := (h.fwaddr, h.fwsize) })) ∧
    (h.power ≠ .waitfw → exec .fwgo s = .next s) ∧
    (h.power = .repair → s.ev.i = 3 ∨ s.ev.i = 4 → exec .repairDone s = .next (s.setHub md { h with power := .failed, cause := s.ev.i })) ∧
    (h.power = .repair → s.ev.i ≠ 3 → s.ev.i ≠ 4 → s.ev.j ≤ 64 → exec .repairDone s = .next (s.setHub md
      { h with power := .links, counts := sset h.counts 9 s.ev.j, ports := trainPorts md s.clock })) ∧
    (h.power ≠ .repair → exec .repairDone s = .next s) ∧
    (h.power ≠ .links ∨ (∃ x ∈ h.ports, x.2.st = 1) → exec .linksDone s = .next s) ∧
    (h.power = .links → (∀ x ∈ h.ports, x.2.st ≠ 1) → h.evheld = [] → h.dropped = 0 →
      let m := match s.modules.find? fun n => n != md && s.reachable md n with
        | some n => (s.hub n).master
        | none => Config.timeMaster
      let up := (s.setHub md { h with power := .ready, seqNo := 0, master := m }).setHostQ md 0 { HostQ.init with st := 1 }
      (m = md ∨ up.present m = false ∨ up.reachable md m = false → exec .linksDone s = .next up) ∧
      (m ≠ md → up.present m = true → up.reachable md m = true → exec .linksDone s = .next (up.setHub md
        { up.hub md with toff := (s.hub m).toff, slew := (s.hub m).slew, slewAt := (s.hub m).slewAt }))) ∧
    (md < 1024 → h.power ≠ .off → ∃ t, exec .powerRemoved s = .next t ∧ t.hub md = .init ∧ (∀ asid, asid < 2048 → t.ctx md asid = .init) ∧
      (∀ q : SeqId, modOf q.unit = md → t.ctl q = .init) ∧ (∀ u, modOf u = md → t.core u = .init) ∧
      (∀ x ∈ t.groups, x.2.md ≠ md) ∧ (∀ x ∈ t.sessions, modOf x.q.unit ≠ md) ∧ (∀ c ∈ t.mem, ownKey md c.1 = false)) ∧
    (h.power = .off → exec .powerRemoved s = .next s) ∧
    (fw → h.dark = false →
      (s.ev.val ≠ 1 → h.hot = false → exec .coolantOutOfRange s = .next (s.setHub md { h with hot := true, hotSince := s.clock })) ∧
      (s.ev.val ≠ 1 → h.hot = true → exec .coolantOutOfRange s = .next s) ∧
      (s.ev.val = 1 → exec .coolantOutOfRange s = .next dark)) ∧
    (h.hot = true → exec .coolantBackInRange s = .next (s.setHub md { h with hot := false })) ∧
    (fw → h.hot = true → s.clock ≥ h.hotSince + 10 ^ 10 → exec .thermal s = .next dark) ∧
    (s.clock < h.hotSince + 10 ^ 10 → exec .thermal s = .next s)) ∧
  (∀ (s₀ s : State) (md : Nat),
    let h := s.hub md
    let img := memBytes s.mem (hostKey md h.fwimg.1) h.fwimg.2
    let code := match h.power with
      | .off => 0 | .waitfw => 1 | .verify => 2 | .repair => 3 | .links => 4 | .ready => 5 | .failed => 6
    (s₀.advance = (.verify md, s) →
      (h.power ≠ .verify → step s₀ = .next s) ∧
      (∀ c, h.power = .verify → imageBad img = some c → (c = 1 ∨ c = 2) ∧ step s₀ = .next (s.setHub md { h with power := .waitfw, cause := c })) ∧
      (h.power = .verify → imageBad img = none →
        step s₀ = .next (s.setHub md { h with power := .repair, fwdigest := sha384 img, keys := Config.firmwareKeys img }))) ∧
    (s₀.advance = (.hostRead md 0x218, s) → h.power ≠ .off →
      step s₀ = .next (s.setHub md { h with cpl := .data (leBytes 8 (code + h.cause * 2 ^ 8)) }))) ∧
  (∀ s : State,
    let u := s.ev.i
    let md := modOf u
    let h := s.hub md
    let gid := (s.quad (quadOf u)).grp
    let asid := (s.group gid).asid
    let m := s.setHub md { h with broken := u :: h.broken }
    let repair (x : State) (a : Option Nat) := x.post md 0x131 a (srcHub 0) (Config.eventCode 0x131 s.tick) (Config.eventPayload 0x131 s.tick)
    (u ∈ h.broken → exec .coreFailure s = .next s) ∧
    (s.present md = true → u % 8 < 4 → u ∉ h.broken →
      (gid = 0 → exec .coreFailure s = .next (repair m none)) ∧
      (gid ≠ 0 → (s.ctx md asid).st.killable = true → exec .coreFailure s = .next (repair (m.startKill md asid 4 0) (some asid))) ∧
      (gid ≠ 0 → (s.ctx md asid).st.killable = false → exec .coreFailure s = .next (repair m (some asid))))) ∧
  (∀ s : State,
    let md := s.ev.md
    let h := s.hub md
    let n := h.mbopnd
    let done (m : State) (v : Nat) := Host.Outcome.next (m.setHub md { m.hub md with mbcmd := none, mbst := 0, mbrsp := v })
    let bad := Host.Outcome.next (s.setHub md { h with mbcmd := none, mbst := 2 * 2 ^ 8 })
    let p := s.port md n
    let p' : Port := { p with st := 1, l0 := false, l1 := false, since := s.clock }
    let reply := s.attestation md (memBytes s.mem (hostKey md n) 64)
    let rsa := deviceRsa md
    let slh := deviceSlh md
    let digest := sha384 (reply.take 128)
    let rnd := Config.signRandom s.tick
    (h.mbcmd = some 1 → n ≥ 96 → exec .retrainPort s = bad) ∧
    (h.mbcmd = some 1 → n < 96 → (p.st = 4 → exec .retrainPort s = done (s.setPort md n p') p'.word) ∧
      (p.st = 3 → ∃ v, exec .retrainPort s = done ((s.setPort md n p').reroute s) v) ∧
      (p.st ≠ 3 → p.st ≠ 4 → exec .retrainPort s = done s p.word)) ∧
    (h.mbcmd = some 2 → exec .readErrorCounter s = if n > 12 then bad else done s (sget 0 h.counts n)) ∧
    (h.mbcmd = some 3 → exec .attest s = done (s.write (cellsOf (hostKey md n) reply)) 16384) ∧
    (reply.length = 16384 ∧ reply.take 64 = memBytes s.mem (hostKey md n) 64 ∧ (reply.drop 64).take 48 = padTo 48 h.fwdigest ∧
      (reply.drop 112).take 8 = leBytes 8 (sget 0 h.counts 9) ∧ (reply.drop 120).take 8 = leBytes 8 md ∧
      (reply.drop 128).take 8 = (sha384 (Config.rsaBytes rsa.n rsa.e)).take 8 ∧ (reply.drop 136).take 8 = (sha384 slh.pub).take 8 ∧
      (reply.drop 144).take 384 = rsa.sign digest rnd.1 ∧ reply.drop 528 = padTo 15856 (slh.sign digest rnd.2)) ∧
    (h.mbcmd = some 4 → exec .readPower s = done s (Config.powerDraw (s.tick * 1024 + md) % 2 ^ 64)) ∧
    (h.mbcmd = none → exec .retrainPort s = .next s ∧ exec .readErrorCounter s = .next s ∧ exec .attest s = .next s ∧ exec .readPower s = .next s))

-- Loads (spec 07) --------------------------------------------------------------------------------------------------------------------

/-- R172 to R176, R180, R181: a load takes one entry of the load queue, with the address of every position, or its fill value under BCK, and with
its map; PA's token follows. LD and LDS read a window, LDI and LGB the coordinates of a list, LRRD the rows of a pointer list. The first
element that fails its check traps. R288, R289, R294: an element arrives by itself, or when LQ_ENTRY_PRESENT fixes the value of every position, and no read of L
overtakes an earlier load that has yet to read the same bytes. R401: an entry on a module that cannot be reached traps.
When an element is read is log entry 30, what an earlier entry keeps once a later one has read a location of it log entry 19: the model's choices. -/
def Obligations.Loads : Prop :=
  (∀ (s : State) (tok : Tok) (a b : BitVec 4) (desc : BitVec 10) (ix : BitVec 2) (d : Desc),
    let q := s.cur
    let c := s.core q.unit
    let o := originOf (s.getA q a.toNat) (s.getA q (a.toNat + 1)) d.rank
    let list := (s.getA q b.toNat).toNat
    let index (x : Nat) : Int := signed 32 (s.read q (list + x) 4)
    let row (j : Nat) : Nat := j / 2 ^ d.lw
    let col (j : Nat) : Nat := j % 2 ^ d.lw
    let addr (p : Pt) : Int := (d.base : Int) + d.size * ((List.range d.rank).map fun i => p.get i * d.str.get i).sum
    let win (st : Int × Int) (j : Nat) : Pt :=
      Q4.mk' fun i => o.get i + (if i = d.ra then (row j : Int) * st.1 else 0) + (if i = d.qa then (col j : Int) * st.2 else 0)
    let plain (f : Nat → Pt) : List (Pt × Int) := (List.range d.n).map fun j => (f j, addr (f j))
    let cds (f : Nat → Pt) : MapV := d.listMap ((List.range d.n).map fun j => (f j).coord)
    let block (step off j : Nat) : Pt := (o.set d.ra (index (step * row j + off))).set d.qa (index (step * row j + off + 4) + col j)
    let lgbPt := block 8 0
    let lrrdPt := block 16 8
    let xs : List (Pt × Int) := (List.range d.n).map fun j => (lrrdPt j, (s.read q (list + 16 * row j) 8 : Int) + d.size * col j)
    let ldiPt (j : Nat) : Pt := o.set ix.toNat (index (4 * j))
    let rs := stepsOf (s.getA q b.toNat)
    let out (x : Pt × Int) : Bool := d.bck && !d.inBounds x.1
    let owed (ws : List (Nat × Nat)) : Prop := ∃ e ∈ c.lq, e.present = false ∧ ∃ w ∈ ws, ∃ i y,
      e.plan[i]? = some (some y) ∧ sfind e.got i = none ∧ w.1 < y + e.width / 8 ∧ y < w.1 + w.2
    let loads (i : Instr) (ps : List (Pt × Int)) (map : MapV) : Prop :=
      (c.lq.length < 32 → (∀ x ∈ ps, out x = true ∨ s.readElem q x.2 d.size = none) → ∃ t e, exec i s = .next t ∧
        LsDone tok true (({ s with ids := s.ids + 1 } : State).setCore q.unit { c with lq := c.lq ++ [e] }) t q (.next (s.pc q)) ∧
        e = { id := s.ids, pc := s.pc q, present := false, val := 0, map := map, width := d.fmt.width
              plan := ps.map fun x => if out x then none else some x.2.toNat, fill := d.fillVal, got := [], pa := lsPa .l tok }) ∧
      (c.lq.length < 32 → ∀ n x tr, ps[n]? = some x → out x = false → s.readElem q x.2 d.size = some tr →
        (∀ y ∈ ps.take n, out y = true ∨ s.readElem q y.2 d.size = none) → exec i s = .next (s.trapElem q tr d.size)) ∧
      (c.lq.length ≥ 32 → exec i s = .next s)
    let listOk (ws : List (Nat × Nat)) : Prop := ∀ w ∈ ws, s.readElem q (w.1 : Int) w.2 = none
    let gathers (i : Instr) (ws : List (Nat × Nat)) (ps : List (Pt × Int)) (map : MapV) : Prop :=
      (listOk ws → ¬owed ws → loads i ps map) ∧ (c.lq.length < 32 → listOk ws → owed ws → exec i s = .next s)
    LsReady s .l tok → s.desc q desc.toNat = .ok d →
      loads (.ld tok a desc) (plain (win d.unitSteps)) (d.windowMap o d.unitSteps) ∧
      loads (.lds tok a b desc) (plain (win rs)) (d.windowMap o rs) ∧
      (ix.toNat < d.rank → gathers (.ldi tok a b desc ix) (d.indexWords list) (plain ldiPt) (cds ldiPt)) ∧
      (c.lq.length < 32 → ix.toNat ≥ d.rank → exec (.ldi tok a b desc ix) s = .next (s.trapElem q { code := 6 } 8)) ∧
      (d.ra ≠ d.qa → gathers (.lgb tok a b desc) (d.rowWords list) (plain lgbPt) (cds lgbPt)) ∧
      (d.ra ≠ d.qa → gathers (.lrrd tok a b desc) (d.ptrWords list) xs (cds lrrdPt)) ∧
      (c.lq.length < 32 → d.ra = d.qa → exec (.lgb tok a b desc) s = .next (s.trapElem q { code := 6 } 8) ∧
        exec (.lrrd tok a b desc) s = .next (s.trapElem q { code := 6 } 8))) ∧
  (∀ (s : State) (e : LEntry) (l r : List LEntry),
    let u := s.ev.i
    let q : SeqId := { unit := u, kind := .l }
    let c := s.core u
    let fixed (w : List (Nat × Nat)) : List LEntry := l.map fun x => w.foldl (fun y z => y.fix z.1 z.2) x
    let value (j ad : Nat) : Nat := ((sfind e.got j).getD (s.read q ad (e.width / 8))) % 2 ^ e.width
    let owed (ad : Nat) : Prop := ∃ x ∈ l, x.present = false ∧ ∃ i y, x.plan[i]? = some (some y) ∧ sfind x.got i = none ∧
      ad < y + x.width / 8 ∧ y < ad + e.width / 8
    c.lq = l ++ e :: r → (∀ x ∈ l ++ r, x.id ≠ e.id) → e.present = false → (s.ctl q).flows 1 = true →
      (s.ev.j = l.length → s.entryLost u e = false →
        ((∃ j ad, e.plan[j]? = some (some ad) ∧ sfind e.got j = none ∧ owed ad) → exec .lqEntryPresent s = .next s) ∧
        ((∀ j ad, e.plan[j]? = some (some ad) → sfind e.got j = none → ¬owed ad) → e.width ∈ [8, 16, 32] → e.plan.length * e.width = 2048 →
          ∃ t v, exec .lqEntryPresent s = .next t ∧ SameBytes s t ∧
            t = ({ s with transit := t.transit } : State).setCore u
              ({ c with lq := fixed e.ranges ++ { e with present := true, val := v } :: r }.pushOpt e.pa (s.tells q 1)) ∧
            ∀ j x, e.plan[j]? = some x → (v.extractLsb' (e.width * j) e.width).toNat = match x with
              | some ad => value j ad
              | none => e.fill % 2 ^ e.width)) ∧
      (s.ev.j = l.length → l = [] → s.entryLost u e = true → ∃ ad, some ad ∈ e.plan ∧
        (s.present (modOf (ad / 2 ^ 20)) = false ∨ s.reachable (modOf u) (modOf (ad / 2 ^ 20)) = false) ∧
        exec .lqEntryPresent s = .next ((s.setCore u { c with lheld := some (e.id, e.pc, c.lpos) }).stopAt q { code := 5, addr := ad }
          (BitVec.ofNat 64 e.pc))) ∧
      (∀ s₀ j ad, s₀.advance = (.element u l.length j, s) → e.plan[j]? = some (some ad) → s.entryLost u e = false → sfind e.got j = none →
        (owed ad → step s₀ = .next s) ∧
        (¬owed ad → ∃ t, step s₀ = .next t ∧ SameBytes s t ∧ t = ({ s with transit := t.transit } : State).setCore u
          { c with lq := fixed [(ad, e.width / 8)] ++ { e with got := sset e.got j (s.read q ad (e.width / 8)) } :: r }))) ∧
  (∀ (s : State) (e : LEntry), (s.core s.ev.i).lq[s.ev.j]? = some e → e.present = true → exec .lqEntryPresent s = .next s)

/-- R182 to R184, R190: FBOPEN takes a header into its cursor and refuses a bad one; FBNEXT takes the entry of the next n elements and moves the
cursor on; FBEND branches once the cursor is ENDED; FBCLOSE closes it. A closed cursor traps at FBNEXT and FBEND. LMARK waits for its
paired SMARK. R289, R294: a header or an index that an earlier load has yet to read waits for it.
That a void position of FBNEXT holds the fill is log entry 26, the model's choice. -/
def Obligations.Fibres : Prop :=
  ∀ (s : State) (tok : Tok) (fb : BitVec 3) (b m : BitVec 4) (desc : BitVec 10) (slot : BitVec 3) (line : BitVec 13) (d : Desc),
    let q := s.cur
    let c := s.core q.unit
    let f := c.cursor fb.toNat
    let next : Pos := .next (s.pc q)
    let ea := (s.getA q b.toNat).toNat
    let w (i : Nat) : Nat := s.read q (ea + 8 * i) 8
    let hi (i : Nat) : BitVec 32 := BitVec.ofNat 32 (w i / 2 ^ 32)
    let lo (i : Nat) : BitVec 32 := BitVec.ofNat 32 (w i)
    let opened : Fibre := { st := if w 2 % 2 ^ 32 = 0 then 2 else 1, desc := desc.toNat, idx := w 0, val := w 1, cnt := w 2 % 2 ^ 32
                            fa := w 2 / 2 ^ 32 % 4, o := ⟨lo 3, hi 3, lo 4, hi 4⟩, pos := 0 }
    let good : Prop := w 2 / 2 ^ 34 = 0 ∧ w 5 = 0 ∧ w 6 = 0 ∧ w 7 = 0 ∧ w 2 / 2 ^ 32 % 4 < d.rank
    let idx (k : Nat) : Int := signed 32 (s.read q (f.idx + 4 * k) 4)
    let addr (k : Nat) : Int := (f.val : Int) + d.size * k
    let pt (k : Nat) : Pt := (Q4.mk' fun a => (f.o.get a).toInt : Pt).set f.fa (idx k)
    let live (k : Nat) : Prop := f.st = 1 ∧ k < f.cnt
    let fills (k : Nat) : Bool := d.bck && !d.inBounds (pt k)
    let owed (ws : List (Nat × Nat)) : Prop := ∃ e ∈ c.lq, e.present = false ∧ ∃ w ∈ ws, ∃ i y,
      e.plan[i]? = some (some y) ∧ sfind e.got i = none ∧ w.1 < y + e.width / 8 ∧ y < w.1 + w.2
    let ixs : List (Nat × Nat) := listWords (f.idx + 4 * f.pos) (if f.st = 1 then min d.n (f.cnt - f.pos) else 0) 4 [(0, 4)]
    let put (m : State) (f : Fibre) : State := let k := m.core q.unit; m.setCore q.unit { k with fb := sset k.fb fb.toNat f }
    LsReady s .l tok →
      (s.recCheck q ea 64 = none → s.desc q desc.toNat = .ok d →
        (good → ¬owed [(ea, 64)] → ∃ t, exec (.fbopen tok fb b desc) s = .next t ∧ LsDone tok false (put s opened) t q next) ∧
        (good → owed [(ea, 64)] → exec (.fbopen tok fb b desc) s = .next s) ∧
        (¬good → exec (.fbopen tok fb b desc) s = .next (s.trapElem q { code := 6 } 8))) ∧
      (∀ tr, s.recCheck q ea 64 = some tr → exec (.fbopen tok fb b desc) s = .next (s.trapElem q tr 8)) ∧
      (f.st = 0 → exec (.fbnext tok fb) s = .next (s.trapElem q { code := 16 } 8) ∧
        exec (.fbend tok fb slot line) s = .next (s.trapElem q { code := 16 } 8)) ∧
      (f.st = 1 ∨ f.st = 2 → c.lq.length < 32 → s.desc q f.desc = .ok d →
        (∀ j, j < d.n → live (f.pos + j) → s.readElem q ((f.idx + 4 * (f.pos + j) : Nat) : Int) 4 = none) →
        (owed ixs → exec (.fbnext tok fb) s = .next s) ∧
        ((∀ j, j < d.n → live (f.pos + j) → fills (f.pos + j) = true ∨ s.readElem q (addr (f.pos + j)) d.size = none) → ¬owed ixs →
        ∃ t e, exec (.fbnext tok fb) s = .next t ∧
          LsDone tok true (put (({ s with ids := s.ids + 1 } : State).setCore q.unit { c with lq := c.lq ++ [e] })
            (if f.st = 1 then { f with pos := f.pos + d.n, st := if f.pos + d.n ≥ f.cnt then 2 else 1 } else f)) t q next ∧
          e.id = s.ids ∧ e.present = false ∧ e.width = d.fmt.width ∧ e.fill = d.fillVal ∧ e.got = [] ∧ e.pa = lsPa .l tok ∧
          e.plan.length = d.n ∧ e.map.m.mode = .explicit ∧ e.map.m.tag = d.tag ∧ e.map.xs.length = d.n ∧
          ∀ j, j < d.n →
            (live (f.pos + j) → e.plan[j]? = some (if fills (f.pos + j) then none else some (addr (f.pos + j)).toNat) ∧
              e.map.xs[j]? = some (pt (f.pos + j)).coord) ∧
            (¬live (f.pos + j) → e.plan[j]? = some none ∧ e.map.xs[j]? = some voidCoord))) ∧
      (f.st = 1 ∨ f.st = 2 → c.lq.length ≥ 32 → exec (.fbnext tok fb) s = .next s) ∧
      (f.st = 1 ∨ f.st = 2 → ∃ t, exec (.fbend tok fb slot line) s = .next t ∧
        LsDone tok false s t q (if f.st = 2 then .target (branchTarget (s.pc q) slot line) (s.pc q) else next)) ∧
      (∃ t, exec (.fbclose tok fb) s = .next t ∧ LsDone tok false (put s .closed) t q next) ∧
      (let k := sget 0 c.lmark m.toNat
       (c.smarks m.toNat > k → ∃ t, exec (.lmark tok m) s = .next t ∧
        LsDone tok false (s.setCore q.unit { c with lmark := sset c.lmark m.toNat (k + 1) }) t q next) ∧
       (c.smarks m.toNat ≤ k → exec (.lmark tok m) s = .next s))

/-- R191 to R194, R124, R289, R304: what L and S have in common. The additions to an address register, the immediate and the 8-byte read write
a[A] alone; the branch is taken where its registers differ or are one, the loop counts down and branches while its count is not zero; a
fence waits until its stream's stores and those it has observed (log entry 82) have performed at its scope; a read waits while a store of its stream to those bytes is in flight (log entry 86); a flip sets its granules once what it waits for is done. A loop's yield to a pre-emption is excluded by the
request flag. -/
def Obligations.StreamCommon : Prop :=
  ∀ (s : State) (tok : Tok) (a b : BitVec 4) (val : BitVec 14) (imm : BitVec 16) (slot : BitVec 3) (line : BitVec 13) (scope : BitVec 3)
    (cnt : BitVec 8),
    let q := s.cur
    let c := s.core q.unit
    let x := s.getA q a.toNat
    let y := s.getA q b.toNat
    let v := val.signExtend 64
    let ea := (y + imm.signExtend 64).toNat
    let next : Pos := .next (s.pc q)
    let tgt : Pos := .target (branchTarget (s.pc q) slot line) (s.pc q)
    let n := cnt.toNat + 1
    let owed : Prop := ∃ e ∈ c.lq, e.present = false ∧ ∃ i y, e.plan[i]? = some (some y) ∧ sfind e.got i = none ∧ ea < y + e.width / 8 ∧ y < ea + 8
    let size := if x.toNat / 2 ^ 20 % 8 < 4 then 0x80000 else 2 ^ 20
    let cause : Option Nat := if x.toNat ≥ 2 ^ 42 then some 1 else if x.toNat / 2 ^ 20 % 8 ≥ 5 then some 2
      else if s.absent q (x.toNat / 2 ^ 20) then some 4 else if (x.toNat % 2 ^ 20 / 4096 + n) * 4096 > size then some 3
      else if x.toNat % 4096 ≠ 0 then some 5 else if quadOf (x.toNat / 2 ^ 20) ≠ quadOf q.unit then some 6 else none
    let mine (st : Store) : Prop := (st.fenceBy q).isSome = true
    ∀ kd ∈ [SeqKind.l, SeqKind.s], LsReady s kd tok →
      let L := kd = .l
      let onto (i j : Instr) (m : State) (p : Pos) : Prop := ∃ t, exec (if L then i else j) s = .next t ∧ LsDone tok false m t q p
      let stops (i j : Instr) (t : State) : Prop := exec (if L then i else j) s = .next t
      let set (w : Word) : State := s.setCore q.unit (if L then { c with la := sset c.la a.toNat w } else { c with sa := sset c.sa a.toNat w })
      let quiet : Prop := if L then ∀ e ∈ c.lq, e.present = true else c.spend = []
      onto (.laadd tok a b val) (.saadd tok a b val) (set (y + v)) next ∧
      onto (.laaddLo tok a b val) (.saaddLo tok a b val) (set (y.extractLsb' 32 32 ++ (y.extractLsb' 0 32 + v.extractLsb' 0 32))) next ∧
      onto (.laaddHi tok a b val) (.saaddHi tok a b val) (set ((y.extractLsb' 32 32 + v.extractLsb' 0 32) ++ y.extractLsb' 0 32)) next ∧
      onto (.lali tok a imm) (.sali tok a imm) (set (imm.signExtend 64)) next ∧
      (s.readCheck q ea 8 8 = none → ¬(L ∧ owed) → s.ownOpen q ea 8 = false →
        onto (.lak tok a b imm) (.sak tok a b imm) (set (BitVec.ofNat 64 (s.read q ea 8))) next) ∧
      (s.readCheck q ea 8 8 = none → (L ∧ owed) ∨ s.ownOpen q ea 8 = true → stops (.lak tok a b imm) (.sak tok a b imm) s) ∧
      (∀ tr, s.readCheck q ea 8 8 = some tr → stops (.lak tok a b imm) (.sak tok a b imm) (s.trapElem q tr 8)) ∧
      onto (.lbr tok a b slot line) (.sbr tok a b slot line) s (if a = b ∨ x ≠ y then tgt else next) ∧
      ((s.ctl q).req = false →
        onto (.lloop tok a slot line) (.sloop tok a slot line) (set (x - 1)) (if x = 1 then next else tgt)) ∧
      (quiet → (∀ st ∈ s.transit, mine st → st.lvl > scope.toNat) → (∀ p ∈ (s.ctxOf q).parts, p.src ≠ q) →
        onto (.lFence tok scope) (.sFence tok scope) s next) ∧
      (¬quiet ∨ (∃ st ∈ s.transit, mine st ∧ st.lvl ≤ scope.toNat) ∨ (∃ p ∈ (s.ctxOf q).parts, p.src = q) →
        stops (.lFence tok scope) (.sFence tok scope) s) ∧
      (∀ i, cause = some i →
        let tr : Trap := { code := 3, addr := x.toNat, info := i }
        stops (.lOwne tok a cnt) (.sOwne tok a cnt) (s.trapElem q tr 8) ∧ stops (.lOwnx tok a cnt) (.sOwnx tok a cnt) (s.trapElem q tr 8)) ∧
      (cause = none →
        let flipped (i j : Instr) (eng : Bool) : Prop := ∃ t m, exec (if L then i else j) s = .next t ∧ LsDone tok false m t q next ∧
          m = { s.flush q x.toNat (n * 4096) with engine := m.engine } ∧ m.transit.length ≤ s.transit.length ∧
          ∀ g, sget false m.engine g = if x.toNat / 4096 ≤ g ∧ g < x.toNat / 4096 + n then eng else sget false s.engine g
        (quiet → flipped (.lOwne tok a cnt) (.sOwne tok a cnt) true) ∧
        (quiet → s.engineBusy x.toNat (n * 4096) = false → flipped (.lOwnx tok a cnt) (.sOwnx tok a cnt) false) ∧
        (¬quiet → stops (.lOwne tok a cnt) (.sOwne tok a cnt) s) ∧
        (¬quiet ∨ s.engineBusy x.toNat (n * 4096) = true → stops (.lOwnx tok a cnt) (.sOwnx tok a cnt) s))

-- Stores and signals (spec 07) ---------------------------------------------------------------------------------------------------------

/-- R185 to R188, R190, R288: a store takes the head of the store queue and writes the elements that R186 keeps at their targets, a later position over
an earlier one, each element by itself, and sends one gauge partial of the final values. It traps on a map that tells nothing, on a mismatch under CHK and on a bad
address. R287, R289, R294 to R299, R303: STORE_PERFORMED_CORE makes the stores of the oldest S instruction visible at core scope, and PERFORMED_AT_SCOPE a store scope by scope, but none before
an earlier one of its stream to the same byte (at any scope) or unit (up to die scope) or before a fence, nor a signal before its payload, nor before a store that its
stream has observed. Stores of two streams to one byte take the order in which they reach the scope that both see (log entries 30, 82). SDROP and SMARK.
That a CHK of a map that tells nothing is MAP_LOST is log entry 40, the model's choice. -/
def Obligations.Stores : Prop :=
  (∀ (s : State) (tok : Tok) (a b m : BitVec 4) (desc : BitVec 10) (ix : BitVec 2) (chk : Bool) (d : Desc),
    let q := s.cur
    let c := s.core q.unit
    let e := c.sq.headD (0, .nil)
    let w := d.fmt.width
    let sz := d.size
    let next : Pos := .next (s.pc q)
    let o := originOf (s.getA q a.toNat) (s.getA q (a.toNat + 1)) d.rank
    let list := (s.getA q b.toNat).toNat
    let index (x : Nat) : Int := signed 32 (s.read q (list + x) 4)
    let row (j : Nat) : Nat := j / 2 ^ d.lw
    let col (j : Nat) : Nat := j % 2 ^ d.lw
    let win (st : Int × Int) (j : Nat) : Pt :=
      Q4.mk' fun i => o.get i + (if i = d.ra then (row j : Int) * st.1 else 0) + (if i = d.qa then (col j : Int) * st.2 else 0)
    let popped := s.setCore q.unit { c with sq := c.sq.drop 1 }
    let stores (i : Instr) (target : Nat → Pt) (byMap chk : Bool) : Prop :=
      let own (j : Nat) : Pt := Q4.mk' fun x => (coordAt e.2 j w x).getD 0
      let kept (j : Nat) : Bool := !isVoid e.2 (j * w / e.2.m.ew.bits) &&
        (!d.bck || (if byMap then e.2.known && d.inBounds (own j) else d.inBounds (target j)))
      let ws := (List.range d.n).filter kept
      let addr (j : Nat) : Int := d.addr (target j)
      let last (j : Nat) : Bool := ws.all fun k => decide (k ≤ j) || addr k != addr j
      let code (j : Nat) : Nat := (e.1.extractLsb' (w * j) w).toNat
      let cells := (finalPieces sz (finalPuts (ws.map fun j => (addr j, code j)))).flatten
      let lost : Prop := (d.bck = true ∨ chk = true ∧ ws ≠ []) ∧ e.2.known = false
      let differs (j : Nat) : Prop := e.2.m.tag ≠ d.tag ∨ ∃ x, x < d.rank ∧ (own j).get x ≠ (target j).get x
      (lost → exec i s = .next (s.trapElem q { code := 10 } sz)) ∧
      (¬lost → chk = true → (∃ j ∈ ws, differs j) → exec i s = .next (s.trapElem q { code := 11 } sz)) ∧
      (¬lost → (chk = true → ∀ j ∈ ws, ¬differs j) →
        (∀ n j tr, ws[n]? = some j → s.writeElem q cells (addr j) sz = some tr → (∀ k ∈ ws.take n, s.writeElem q cells (addr k) sz = none) →
          exec i s = .next (s.trapElem q tr sz)) ∧
        (ws = [] → ∃ t, exec i s = .next t ∧ LsDone tok false popped t q next) ∧
        (ws ≠ [] → (∀ j ∈ ws, s.writeElem q cells (addr j) sz = none) → ∃ (t m : State) (sts : List Store) (sp : SPend), exec i s = .next t ∧ LsDone tok true m t q next ∧
          m = ({ s with ids := s.ids + sts.length, transit := s.transit ++ sts, latent := m.latent, bad := m.bad } : State).setCore q.unit
            { c with sq := c.sq.drop 1, spend := c.spend ++ [sp] } ∧
          (∀ (k : Nat) (st : Store), sts[k]? = some st → st =
            { id := s.ids + k, who := q, cells := st.cells, lvl := 0,
              pre := s.transit.filterMap fun x => x.earlier q st.cells false, seen := [(q, 0)] }) ∧
          (sts.map Store.cells).Perm ((ws.filter last).map fun j => cellsOf (addr j).toNat (leBytes sz (code j))) ∧
          sp = { pc := s.pc q, ids := sts.map (·.id), pa := lsPa .s tok, mark := none, sem := none, gauge := sp.gauge, pay := [] } ∧
          (d.gid = 0 → sp.gauge = none) ∧
          (d.gid ≠ 0 → ∃ codes, codes.Perm ((ws.filter last).map code) ∧ sp.gauge = some (d.gid, partialOf d.fmt codes))))
    let listOk (l : List (Nat × Nat)) : Prop := ∀ y ∈ l, s.readElem q (y.1 : Int) y.2 = none
    LsReady s .s tok →
      (c.sq ≠ [] → c.spend.length < 32 → s.desc q desc.toNat = .ok d →
        stores (.st tok a desc chk) (win d.unitSteps) true chk ∧
        stores (.sts tok a b desc chk) (win (stepsOf (s.getA q b.toNat))) true chk ∧
        (listOk (d.indexWords list) → ix.toNat < d.rank →
          stores (.sti tok a b desc ix) (fun j => o.set ix.toNat (index (4 * j))) false false) ∧
        (listOk (d.rowWords list) → d.ra ≠ d.qa →
          stores (.ssb tok a b desc) (fun j => (o.set d.ra (index (8 * row j))).set d.qa (index (8 * row j + 4) + col j)) false false) ∧
        (ix.toNat ≥ d.rank → exec (.sti tok a b desc ix) s = .next (s.trapElem q { code := 6 } 8)) ∧
        (d.ra = d.qa → exec (.ssb tok a b desc) s = .next (s.trapElem q { code := 6 } 8))) ∧
      (c.sq = [] → ∀ i ∈ [Instr.st tok a desc chk, .sts tok a b desc chk, .sti tok a b desc ix, .ssb tok a b desc, .sdrop tok],
        exec i s = .next s) ∧
      (c.sq ≠ [] → ∃ t, exec (.sdrop tok) s = .next t ∧ LsDone tok false popped t q next) ∧
      (c.spend = [] → ∃ t, exec (.smark tok m) s = .next t ∧
        LsDone tok false (s.setCore q.unit { c with smark := sset c.smark m.toNat (sget [] c.smark m.toNat ++ [s.tells q 1]) }) t q next) ∧
      (c.spend ≠ [] → c.spend.length < 32 → ∃ t, exec (.smark tok m) s = .next t ∧
        LsDone tok true (s.setCore q.unit { c with spend := c.spend ++
          [{ pc := s.pc q, ids := [], pa := lsPa .s tok, mark := some m.toNat, sem := none, gauge := none, pay := [] }] }) t q next)) ∧
  (∀ (s : State) (p : SPend) (rest : List SPend),
    let u := s.ev.i
    let q : SeqId := { unit := u, kind := .s }
    let c := s.core u
    let m := p.ids.foldl (fun (s : State) i => s.perform i 1) s
    c.spend = p :: rest → (s.ctl q).flows 3 = true → p.sem = none → ∃ t, exec .storePerformedCore s = .next t ∧
      t.transit = m.transit ∧
      t.core u = ({ c with spend := rest, smark := match p.mark with
        | some n => sset c.smark n (sget [] c.smark n ++ [m.tells q 1])
        | none => c.smark } : Core).pushOpt p.pa (m.tells q 1) ∧
      (p.gauge = none → t.ctxs = s.ctxs) ∧
      (∀ g h, p.gauge = some (g, h) → (t.ctxOf q).parts = (s.ctxOf q).parts ++ [{ id := s.ids, src := q, gid := g, half := h, ov := 0 }]) ∧
      t.mem = m.mem) ∧
  (∀ (x : Store) (q : SeqId) (cells : List (Nat × Byte)) (sg : Bool),
    let meets (k : Nat) : Prop := ∃ c ∈ x.cells, ∃ d ∈ cells, c.1 / k = d.1 / k
    (x.fenceBy q = none → x.earlier q cells sg = none) ∧
    (∀ f, x.fenceBy q = some f →
      (x.who ≠ q → x.earlier q cells sg = some { id := x.id, ord := 5, kept := f }) ∧
      (∀ k, x.who = q → (meets 1 → k = 5) → (¬meets 1 → sg = true → k = 0) → (¬meets 1 → sg = false → meets (2 ^ 20) → k = 3) →
        (¬meets 1 → sg = false → ¬meets (2 ^ 20) → k = 1) →
        x.earlier q cells sg = if max f k = 0 then none else some { id := x.id, ord := max f k, kept := max f k }))) ∧
  (∀ (y : Store) (l : List Store),
    let open' (x : Store) : Prop := x.who ≠ y.who ∧ (∃ c ∈ x.cells, ∃ d ∈ y.cells, c.1 = d.1) ∧ x.lvl < commonScope x.who y.who
    let settled (x : Store) : Prop := (∃ c ∈ x.cells, ∃ d ∈ y.cells, c.1 = d.1) ∧ ¬open' x
    ∃ a b, l = a ++ b ∧ y.enter l = a ++ y :: b ∧ (∀ x ∈ b, ¬settled x) ∧
      ∀ a₁ x a₂, a = a₁ ++ x :: a₂ → open' x → commonScope x.who y.who ≤ y.lvl → ∃ z ∈ a₂ ++ b, settled z) ∧
  (∀ (s : State) (y : Store), s.transit[s.ev.i]? = some y →
    let before := s.transit.take s.ev.i
    let up : Store := { y with lvl := y.lvl + 1 }
    let head : Prop := (s.ctl ({ y.who with kind := .k } : SeqId)).flows 3 = true ∧ ∃ p rest, (s.core y.who.unit).spend = p :: rest ∧ y.id ∈ p.ids
    (s.mayRaise s.ev.i y = true ↔ (y.lvl ≥ 1 ∨ head) ∧ ∀ (j : Nat) (x : Store), s.transit[j]? = some x → j ≠ s.ev.i →
      (j < s.ev.i → x.who ≠ y.who → (∃ c ∈ x.cells, ∃ d ∈ y.cells, c.1 = d.1) → commonScope x.who y.who ≤ x.lvl → x.lvl > y.lvl) ∧
      ∀ e ∈ y.pre, e.id = x.id → min (y.lvl + 1) e.ord ≤ x.lvl) ∧
    (s.mayRaise s.ev.i y = true → (∀ x ∈ before, x.id ≠ y.id) → ∃ t, exec .performedAtScope s = .next t ∧
      (y.lvl < 4 → t = { s with transit := up.enter before ++ s.transit.drop (s.ev.i + 1) }) ∧
      (y.lvl ≥ 4 → t = { s with mem := t.mem, transit := before.map (fun x => if x.open y then x else
          { x with cells := x.cells.filter fun c => !(y.cells.any fun d => d.1 == c.1) }) ++ s.transit.drop (s.ev.i + 1) } ∧
        ∀ ad, memGet t.mem ad = (lastCell y.cells ad).getD (memGet s.mem ad))) ∧
    (s.mayRaise s.ev.i y = false → exec .performedAtScope s = .next s))

/-- R189: PUTSIG performs the store of the head entry at the window of a[A] and joins its signal to it: eight or four bytes of a[B+1] at a[B], ordered after
the payload, or an addition to a semaphore. Its token and its marker order follow when both have performed at core scope. A bad target traps
and nothing is written. STORE_PERFORMED_CORE makes the addition once its payload, and what S has observed (R303), have performed.
How far the payload has performed when the addition is made is log entry 32, the model's choice. -/
def Obligations.Signals : Prop :=
  (∀ (s : State) (tok : Tok) (a b : BitVec 4) (desc : BitVec 10) (chk : Bool) (d : Desc) (p : SPlan),
    let q := s.cur
    let c := s.core q.unit
    let o := originOf (s.getA q a.toNat) (s.getA q (a.toNat + 1)) d.rank
    let ea := (s.getA q b.toNat).toNat
    let x := s.getA q (b.toNat + 1)
    let pay : List Store := p.els.mapIdx fun k cs =>
      { id := s.ids + k, who := q, cells := cs, lvl := 0, pre := s.transit.filterMap fun x => x.earlier q cs false, seen := [(q, 0)] }
    let ids := pay.map (·.id)
    let done (i : Instr) (sig : List Store) (sem : Option (Nat × Nat × Nat)) : Prop := ∃ t m, exec i s = .next t ∧
      LsDone tok true m t q (.next (s.pc q)) ∧
      m = ({ s with ids := s.ids + (pay ++ sig).length, transit := s.transit ++ pay ++ sig, latent := m.latent, bad := m.bad } : State).setCore
        q.unit { c with sq := c.sq.drop 1, spend := c.spend ++
          [{ pc := s.pc q, ids := ids ++ sig.map (·.id), pa := lsPa .s tok, mark := none, sem := sem, gauge := p.gauge, pay := [] }] }
    let flag (i : Instr) (n : Nat) : Prop :=
      let cells := cellsOf ea ((List.range n).map fun k => x.extractLsb' (8 * k) 8)
      (s.writeElem q (p.cells ++ cells) (ea : Int) n = none →
        done i [{ id := s.ids + ids.length, who := q, cells := cells, lvl := 0, seen := [(q, 0)], pre :=
          ((s.transit ++ pay).filterMap fun x => x.earlier q cells true) ++ ids.map fun i => { id := i, ord := 5, kept := 5 } }] none) ∧
      (∀ tr, s.writeElem q (p.cells ++ cells) (ea : Int) n = some tr → exec i s = .next (s.trapElem q tr n))
    LsReady s .s tok → c.sq ≠ [] → c.spend.length < 32 → s.desc q desc.toNat = .ok d →
    s.storePlan q d (c.sq.headD (0, .nil)) (d.storePos (c.sq.headD (0, .nil)) (d.window o d.unitSteps) true) chk = .ok p →
      flag (.putsigFlag8 tok a b desc chk) 8 ∧ flag (.putsigFlag4 tok a b desc chk) 4 ∧
      (ea < 2 ^ 42 → ea / 32 % 2 ^ 18 = 0 → s.absent q (ea / 2 ^ 23 * 8 + 4) = false →
        done (.putsigSemadd tok a b desc chk) [] (some (ea / 2 ^ 23, ea % 32, x.toNat % 2 ^ 32))) ∧
      (ea ≥ 2 ^ 42 ∨ ea / 32 % 2 ^ 18 ≠ 0 →
        exec (.putsigSemadd tok a b desc chk) s = .next (s.trapElem q { code := 3, addr := ea, info := 1 } 8)) ∧
      (ea < 2 ^ 42 → ea / 32 % 2 ^ 18 = 0 → s.absent q (ea / 2 ^ 23 * 8 + 4) = true →
        exec (.putsigSemadd tok a b desc chk) s = .next (s.trapElem q { code := 3, addr := ea, info := 4 } 8))) ∧
  (∀ (s : State) (p : SPend) (rest : List SPend) (qd n amount : Nat),
    let u := s.ev.i
    let c := s.core u
    c.spend = p :: rest → (s.ctl { unit := u, kind := .s }).flows 3 = true → p.sem = some (qd, n, amount) →
      (p.ids ≠ [] → p.gauge = none → exec .storePerformedCore s = .next
        ((s.raise p.ids 1).setCore u { c with spend := { p with ids := [], pay := p.ids } :: rest })) ∧
      (p.ids = [] → (∃ st ∈ s.transit, st.id ∈ p.pay) → exec .storePerformedCore s = .next s) ∧
      (p.ids = [] → p.gauge = none → (∀ st ∈ s.transit, st.id ∉ p.pay) → sget [] (s.quad qd).waiters n = [] →
        let v := (s.land fun st => p.pay.contains st.id).acquire { unit := u, kind := .s }
        ∃ t, exec .storePerformedCore s = .next t ∧ t.core u = ({ c with spend := rest } : Core).pushOpt p.pa (v.tells { unit := u, kind := .s } 1) ∧
          sget 0 (t.quad qd).sem n = min (sget 0 (s.quad qd).sem n + amount) 0xFFFFFFFF ∧
          (∀ k, k ≠ n → sget 0 (t.quad qd).sem k = sget 0 (s.quad qd).sem k) ∧ t.mem = v.mem ∧ t.ctls = s.ctls))

-- The instructions of X (spec 08) ----------------------------------------------------------------------------------------------------

/-- R197, R201 to R206, R208 to R210: the element-wise instructions of X. Float operations convert the exact result once, with the noise word of its element where the mode
needs one; integer operations wrap, or clamp; the others copy or combine bits. The result has the latency of R201 and the map KEEP; a compare fills
a predicate. An element whose map gives no noise word makes the instruction trap.
An `e8m0` operand code that holds no such number is free (log entry 7), and IMM16 in `bf16` is its own value (log entry 77). -/
def Obligations.XElementwise : Prop :=
  ∀ (s : State) (x : XArgs) (sp : XSpec),
    let k := s.xSees sp x .v
    let w := k.f.width
    let n := k.f.count
    let int : Prop := k.f.isInt = true
    let map := k.mapTo .keep w n
    let noise (e : Nat) : Option Nat := noiseAt k.c.nkey (k.view map) e
    let src (o : Option Nat) (e : Nat) : Nat := k.src o e
    let z (o : Option Nat) (e : Nat) : Int := intVal k.f (src o e)
    let v (o : Option Nat) (e : Nat) : Val := decode k.f (src o e)
    let ready (i : XArgs → Instr) : Prop := xSpec (i x) = some (sp, x) ∧ XReady s x (xLq sp x) false ∧ k.early n w = none
    let float (r : Val × Nat) (e : Nat) : Nat × Nat :=
      let c := convert k.f r.1 x.mode x.ovfB ((noise e).getD 0)
      (c.1, c.2 ||| r.2)
    let rounds (i : XArgs → Instr) (lat : Nat) (r : Nat → Val × Nat) : Prop :=
      ((∀ e, e < n → needsNoise k.f (r e).1 x.mode = true → noise e ≠ none) → XElems (i x) s sp x lat w n map fun e => float (r e) e) ∧
      ((∃ e, e < n ∧ needsNoise k.f (r e).1 x.mode = true ∧ noise e = none) → exec (i x) s = .next (s.xTrap s.cur { code := 10 }))
    let prod (e : Nat) : Val × Nat := mulV (v k.a e) (v k.b e)
    let fused (p c : Val) (fl : Nat) : Val × Nat := let r := addV p c; (r.1, fl ||| r.2)
    -- float and integer arithmetic
    (∀ p ∈ ([
      (Instr.vadd, fun e => addV (v k.a e) (v k.b e), fun e => z k.a e + z k.b e),
      (Instr.vsub, fun e => addV (v k.a e) (v k.b e).neg, fun e => z k.a e - z k.b e),
      (Instr.vmul, prod, fun e => z k.a e * z k.b e),
      (Instr.vabs, fun e => ((v k.a e).abs, 0), fun e => (z k.a e).natAbs),
      (Instr.vneg, fun e => ((v k.a e).neg, 0), fun e => -z k.a e)]
      : List ((XArgs → Instr) × (Nat → Val × Nat) × (Nat → Int))), ready p.1 →
      (¬int → rounds p.1 4 p.2.1) ∧ (int → XElems (p.1 x) s sp x 2 w n map fun e => ((p.2.2 e % 2 ^ w).toNat, 0))) ∧
    -- float only
    (∀ p ∈ ([
      (Instr.vfma, 5, fun e => fused (prod e).1 (v k.cc e) (prod e).2),
      (Instr.vfms, 5, fun e => fused (prod e).1 (v k.cc e).neg (prod e).2),
      (Instr.vfnma, 5, fun e => fused (prod e).1.neg (v k.cc e) (prod e).2),
      (Instr.vdiv, 12, fun e => divV (v k.a e) (v k.b e)),
      (Instr.vsqrt, 12, fun e => specialV .sqrt (v k.a e)),
      (Instr.vrcp, 12, fun e => specialV .rcp (v k.a e)),
      (Instr.vrsq, 12, fun e => specialV .rsq (v k.a e)),
      (Instr.vexp2, 12, fun e => specialV .exp2 (v k.a e)),
      (Instr.vlog2, 12, fun e => specialV .log2 (v k.a e)),
      (Instr.vsinp, 12, fun e => specialV .sinp (v k.a e)),
      (Instr.vcosp, 12, fun e => specialV .cosp (v k.a e)),
      (Instr.vcmul, 5, fun e =>
        let r := e / 2 * 2
        let bi := if x.immN % 2 = 1 then (v k.b (r + 1)).neg else v k.b (r + 1)
        let c := asTerm (if k.cc = none ∨ k.cc = some 112 then .zero false else v k.cc e)
        let neg (t : Val × Nat) : Val × Nat := (t.1.neg, t.2)
        if e % 2 = 0 then exactSum [mulV (v k.a r) (v k.b r), neg (mulV (v k.a (r + 1)) bi), c]
        else exactSum [mulV (v k.a r) bi, mulV (v k.a (r + 1)) (v k.b r), c])]
      : List ((XArgs → Instr) × Nat × (Nat → Val × Nat))), ready p.1 → ¬int → rounds p.1 p.2.1 p.2.2) ∧
    -- integer only
    (∀ p ∈ ([
      (Instr.vadds, fun e => z k.a e + z k.b e),
      (Instr.vsubs, fun e => z k.a e - z k.b e)] : List ((XArgs → Instr) × (Nat → Int))), ready p.1 →
      XElems (p.1 x) s sp x 2 w n map fun e =>
        let y := max (intRange k.f).1 (min (intRange k.f).2 (p.2 e))
        ((y % 2 ^ w).toNat, if y = p.2 e then 0 else fSAT)) ∧
    (∀ p ∈ ([
      (Instr.vand, fun a b => a &&& b),
      (Instr.vor, fun a b => a ||| b),
      (Instr.vxor, fun a b => a ^^^ b),
      (Instr.vandn, fun a b => a &&& (2 ^ w - 1 - b)),
      (Instr.vshl, fun a b => a * 2 ^ (b % w)),
      (Instr.vshr, fun a b => a / 2 ^ (b % w)),
      (Instr.vsra, fun a b => ((signed w a / ((2 ^ (b % w) : Nat) : Int)) % 2 ^ w).toNat)]
      : List ((XArgs → Instr) × (Nat → Nat → Nat))), ready p.1 →
      XElems (p.1 x) s sp x 2 w n map fun e => (p.2 (src k.a e) (src k.b e), 0)) ∧
    -- minimum and maximum, selection and moves
    (∀ p ∈ ([(Instr.vmin, false, false), (Instr.vmax, true, false), (Instr.vminp, false, true), (Instr.vmaxp, true, true)]
      : List ((XArgs → Instr) × Bool × Bool)), ready p.1 →
      (int → XElems (p.1 x) s sp x 2 w n map fun e =>
        ((if p.2.1 then max (z k.a e) (z k.b e) else min (z k.a e) (z k.b e)) % 2 ^ w |>.toNat, 0)) ∧
      (¬int → XElems (p.1 x) s sp x 4 w n map fun e =>
        let a := v k.a e
        let b := v k.b e
        let snan := a.isSnan || b.isSnan
        if a.isNan || b.isNan then
          (if snan || p.2.2 || (a.isNan && b.isNan) then (nanCode k.f, if snan then fNV else 0) else (if a.isNan then src k.b e else src k.a e, 0))
        else
          let less := ltV a b || (!ltV b a && a.isNeg && !b.isNeg)
          (if less != p.2.1 then src k.a e else src k.b e, 0))) ∧
    (ready .vsel → XElems (.vsel x) s sp x 2 w n map fun e =>
      (if bitAt (sget 0 k.c.p (x.cN.getD 0 % 16)).toNat (e * w / 8) then src k.a e else src k.b e, 0)) ∧
    (ready .vmov → XElems (.vmov x) s sp x 2 w n map fun e => (src k.a e, 0)) ∧
    -- comparison
    (let k := s.xSees sp x .p
     let v (o : Option Nat) (e : Nat) : Val := decode k.f (k.src o e)
     let z (o : Option Nat) (e : Nat) : Int := intVal k.f (k.src o e)
     let nan (e : Nat) : Bool := (v k.a e).isNan || (v k.b e).isNan
     let snan (e : Nat) : Nat := if (v k.a e).isSnan || (v k.b e).isSnan then fNV else 0
     let qnan (e : Nat) : Nat := if nan e then fNV else 0
     ∀ p ∈ ([
      (Instr.vceq, fun e => decide (z k.a e = z k.b e), fun e => (eqV (v k.a e) (v k.b e), snan e)),
      (Instr.vcne, fun e => decide (z k.a e ≠ z k.b e), fun e => (!eqV (v k.a e) (v k.b e), snan e)),
      (Instr.vclt, fun e => decide (z k.a e < z k.b e), fun e => (ltV (v k.a e) (v k.b e), qnan e)),
      (Instr.vcle, fun e => decide (z k.a e ≤ z k.b e), fun e => (!nan e && (ltV (v k.a e) (v k.b e) || eqV (v k.a e) (v k.b e)), qnan e)),
      (Instr.vcun, fun _ => false, fun e => (nan e, snan e))]
      : List ((XArgs → Instr) × (Nat → Bool) × (Nat → Bool × Nat))),
      xSpec (p.1 x) = some (sp, x) → XReady s x (xLq sp x) false → k.early n w = none →
      let el (e : Nat) : Bool × Nat := if k.f.isInt then (p.2.1 e, 0) else p.2.2 e
      ∃ val, XWrites (p.1 x) s sp x .p (if k.f.isInt then 2 else 4) (.p (x.d.toNat % 16)) none val
          ((List.range n).foldl (fun a e => a ||| (el e).2) 0) ∧
        val < 2 ^ 256 ∧ ∀ e, e < n → ∀ b, b < w / 8 → bitAt val (e * (w / 8) + b) = (el e).1)

/-- R207, R211 to R218: conversions, block scales, wide accumulators, map instructions and lane movements of X, each with its elements, its
latency and its map class. A float result needs the noise word of its element where its mode or format says so; here every such word exists.
A row width that differs from the map's makes a lane movement trap.
EW of CMGET's image and the zeros of VCMUL are log entry 26, LW of a gathered map log entry 76, the model's choices. -/
def Obligations.XMovement : Prop :=
  ∀ (s : State) (x : XArgs) (sp : XSpec),
    let trap (i : XArgs → Instr) (n : Nat) : Prop := exec (i x) s = .next (s.xTrap s.cur { code := n })
    let k := s.xSees sp x .v
    let w := k.f.width
    let n := k.f.count
    let imm := x.immN
    let A := k.a.getD 0
    let src (o : Option Nat) (e : Nat) : Nat := k.src o e
    let z (o : Option Nat) (e : Nat) : Int := intVal k.f (src o e)
    let v (o : Option Nat) (e : Nat) : Val := decode k.f (src o e)
    let keep := k.mapTo .keep w n
    let wrap (w : Nat) (y : Int) : Nat := (y % 2 ^ w).toNat
    let can (i : XArgs → Instr) (n w : Nat) : Prop := xSpec (i x) = some (sp, x) ∧ XReady s x (xLq sp x) false ∧ k.early n w = none
    let ready (i : XArgs → Instr) : Prop := can i n w
    let noise (map : MapOut) (e : Nat) : Option Nat := noiseAt k.c.nkey (k.view map) e
    let heard (f : Fmt) (map : MapOut) (m : Nat) (r : Nat → Val × Nat) : Prop :=
      ∀ e, e < m → needsNoise f (r e).1 x.mode = true → noise map e ≠ none
    let conv (f : Fmt) (ovf : Bool) (map : MapOut) (r : Nat → Val × Nat) (e : Nat) : Nat × Nat :=
      let c := convert f (r e).1 x.mode ovf ((noise map e).getD 0)
      (c.1, c.2 ||| (r e).2)
    let part (m p : Nat) : MapClass := if p = 0 then .keep else .gather ((List.range m).map fun j => some (p * m + j))
    -- lane movements
    let W := 2 ^ (imm % 16)
    let H := n / W
    let y := imm / 256
    let mismatch : Prop := ∃ r, k.ref = some r ∧ r.known = true ∧ r.m.lw.toNat ≠ imm % 16
    let moves (i : XArgs → Instr) (cls : MapClass) (idx : Nat → Option Nat) : Prop := XElems (i x) s sp x 6 w n (k.mapTo cls w n) fun j =>
      (match idx j with
      | some e => src k.a e
      | none => 0, 0)
    (∀ p ∈ ([
      (Instr.vxpose, .trans, fun j => j % H * W + j / H),
      (Instr.vreshp, .reshape (imm / 16 % 16), fun j => j),
      (Instr.vbce, .bcastE y, fun _ => y),
      (Instr.vbcr, .bcastRow y, fun j => y * W + j % W),
      (Instr.vbcc, .bcastCol y, fun j => j / W * W + y)] : List ((XArgs → Instr) × MapClass × (Nat → Nat))), ready p.1 →
      (¬mismatch → moves p.1 p.2.1 fun j => some (p.2.2 j)) ∧ (mismatch → trap p.1 11)) ∧
    (let idx (j : Nat) : Option Nat := if src k.b j < n then some (src k.b j) else none
     ready .vperm → moves .vperm (.gather ((List.range n).map idx)) idx) ∧
    (let sel := (List.range n).filter fun e => bitAt (sget 0 k.c.p (x.cN.getD 0 % 16)).toNat (e * w / 8)
     ready .vcompact → moves .vcompact (.gather ((List.range n).map fun j => sel[j]?)) fun j => sel[j]?) ∧
    -- reductions
    (∀ p ∈ ([
      (Instr.vredq, .redQ, fun j => (List.range W).map fun i => j / W * W + i),
      (Instr.vredr, .redR, fun j => (List.range H).map fun i => i * W + j % W)] : List ((XArgs → Instr) × MapClass × (Nat → List Nat))),
      ready p.1 → 2 ^ (imm % 16) ≤ n →
      let op := imm / 16 % 4
      let map := k.mapTo p.2.1 w n
      let red := XElems (p.1 x) s sp x 6 w n map
      let sum (j : Nat) : Val × Nat := exactSum ((p.2.2 j).map fun i => asTerm (v k.a i))
      let best (j : Nat) : Nat := match (p.2.2 j).map (src k.a) with
        | [] => 0
        | c :: cs => cs.foldl (fun a c => (minMax (op == 1) false k.f a c).1) c
      let fold (j : Nat) : Nat := if k.f.isInt = false ∧ (decode k.f (best j)).isNan = true then nanCode k.f else best j
      (mismatch → trap p.1 11) ∧
      (¬mismatch → op = 0 → k.f.isInt = true → red fun j => (wrap w ((p.2.2 j).map (z k.a)).sum, 0)) ∧
      (¬mismatch → op = 0 → k.f.isInt = false → heard k.f map n sum → red (conv k.f x.ovfB map sum)) ∧
      (¬mismatch → op ≠ 0 → red fun j => (fold j, if k.f.isInt = false ∧ (∃ i ∈ p.2.2 j, (v k.a i).isSnan = true) then fNV else 0))) ∧
    -- conversions
    (∀ sf, fmtOfCode x.b.toNat = some sf →
      let C := k.cc.getD 0
      let cvt (i : XArgs → Instr) (map : MapOut) (c : Nat → Nat) : Prop :=
        (sf.isInt = true → k.f.isInt = true → XElems (i x) s sp x 3 w n map fun e =>
          if x.satB then clampInt k.f (intVal sf (c e)) else (wrap w (intVal sf (c e)), 0)) ∧
        (let r (e : Nat) : Val × Nat := (decode sf (c e), 0)
         ¬(sf.isInt = true ∧ k.f.isInt = true) → heard k.f map n r → XElems (i x) s sp x 3 w n map (conv k.f x.ovfB map r))
      let m := sf.count
      (ready .vcvt → sf.width > w → cvt .vcvt (k.mapTo (.filled (joinCoords (k.c.mapOf A) (k.c.mapOf C) m sf.width)) w n)
        fun j => if j < m then k.elem sf A j else k.elem sf C (j - m)) ∧
      (ready .vcvt → sf.width ≤ w → cvt .vcvt (k.mapTo (part n imm) w n) fun j => k.elem sf A (imm * n + j)) ∧
      (let map := k.mapTo (part n imm) w n
       let r (j : Nat) : Val × Nat := ((decode sf (k.elem sf A (imm * n + j))).scale (-signed 8 (k.scalar k.cc)), 0)
       ready .vdq → heard k.f map n r → XElems (.vdq x) s sp x 3 w n map (conv k.f false map r))) ∧
    (let map := k.mapTo .keep 32 64
     let f32 (o : Option Nat) (e : Nat) : Val := decode .f32 (k.elem .f32 (o.getD 0) e)
     let r (e : Nat) : Val × Nat := scaleAcc (f32 k.cc e) (f32 k.a e) (v k.b (e / 2 ^ (imm % 8)))
     can .vscal 64 32 → heard .f32 map 64 r → XElems (.vscal x) s sp x 5 32 64 map (conv .f32 false map r)) ∧
    -- wide accumulators
    (let c (e : Nat) : Nat := field (k.c.rawOf (k.a.getD 64)) (32 * e) 32
     let r (e : Nat) : Val × Nat := (decode .f32 (c e), 0)
     ready .wnar →
      (k.f.isInt = true → XElems (.wnar x) s sp x 3 w n keep fun e =>
        if x.satB then clampInt k.f (intVal .i32 (c e)) else (wrap w (intVal .i32 (c e)), 0)) ∧
      (k.f.isInt = false → heard k.f keep n r → XElems (.wnar x) s sp x 3 w n keep (conv k.f x.ovfB keep r))) ∧
    (let k := s.xSees sp x .w
     let d := x.d.toNat % 8
     let own : MapOut := match k.ref with
       | some r => destMap .keep r r.m.ew (2048 / r.m.ew.bits)
       | none => .keep .nil
     xSpec (.wzero x) = some (sp, x) → XReady s x (xLq sp x) false → k.early k.n k.w = none →
      XWrites (.wzero x) s sp x .w 2 (.w d) (some own) 0 0) ∧
    (∀ p ∈ ([(Instr.wacc, 4, false), (Instr.wfma, 5, true)] : List ((XArgs → Instr) × Nat × Bool)),
      let k := s.xSees sp x .w
      let d := x.d.toNat % 8
      let map := k.mapTo (part 128 imm) 32 128
      let nz (e : Nat) : Option Nat := noiseAt k.c.nkey (k.view map) e
      let at' (o : Option Nat) (j : Nat) : Nat := k.src o (128 * imm + j)
      let acc (j : Nat) : Nat := field (sget (0, CMap.nil) k.c.w d).1.toNat (32 * j) 32
      let zi (j : Nat) : Int := intVal .i32 (acc j) + intVal k.f (at' k.a j) * (if p.2.2 then intVal k.f (at' k.cc j) else 1)
      let r (j : Nat) : Val × Nat :=
        if p.2.2 then (let m := mulV (decode k.f (at' k.a j)) (decode k.f (at' k.cc j))
                       let t := addV m.1 (decode .f32 (acc j))
                       (t.1, m.2 ||| t.2))
        else addV (decode .f32 (acc j)) (decode k.f (at' k.a j))
      let el (j : Nat) : Nat × Nat :=
        if k.f.isInt then (if x.satB then clampInt .i32 (zi j) else (wrap 32 (zi j), 0))
        else (let c := convert .f32 (r j).1 x.mode false ((nz j).getD 0); (c.1, c.2 ||| (r j).2))
      xSpec (p.1 x) = some (sp, x) → XReady s x (xLq sp x) false → k.early k.n k.w = none →
      (k.f.isInt = false → ∀ j, j < 128 → needsNoise .f32 (r j).1 x.mode = true → nz j ≠ none) →
      ∃ val, XWrites (p.1 x) s sp x .w p.2.1 (.w d) (some map) val ((List.range 128).foldl (fun a j => a ||| (el j).2) 0) ∧
        val < 2 ^ 4096 ∧ ∀ j, j < 128 → field val (32 * j) 32 = (el j).1 % 2 ^ 32) ∧
    -- maps
    (let copy (i : XArgs → Instr) (cls : MapClass) : Prop :=
       XWrites (i x) s sp x .v 2 (.v k.d) (some (match k.ref with
         | some r => destMap cls r r.m.ew (2048 / r.m.ew.bits)
         | none => .keep .nil)) (k.c.rawOf A % 2 ^ 2048) 0
     (ready .cmslice → copy .cmslice (.slice (Q4.mk' fun d => BitVec.ofNat 32 (k.elem .i32 (k.b.getD 0) d)))) ∧
     (ready .cmperm → copy .cmperm (.perm (Q4.mk' fun d => imm / 4 ^ d % 4))) ∧
     (ready .cmget → XElems (.cmget x) s sp x 2 32 64 (k.mapTo .keep 32 64) fun e => ((imageOf (k.c.mapOf A).m).getD e 0, 0)) ∧
     (ready .cmset → let im := ofImage ((List.range 9).map fun i => k.elem .f32 A i) none
       XIssues (.cmset x) s sp x (s.xSlot sp x (.v k.d))
         [{ s.xEntry sp x .v 2 (.v k.d) (some (.keep im.1)) 0 0 with keep := true, img := im.2 }] [])) ∧
    -- checks and coordinates
    (let k := s.xSees sp x .none
     let maps := (([k.a, k.b, k.cc].filterMap fun o => o.filter bearsMap).map k.c.mapOf)
     xSpec (.cmchk x) = some (sp, x) → XReady s x (xLq sp x) false → k.early k.n k.w = none →
      (maps.length < 2 ∨ (∀ m ∈ maps, m.known = true) ∧
        (∀ m ∈ maps, ∀ m' ∈ maps, m.m.tag = m'.m.tag ∧ ∀ e d, e < 64 → d < 4 → coordAt m e 32 d = coordAt m' e 32 d) →
          XIssues (.cmchk x) s sp x .nil [] []) ∧
      (maps.length ≥ 2 → (∃ m ∈ maps, m.known = false) → trap .cmchk 10) ∧
      (maps.length ≥ 2 → (∀ m ∈ maps, m.known = true) →
        (∃ m ∈ maps, ∃ m' ∈ maps, m.m.tag ≠ m'.m.tag ∨ ∃ e d, e < 64 ∧ d < 4 ∧ coordAt m e 32 d ≠ coordAt m' e 32 d) → trap .cmchk 11)) ∧
    (let k := s.xSees sp x .p
     let al (d : Nat) : Int := signed 3 (imm / 8 ^ d % 8)
     let rel := imm / 2 ^ 12 % 8
     let at' (e d : Nat) : Int := (coordAt (k.ref.getD .nil) e k.w d).getD 0
     let sum (e : Nat) : Int := al 0 * at' e 0 + al 1 * at' e 1 + al 2 * at' e 2 + al 3 * at' e 3 + signed 32 (k.scalar k.b)
     let holds (e : Nat) : Bool := if rel = 0 then sum e < 0 else if rel = 1 then sum e ≤ 0 else if rel = 2 then sum e = 0
       else if rel = 3 then sum e ≠ 0 else if rel = 4 then sum e ≥ 0 else sum e > 0
     xSpec (.pcrd x) = some (sp, x) → XReady s x (xLq sp x) false → k.early k.n k.w = none → rel < 6 →
      (k.refKnown = true → ∃ val, XWrites (.pcrd x) s sp x .p 2 (.p (x.d.toNat % 16)) none val 0 ∧ val < 2 ^ 256 ∧
        ∀ e, e < k.n → ∀ b, b < k.w / 8 → bitAt val (e * (k.w / 8) + b) = holds e) ∧
      (k.refKnown = false → (∃ d, d < 4 ∧ al d ≠ 0) → trap .pcrd 10)) ∧
    (ready .vhash → (k.refKnown = false → trap .vhash 10) ∧ (k.refKnown = true →
      let r := k.ref.getD .nil
      let seed := if k.b = some 112 then k.c.nkey.toNat % 2 ^ 32 else k.scalar k.b
      let step := if k.cc = none ∨ k.cc = some 112 then k.c.nkey.toNat / 2 ^ 32 else k.scalar k.cc
      let c (e d : Nat) : Nat := wrap 32 ((coordAt r e 32 d).getD 0)
      XElems (.vhash x) s sp x 12 32 64 (k.mapTo .keep 32 64) fun e =>
        (vhash seed r.m.tag.toNat (c e 0) (c e 1) (c e 2) (c e 3) step, 0))) ∧
    (ready .vtwid → (k.refKnown = false → trap .vtwid 10) ∧ (k.refKnown = true →
      let at' (e d : Nat) : Int := (coordAt (k.ref.getD .nil) e w d).getD 0
      let pair (i : Nat) : Nat × Nat × Nat := twid (at' (2 * i) (imm % 4)) (at' (2 * i) (imm / 4 % 4)) (k.scalar k.b) k.f
      XElems (.vtwid x) s sp x 12 w n keep fun e =>
        let p := pair (e / 2)
        if e % 2 = 0 then (p.1, p.2.2)
        else (if imm / 16 % 2 = 1 ∧ p.2.1 ≠ 0 ∧ (decode k.f p.2.1).isNan = false then p.2.1 ^^^ 2 ^ (w - 1) else p.2.1, 0)))

/-- R19, R22, R87, R110, R219 to R227: what holds an X instruction back, squashes it or makes it trap; the predicate instructions, XPUSH, XWAIT, NOP,
the hardware loop, VMOV.E, and the instructions that read gauges. The yield of a loop to a pre-emption is excluded by the request flag. A squashed
NOP or XWAIT shifts no chain slot (log entry 74), and VQNT uses a generation closed since X was last ordered after the gauge, or the newest, with that one's OVM (log entry 83).
The stall of a squashed XWAIT is log entry 24, the order of VQNT's traps log entry 25, that a token is taken at completion log entry 27, the id of
GREAD and GSTAT log entry 29: the model's choices. -/
def Obligations.XQueuesAndLoops : Prop :=
  ∀ (s : State) (x : XArgs) (sp : XSpec),
    let q := s.cur
    let u := q.unit
    let c := s.core u
    let T := c.xnext
    let ill (i : Instr) : Prop := exec i s = .next (s.xTrap q { code := 1 })
    let next : Pos := .next (s.pc q)
    let moved (i : Instr) (pops : Bool) (m : State) (f : Core → Core) : Prop := ∃ t, exec i s = .next t ∧
      t = { m with ctls := t.ctls, cores := t.cores } ∧
      (∀ r, t.ctl r = if ctlKey r = ctlKey q then (m.ctl r).issued (strmNo q.kind) (s.pc q) else m.ctl r) ∧
      (∀ y, y ≠ u → t.core y = m.core y) ∧ t.core u = f { m.core u with
        slu := (t.core u).slu, xsync := if pops ∧ (xPb x).isSome = true then m.tick else (m.core u).xsync } ∧
      ∀ n, (t.core u).tokens n + (if pops ∧ xPb x = some n then 1 else 0) = (m.core u).tokens n + (if pops ∧ xPa x = some n then 1 else 0)
    let on (st cnt : Nat) (c : Core) : Core := { c with
      xnow := T + 1, xnext := T + 1 + st + cnt, xret := T + 1 + st, xpos := next, loop := if c.loop.act then { c.loop with place := c.loop.place + 1 } else c.loop }
    let shift (c : Core) : Core := { c with ch := [(1, .nil), (2, c.chain 1), (3, c.chain 2), (4, c.chain 3)] }
    let can (i : XArgs → Instr) : Prop := xSpec (i x) = some (sp, x) ∧ XReady s x (xLq sp x) false
    -- what every instruction of X but XLEND, XWAIT and NOP has in common
    (∀ i ∈ [Instr.vadd, .vsub, .vmul, .vfma, .vfms, .vfnma, .vdiv, .vabs, .vneg, .vadds, .vsubs, .vmin, .vmax, .vminp, .vmaxp, .vceq, .vcne,
        .vclt, .vcle, .vcun, .vsel, .vand, .vor, .vxor, .vandn, .vshl, .vshr, .vsra, .vcvt, .vmov, .vmovE, .vdq, .vsqrt, .vrcp, .vrsq, .vexp2,
        .vlog2, .vsinp, .vcosp, .vcmul, .vscal, .cmset, .cmget, .cmslice, .cmperm, .cmchk, .pcrd, .vhash, .vtwid, .vperm, .vxpose, .vreshp,
        .vbce, .vbcr, .vbcc, .vcompact, .vredq, .vredr, .wacc, .wfma, .wnar, .wzero, .pand, .por, .pxor, .pnot, .pmov, .pset, .xpush,
        .vqnt, .gread, .gstat], xSpec (i x) = some (sp, x) → q.kind = .x →
      (c.loop.act = true → c.loop.place = c.loop.ns * c.loop.sl → ill (i x)) ∧
      (c.loop.act = true → c.loop.place ≠ c.loop.ns * c.loop.sl → c.loop.squashed = true →
        moved (i x) false (s.landX u (T + 1) true) fun c => on x.st.toNat 0 (shift c)) ∧
      (c.loop.act = false ∨ c.loop.place ≠ c.loop.ns * c.loop.sl ∧ c.loop.squashed = false →
        ((∃ n, xPb x = some n ∧ c.tokens n = 0) ∨ (∃ n, xPa x = some n ∧ c.tokens n ≥ 16) ∨
          xLq sp x = true ∧ (∀ e l, c.lq = e :: l → e.present = false) → exec (i x) s = .next s))) ∧
    -- a trap that its operands raise
    (∀ i ∈ [Instr.vadd, .vsub, .vmul, .vfma, .vfms, .vfnma, .vdiv, .vabs, .vneg, .vadds, .vsubs, .vmin, .vmax, .vminp, .vmaxp, .vsel, .vand, .vor,
        .vxor, .vandn, .vshl, .vshr, .vsra, .vcvt, .vmov, .vdq, .vsqrt, .vrcp, .vrsq, .vexp2, .vlog2, .vsinp, .vcosp, .vcmul, .vperm, .vcompact,
        .vqnt], can i →
      let k := s.xSees sp x .v
      let maps := ([k.a, k.b, k.cc].filterMap fun o => o.filter bearsMap).map k.c.mapOf
      let cd : Prop := ∃ n ∈ [k.a, k.b, k.cc].filterMap id, 96 ≤ n ∧ n < 100
      (x.mchkB = true → maps.length ≥ 2 → (∃ m ∈ maps, m.known = false) → exec (i x) s = .next (s.xTrap q { code := 10 })) ∧
      (x.mchkB = true → (∀ m ∈ maps, m.known = true) →
        (∃ m ∈ maps, ∃ m' ∈ maps, m.m.tag ≠ m'.m.tag ∨ ∃ e d, e < k.n ∧ d < 4 ∧ coordAt m e k.w d ≠ coordAt m' e k.w d) →
        exec (i x) s = .next (s.xTrap q { code := 11 })) ∧
      (x.mchkB = false → cd → k.refKnown = false → exec (i x) s = .next (s.xTrap q { code := 10 }))) ∧
    -- predicates and VMOV.E
    (let k := s.xSees sp x .p
     let a := sget 0 k.c.p (x.a.toNat % 16)
     let b := sget 0 k.c.p (x.cN.getD 0 % 16)
     ∀ p ∈ ([(Instr.pand, a &&& b), (Instr.por, a ||| b), (Instr.pxor, a ^^^ b), (Instr.pnot, ~~~a), (Instr.pmov, a),
      (Instr.pset, BitVec.ofNat 256 (2 ^ x.immN - 1))] : List ((XArgs → Instr) × Pred)), can p.1 → k.early k.n k.w = none →
      XWrites (p.1 x) s sp x .p 2 (.p (x.d.toNat % 16)) none p.2.toNat 0) ∧
    (let k := s.xSees sp x .e
     can .vmovE → k.early k.n k.w = none →
      XWrites (.vmovE x) s sp x .e 2 (.e (x.d.toNat % 16)) none (k.elem .f32 (k.a.getD 0) (x.b.toNat % 64)) 0) ∧
    -- the store queue, waits, NOP
    (let k := s.xSees sp x .none
     let v := k.c.mapOf (k.a.getD 0)
     xSpec (.xpush x) = some (sp, x) →
      (XReady s x (xLq sp x) true → k.early k.n k.w = none → XIssues (.xpush x) s sp x .nil []
        [(BitVec.ofNat 2048 (k.c.rawOf (k.a.getD 0)), { v with own := true, m := { v.m with slot := 0 } })]) ∧
      (q.kind = .x → c.loop.act = false → c.sq.length ≥ 32 → exec (.xpush x) s = .next s)) ∧
    (xSpec (.xwait x) = some (sp, x) → q.kind = .x →
      (c.loop.act = true → c.loop.place = c.loop.ns * c.loop.sl → ill (.xwait x)) ∧
      (c.loop.act = true → c.loop.place ≠ c.loop.ns * c.loop.sl → c.loop.squashed = true →
        moved (.xwait x) false (s.landX u (T + 1) false) (on x.st.toNat 0)) ∧
      (c.loop.act = false ∨ c.loop.place ≠ c.loop.ns * c.loop.sl ∧ c.loop.squashed = false → c.xStall x false false = true →
        exec (.xwait x) s = .next s) ∧
      (XReady s x false false → moved (.xwait x) true (s.landX u (T + 1) false) (on x.st.toNat (x.d.toNat * 128 + x.a.toNat)))) ∧
    (q.kind = .x → c.loop.act = true → c.loop.place = c.loop.ns * c.loop.sl → ill .nop) ∧
    (q.kind = .x → c.loop.act = false ∨ c.loop.place ≠ c.loop.ns * c.loop.sl → moved .nop false (s.landX u (T + 1) false) (on 0 0)) ∧
    (isCtl q.kind = true → ∃ t, exec .nop s = .next t ∧ KNext s t q 0 0) ∧
    (q.kind = .l ∨ q.kind = .s → ∃ t, exec .nop s = .next t ∧ LsDone { pb := false, pa := false, ext := none } false s t q next) ∧
    -- loops
    (xSpec (.xloop x) = some (sp, x) → q.kind = .x → c.loop.act = true → ill (.xloop x)) ∧
    (let m := s.landX u (T + 1) true
     let a := x.a.toNat
     let n := match c.loop.again with
       | some n => n
       | none => if a < 96 then (sget 0 (m.core u).e (a - 80)).toNat else if a = 113 then 1 else if a = 127 then x.immN else 0
     xSpec (.xloop x) = some (sp, x) → XReady s x false false → c.loop.act = false →
      moved (.xloop x) true m fun c => { on x.st.toNat 0 (shift c) with loop :=
        { act := decide (n ≠ 0), n := n, k := 0, q := n, turn := 0, ns := x.d.toNat / 16 + 1, sl := x.d.toNat % 16 + 1, rsc := x.t.toNat
          place := 0, head := s.pc q, skip := decide (n = 0), again := none } }) ∧
    (let l := c.loop
     let m := s.landX u (T + 1) true
     xSpec (.xlend x) = some (sp, x) → q.kind = .x →
      (l.act = false ∨ l.place ≠ l.ns * l.sl → ill (.xlend x)) ∧
      (l.act = true → l.place = l.ns * l.sl → c.xStall x false false = true → exec (.xlend x) s = .next s) ∧
      (l.act = true → l.place = l.ns * l.sl → c.xStall x false false = false → (s.ctl q).req = false →
        (l.k + 2 < min l.n l.q + l.ns → moved (.xlend x) true m fun c => { on x.st.toNat 0 (shift c) with
          loop := { l with k := l.k + 1, turn := (l.turn + 1) % 32, place := 0 }, xpos := .next l.head }) ∧
        (l.k + 2 ≥ min l.n l.q + l.ns → l.q = l.n → moved (.xlend x) true m fun c => { on x.st.toNat 0 (shift c) with loop := .closed }))) ∧
    -- gauges
    (let k := s.xSees sp x .v
     let m := s.xNow sp x
     let cx := m.ctxOf q
     let own : MapOut := match k.ref with
       | some r => destMap .keep r r.m.ew (2048 / r.m.ew.bits)
       | none => .keep .nil
     let id := k.scalar k.a
     let g := cx.gauge id
     (can .gread → k.early k.n k.w = none →
      (1 ≤ id → id < 2 ^ cx.gtsz → g.st = 1 → XWrites (.gread x) s sp x .v 3 (.v k.d) (some own) g.bits 0) ∧
      (id = 0 ∨ id ≥ 2 ^ cx.gtsz ∨ g.st = 0 → exec (.gread x) s = .next (s.xTrap q { code := 12 })) ∧
      (1 ≤ id → id < 2 ^ cx.gtsz → g.st = 2 → exec (.gread x) s = .next (s.xTrap q { code := 13 }))) ∧
     (can .gstat → k.early k.n k.w = none →
      (id ≥ 2 ^ cx.gtsz → exec (.gstat x) s = .next (s.xTrap q { code := 12 })) ∧
      (id < 2 ^ cx.gtsz → XWrites (.gstat x) s sp x .v 3 (.v k.d) (some own)
        ((if id = 0 then 0 else g.st) % 2 ^ 32 + cx.stray % 2 ^ 32 * 2 ^ 32 + (if id = 0 then 0 else g.gen % 2 ^ 32) * 2 ^ 64) 0))) ∧
    (let k := s.xSees sp x .v
     let m := s.xNow sp x
     let cx := m.ctxOf q
     let id := (sget 0 k.c.e (x.immN % 16)).toNat % 2 ^ 20
     let g := cx.gauge id
     let A := k.a.getD 64
     let C := k.cc.getD 64
     let sync := if (xPb x).isSome then m.tick else k.c.xsync
     let gen := g.chosen sync m.tick
     let sc := gen.2.1.getD k.f.b8Index 0
     let map := k.mapTo (.filled (joinCoords (k.c.mapOf A) (k.c.mapOf C) 128 32)) 8 256
     let noise := (List.range 256).map fun j => noiseAt k.c.nkey (k.view map) j
     let y := quantAll k.f (k.c.rawOf A) (k.c.rawOf C) sc x.mode x.ovfB noise
     (gen = (g.gen, g.sx, g.ovm) ∨ ∃ t, t > sync ∧ (t, gen) ∈ g.past) ∧ ((∀ z ∈ g.past, z.1 ≤ sync) → gen = (g.gen, g.sx, g.ovm)) ∧
     (can .vqnt → k.early k.n k.w = none →
      (id = 0 ∨ id ≥ 2 ^ cx.gtsz ∨ g.st = 0 → exec (.vqnt x) s = .next (s.xTrap q { code := 12 })) ∧
      (1 ≤ id → id < 2 ^ cx.gtsz → g.st = 2 → exec (.vqnt x) s = .next (s.xTrap q { code := 13 })) ∧
      (1 ≤ id → id < 2 ^ cx.gtsz → g.st = 1 → y.lost = true → exec (.vqnt x) s = .next (s.xTrap q { code := 10 })) ∧
      (1 ≤ id → id < 2 ^ cx.gtsz → g.st = 1 → y.lost = false → y.exceed = 0 → XIssues (.vqnt x) s sp x (s.xSlot sp x (.v k.d))
        [{ s.xEntry sp x .v 3 (.v k.d) (some map) y.val y.flags with e2 := some (x.immN / 16 % 16, (sc % 2 ^ 32).toNat) }] []) ∧
      (1 ≤ id → id < 2 ^ cx.gtsz → g.st = 1 → y.lost = false → y.exceed ≠ 0 → gen.2.2 = false → ∃ t m', exec (.vqnt x) s = .next t ∧
        XDone x (xLq sp x) (s.xSlot sp x (.v k.d))
          [{ s.xEntry sp x .v 3 (.v k.d) (some map) y.val y.flags with e2 := some (x.immN / 16 % 16, (sc % 2 ^ 32).toNat) }] [] m' t q ∧
        m' = { m with ids := m.ids + 1, ctxs := m'.ctxs } ∧
        (m'.ctxOf q).parts = cx.parts ++ [{ id := m.ids + 1, src := q, gid := id, half := .zero, ov := y.exceed }]) ∧
      (1 ≤ id → id < 2 ^ cx.gtsz → g.st = 1 → y.lost = false → y.exceed ≠ 0 → gen.2.2 = true → ∃ (m' : State) (e : XPend), exec (.vqnt x) s =
          .next (m'.stopAt q { code := 14, info := gen.1 % 2 ^ 32 * 2 ^ 32 + id * 2 ^ 12 + (sc % 2 ^ 8).toNat * 2 ^ 4 } (BitVec.ofNat 64 (s.pc q ||| 1))) ∧
        (m'.core u).xnow = T ∧ (m'.core u).pend = ((s.landX u T false).core u).pend ++ [e] ∧ e.dst = .v k.d ∧ e.cyc = T + 3 ∧ e.rerun ≠ none)))

/-- R27, R30, R31, R60, R79, R84: one cycle of X time. It makes the writes that are due in it, in the order of issue, and no other: a result's register takes the
value and the map, the later issued of two that write one register being the one that stays, its chain slot follows, its flags are or'ed into
`xst`; a map of its own takes the lowest shadow slot that is free, in that order, or becomes LOST where none is. X time stands while the core is stopped.
Which results share a slot is log entry 23, that a LOST map keeps LW log entry 76: the model's choices. -/
def Obligations.XWriteCycle : Prop :=
  ∀ (s : State),
    let u := s.ev.i
    let q : SeqId := { unit := u, kind := .k }
    let c := s.core u
    let T := c.xnow
    let due := c.pend.filter fun p => p.cyc == T
    let rest := c.pend.filter fun p => p.cyc != T
    let used := c.slotsKept T due rest false
    let lowest (i : Nat) (l : List Nat) : Prop := i < 8 ∧ i ∉ l ∧ ∀ j, j < i → j ∈ l
    let sc2 (p : XPend) (n : Nat) : Prop := ∃ y, p.e2 = some (n, y)
    ((s.ctl q).mode ≠ .normal → exec .xResultWrite s = .next s) ∧
    ((s.ctl q).mode = .normal → (s.ctl q).only = none → (s.ctl q).stepDone = false → T < c.xnext → (∀ p ∈ c.pend, p.cyc ≥ T) →
      (due = [] → exec .xResultWrite s = .next (s.setCore u { c with xnow := T + 1 })) ∧
      (due ≠ [] → (∀ p ∈ due, p.sq = false) → (∀ p ∈ c.pend, p.rerun = none) → (due.map XPend.id).Nodup →
        ∃ t d, exec .xResultWrite s = .next t ∧ t = ({ s with ctls := t.ctls } : State).setCore u d ∧
          (∀ r, ctlKey r ≠ ctlKey q → t.ctl r = s.ctl r) ∧
          t.ctl q = { s.ctl q with xst := (s.ctl q).xst ||| BitVec.ofNat 32 (due.foldl (fun a p => a ||| p.flags) 0) } ∧
          d = { c with pend := rest, xnow := T + 1, v := d.v, w := d.w, p := d.p, e := d.e, ch := d.ch, shadow := d.shadow, cmst := d.cmst } ∧
          -- what no write names stays
          (∀ n, (∀ p ∈ due, p.dst ≠ .v n) → sget (0, CMap.nil) d.v n = sget (0, CMap.nil) c.v n) ∧
          (∀ n, (∀ p ∈ due, p.dst ≠ .w n) → sget (0, CMap.nil) d.w n = sget (0, CMap.nil) c.w n) ∧
          (∀ n, (∀ p ∈ due, p.dst ≠ .p n) → sget 0 d.p n = sget 0 c.p n) ∧
          (∀ n, (∀ p ∈ due, p.dst ≠ .e n ∧ ¬sc2 p n) → sget 0 d.e n = sget 0 c.e n) ∧
          (∀ h ∈ d.ch, h.2.prod = none ∨ h ∈ c.ch) ∧
          (∀ l p r, due = l ++ p :: r →
            -- the last write of a register stays
            ((∀ y ∈ r, y.dst ≠ p.dst) →
              (∀ n, p.dst = .v n → p.keep = false → (sget (0, CMap.nil) d.v n).1 = BitVec.ofNat 2048 p.val) ∧
              (∀ n, p.dst = .v n → p.keep = true → (∀ y ∈ l, y.dst ≠ p.dst) → (sget (0, CMap.nil) d.v n).1 = (sget (0, CMap.nil) c.v n).1) ∧
              (∀ n, p.dst = .w n → (sget (0, CMap.nil) d.w n).1 = BitVec.ofNat 4096 p.val) ∧
              (∀ n, p.dst = .p n → sget 0 d.p n = BitVec.ofNat 256 p.val) ∧
              (∀ n, p.dst = .e n → ¬sc2 p n → (∀ y ∈ r, ¬sc2 y n) → sget 0 d.e n = BitVec.ofNat 32 p.val) ∧
              (∀ n y, p.dst = .v n ∨ p.dst = .w n → p.map = some (.keep y) →
                (if p.dst = .v n then (sget (0, CMap.nil) d.v n).2 else (sget (0, CMap.nil) d.w n).2) = y)) ∧
            (∀ n y, p.e2 = some (n, y) → (∀ z ∈ r, z.dst ≠ .e n ∧ ¬sc2 z n) → sget 0 d.e n = BitVec.ofNat 32 y) ∧
            -- a chain slot keeps what its own producer wrote
            (∀ n i h, p.dst = .v n → p.keep = false → (i, h) ∈ c.ch → h.prod = some p.id → ∃ m,
              (i, ({ val := BitVec.ofNat 2048 p.val, map := m, prod := none } : ChSlot)) ∈ d.ch ∧
              ((∀ y ∈ r, y.dst ≠ p.dst) → m = (sget (0, CMap.nil) d.v n).2))) ∧
          -- shadow slots
          (∀ p n y xs, due = [p] → p.dst = .v n ∨ p.dst = .w n → p.map = some (.fresh y xs) →
            let m := if p.dst = .v n then (sget (0, CMap.nil) d.v n).2 else (sget (0, CMap.nil) d.w n).2
            let img := if p.img then c.cmst ||| 2 else c.cmst
            (∀ i, lowest i used → m = { y with slot := BitVec.ofNat 3 i } ∧ d.shadow = sset c.shadow i xs ∧ d.cmst = img) ∧
            ((∀ i, i < 8 → i ∈ used) → m = { CMap.nil with mode := .lost, tag := y.tag, lw := y.lw, ew := y.ew } ∧
              d.shadow = c.shadow ∧ d.cmst = img ||| 1)) ∧
          (∀ p n y xs p' n' y' xs' i j, due = [p, p'] → p.dst = .v n → p'.dst = .v n' → n ≠ n' → p.map = some (.fresh y xs) →
            p'.map = some (.fresh y' xs') → lowest i used → lowest j (i :: used) →
            (sget (0, CMap.nil) d.v n).2 = { y with slot := BitVec.ofNat 3 i } ∧ (sget (0, CMap.nil) d.v n').2 = { y' with slot := BitVec.ofNat 3 j } ∧
            d.shadow = sset (sset c.shadow i xs) j xs')))

/-- R117 to R125, R322, R382, R385: FETCH finds the next slot of its stream's tag in the line, or the target of a branch, which must be a slot of the stream in a
branch-target line; a stream that meets the end tag, or its sequence region, has ended. A line that is not mapped executable where its address leads, be it through a
PEER page, is a page fault of the stream.
Which slot and address an ILLEGAL_LINE at a target names is log entry 16, that another trap at a target leaves the target as the resume address log
entry 80, and that a PEER page of a module out of reach is not mapped log entry 91: the model's choices. -/
def Obligations.Fetch : Prop :=
  ∀ (s : State) (a src : Nat) (ws : List Nat),
    let q := s.cur
    let va := a / 32 * 32
    let i := a / 4 % 8
    let h := ws.getD 0 0
    let tag (j : Nat) : Nat := h / 2 ^ (4 * j - 4) % 16
    let m := (s.fetchLine q va).1
    let own := tagOf q.kind
    let faults (res : Nat) (t : Trap) : Prop := exec .fetch s = .next (s.ownTrap q t (BitVec.ofNat 64 res))
    let plain (b : Nat) : Prop := m.fetchPhase q = .run ∧ (m.ctxOf q).inRegion own b = false ∧ (q.kind = .x → (m.core q.unit).loop.skip = false)
    (∀ h p, s.homeNow (modOf q.unit) (s.asidOf q) va = some (h, p) → p.x = true → s.touchLine (modOf q.unit) (s.asidOf q) va = (s, false) →
      headerOk (memNat s.mem (p.key h (s.asidOf q) va) 4) = true → s.fetchLine q va =
        (s, .ok ((List.range 8).map fun i => memNat s.mem (p.key h (s.asidOf q) va + 4 * i) 4))) ∧
    ((s.fetchLine q va).2 = .ok ws → s.pos q = .next a →
      (∀ j, i < j → j < 8 → tag j = own → (∀ l, i < l → l < j → tag l ≠ own ∧ tag l ≠ 15) →
        (plain (va + 4 * j) → exec .fetch s = .next (m.setPos q (.at (va + 4 * j)))) ∧
        (m.fetchPhase q = .run → (m.ctxOf q).inRegion own (va + 4 * j) = true → q.kind ≠ .x → exec .fetch s = .next (m.goto q .ended))) ∧
      (∀ j, i < j → j < 8 → tag j = 15 → (∀ l, i < l → l < j → tag l ≠ own ∧ tag l ≠ 15) → m.fetchPhase q = .run → q.kind ≠ .x →
        exec .fetch s = .next (m.goto q .ended))) ∧
    ((s.fetchLine q va).2 = .ok ws → s.pos q = .target a src → a % 4 = 0 → i ≠ 0 →
      (h / 2 ^ 28 % 2 = 1 → tag i = own → plain a → exec .fetch s = .next (m.setPos q (.at a))) ∧
      (h / 2 ^ 28 % 2 = 0 ∨ tag i ≠ own → exec .fetch s = .next (m.ownTrap q { code := 2, addr := a } (BitVec.ofNat 64 src)))) ∧
    (s.pos q = .target a src → a % 4 ≠ 0 ∨ i = 0 → faults src { code := 2, addr := a }) ∧
    (s.pos q = .target a src → a % 4 = 0 → i ≠ 0 →
      (s.homeNow (modOf q.unit) (s.asidOf q) va = none → faults a { code := 7, addr := va, info := 3 }) ∧
      (∀ h p, s.homeNow (modOf q.unit) (s.asidOf q) va = some (h, p) → p.x = false → faults a { code := 7, addr := va, info := 4 })) ∧
    ((∃ b, s.pos q = .at b) ∨ s.pos q = .ended → exec .fetch s = .next s)

-- Numbers and maps (spec 02, 03) -------------------------------------------------------------------------------------------------------

/-- R47, R55 to R57: a value that a float format holds converts to its own code in every mode and raises nothing; a NaN gives the canonical
NaN. An integer in range converts to its two's complement code. Toward zero an IEEE format never enlarges a magnitude, and to nearest no
finite code of it lies closer to the value than the result. R65 to R67: a frozen dot product of finite terms goes group by group of its profile, the
accumulator carried on; a group floors each term to a multiple of its q, or sums it exactly, and rounds once to nearest, where what was lost lies above: then a tie goes
up and NX is set. Values are compared as multiples of 2^k. -/
def Obligations.Conversion : Prop :=
  let num (v : Val) (k y : Int) : Prop := ∃ neg m e, v = .num neg m e false ∧ k ≤ e ∧ y = (if neg then -(m : Int) else m) * 2 ^ (e - k).toNat
  let dyad (v : Dy) (k y : Int) : Prop := (v.m = 0 ∧ y = 0) ∨ (k ≤ v.e ∧ y = v.m * 2 ^ (v.e - k).toNat)
  (∀ (n : Nat) (f : Fmt), fmtOfCode n = some f →
    (∀ (c : Nat) (mode : Rm) (ovf : Bool) (u : Nat), f.isFloat = true → c < 2 ^ f.width →
      (decode f c).isNan = false → (decode f c).isInf = false → convert f (decode f c) mode ovf u = (c, 0)) ∧
    (∀ (v : Val) (mode : Rm) (ovf : Bool) (u : Nat), f.isFloat = true → v.isNan = true →
      convert f v mode ovf u = (nanCode f, if v.isSnan then fNV else 0)) ∧
    (∀ (z : Int) (mode : Rm) (ovf : Bool) (u : Nat), f.isInt = true → (intRange f).1 ≤ z → z ≤ (intRange f).2 →
      convert f (Val.ofInt z) mode ovf u = ((z % 2 ^ f.width).toNat, 0)) ∧
    (∀ (neg : Bool) (m : Nat) (e k x y z : Int) (ovf : Bool) (u c : Nat), f.isIeee = true → num (.num neg m e false) k x →
      (num (decode f (convert f (.num neg m e false) .rz ovf u).1) k y → y.natAbs ≤ x.natAbs) ∧
      (num (decode f (convert f (.num neg m e false) .rne ovf u).1) k y → num (decode f c) k z → (y - x).natAbs ≤ (z - x).natAbs))) ∧
  (∀ (p : Profile) (a : Nat) (xs ys : List (Val × Nat)), a < 2 ^ 32 → 0 < p.g → p.g ∣ xs.length →
    (decode .f32 a).isNan = false → (decode .f32 a).isInf = false → (∀ q ∈ xs ++ ys, q.1.isNan = false ∧ q.1.isInf = false) →
    let r := frozenDot p (decode .f32 a) xs
    let r' := frozenDot p (decode .f32 r.1) ys
    frozenDot p (decode .f32 a) (xs ++ ys) = (r'.1, r.2 ||| r'.2)) ∧
  (∀ (p : Profile) (c : Val) (qs : List (Val × Nat)) (k C : Int) (T : List Int) (L : Nat), num c k C →
    List.Forall₂ (fun q t => num q.1 k t) qs T → 0 < qs.length → qs.length ≤ p.g →
    let ts := if p.inside then T ++ [C] else T
    (∀ t ∈ ts, t ≠ 0 → t.natAbs.log2 ≤ L) → ((∀ t ∈ ts, t = 0) ∨ ∃ t ∈ ts, t ≠ 0 ∧ t.natAbs.log2 = L) →
    let S := (ts.map fun t => match p.w with
      | some w => if w ≤ L then t / 2 ^ (L - w) * 2 ^ (L - w) else t
      | none => t).sum
    let lost := S != ts.sum
    ∃ v, dyad v k (if p.inside then S else C + S) ∧
      frozenDot p c qs = (zeroSign c qs (roundF32Sticky v lost).1, (roundF32Sticky v lost).2)) ∧
  (∀ (v : Dy) (lost : Bool) (k x y z : Int) (c : Nat), dyad v k x → num (decode .f32 (roundF32Sticky v lost).1) k y →
    ((roundF32Sticky v lost).2 &&& fNX ≠ 0 ↔ lost = true ∨ y ≠ x) ∧
    (num (decode .f32 c) k z → (z < y → y + z ≤ 2 * x) ∧ (y < z → if lost then 2 * x < y + z else 2 * x ≤ y + z)))

/-- R84 to R86: the map of a result says where its elements come from: under every class that moves elements, a position carries the coordinates of
its source position, and a position without one is void; SLICE shifts coordinates and PERM exchanges axes. A carrier with no coordinates
passes on its mode and its tag.
LW of a gathered map and of one without coordinates is log entry 76, the model's choice. -/
def Obligations.MapsFollowElements : Prop :=
  ∀ (v : MapV) (ew : Ew) (n : Nat), n = 64 ∨ n = 128 ∨ n = 256 → 2 ^ v.m.lw.toNat ≤ n →
    let W := 2 ^ v.m.lw.toNat
    let H := n / W
    let out (cls : MapClass) : MapV := (destMap cls v ew n).view v
    let gives (cls : MapClass) (f : Nat → Nat → Option Int) : Prop :=
      (out cls).known = true ∧ (out cls).m.tag = v.m.tag ∧ (out cls).m.ew = ew ∧ ∀ j d, j < n → d < 4 → coord (out cls) j d = f j d
    (v.known = true →
      (∀ lw, lw < 16 → ∀ y, ∀ z, z < W →
        ∀ p ∈ ([(.keep, fun j => j), (.reshape lw, fun j => j), (.trans, fun j => j % H * W + j / H), (.redQ, fun j => j / W * W),
          (.redR, fun j => j % W), (.bcastE y, fun _ => y), (.bcastRow y, fun j => y * W + j % W), (.bcastCol z, fun j => j / W * W + z)]
          : List (MapClass × (Nat → Nat))), gives p.1 fun j d => coord v (p.2 j) d) ∧
      (∀ idx : List (Option Nat), idx.length = n → gives (.gather idx) fun j d => match idx.getD j none with
        | some i => coord v i d
        | none => some (-2 ^ 31)) ∧
      (∀ off : Coord, gives (.slice off) fun j d =>
        if isVoid v j then some (-2 ^ 31) else (coord v j d).map fun c => wrap32 (c + (off.get d).toInt)) ∧
      (∀ p : Q4 Nat, (∀ d, d < 4 → p.get d < 4) → gives (.perm p) fun j d => coord v j (p.get d))) ∧
    (v.known = false → ∀ cls, out cls = { m := { CMap.nil with mode := v.m.mode, tag := v.m.tag, lw := v.m.lw, ew := ew }, xs := v.xs, own := v.own })

-- The machine as a whole -----------------------------------------------------------------------------------------------------------------

/-- R124, R127 to R135, R145 and the worked examples of spec 05 to 23: the spec's own instruction words decode to the instructions that they stand
for, in the stream that they stand in, and words that break a format are no instruction. -/
def Obligations.DecodesWrittenWords : Prop :=
  let tok : Tok := { pb := false, pa := false, ext := none }
  let sk : Tok := { pb := false, pa := true, ext := some (0, 1) }
  let kl : Tok := { pb := true, pa := false, ext := some (1, 0) }
  let x : XArgs := { st := 0, pb := false, pa := false, d := 0, a := 0, b := 0, t := 0, oper := none, imm := none, prf := none, slu := none }
  let op : XOper := { c := 0, fmt := 0, fv := false, rm := 0, mc := 0, mchk := false, ovf := false, sat := false }
  ∀ p ∈ ([
    (.k, 0x24600000, [], some (.li 3 0)),
    (.k, 0x10630040, [], some (.addi 3 3 0x40)),
    (.k, 0x04630800, [], some (.add 3 3 1)),
    (.k, 0x64807FFF, [], some (.kloop 4 3 0x1FFF)),
    (.k, 0x40690008, [], some (.kst 3 9 8)),
    (.k, 0x6C000300, [], some (.tkpop 2)),
    (.k, 0x88011000, [], some (.mringDef 1 2 0)),
    (.k, 0x8CE53000, [0x30000002], some (.mgo 7 5 6 2)),
    (.k, 0xA98A5801, [], some (.ixgo 12 10 11 true)),
    (.k, 0xBCD10000, [], some (.bgenq 6 17 0)),
    (.k, 0xC00B5003, [], some (.tfwr 11 10)),
    (.k, 0xC0000000, [], some .eret),
    (.k, 0xD8200001, [], some (.grpid 1 0)),
    (.k, 0xE0006801, [], some (.bwait 0 0 13)),
    (.k, 0xE8052800, [], some (.semwait 0 5 5)),
    (.k, 0xECB00000, [], some (.pgmap 5 16)),
    (.k, 0xFC000004, [], some (.fence 4)),
    (.l, 0x38888002, [], some (.laaddHi tok 2 2 2)),
    (.l, 0x41820000, [0x44000000], some (.lak kl 6 0 0)),
    (.l, 0x100C0080, [], some (.lgb tok 0 3 2)),
    (.s, 0x14500040, [], some (.putsigFlag8 tok 1 4 1 false)),
    (.s, 0x1C410002, [0x41000000], some (.sOwne sk 1 2)),
    (.s, 0x04810040, [0x41000000], some (.st sk 2 1 false)),
    (.x, 0x11840209, [0x10A00000], some (.vfma { x with st := 1, pb := true, d := 4, a := 1, b := 2, t := 1, oper := some { op with c := 5 } })),
    (.x, 0x9901FE00, [0x200040E0], some (.vmov { x with st := 1, d := 1, a := 0x7F, imm := some 0x40E0 })),
    (.x, 0xF3019801, [], some (.wacc { x with st := 3, d := 1, a := 0x4C, t := 1 })),
    (.x, 0xFE028000, [0x18324000, 0x20000010],
      some (.vqnt { x with st := 2, d := 2, a := 0x40, oper := some { op with c := 0x41, fmt := 0x24, fv := true }, imm := some 0x10 })),
    (.x, 0xF805FE00, [0x20000020], some (.xloop { x with d := 5, a := 0x7F, imm := some 0x20 })),
    (.x, 0, [], some .nop), (.l, 0, [], some .nop), (.s, 0, [], some .nop), (.k, 0, [], some .nop),
    -- a branch to slot 0, LAADD with MODE 0b11, VFMA without its C, PUTSIG with KIND 0b11, a word of K in L
    (.k, 0x64807FFF - 0x6000, [], none),
    (.l, 0x3888C002, [], none),
    (.x, 0x11840209, [], none),
    (.s, 0x14500070, [], none),
    (.l, 0x6C000300, [], none)]
    : List (Stream × IWord × List IWord × Option Instr)), Sys2Proof.decode p.1 p.2.1 p.2.2.1 = p.2.2.2

/-- R127 to R135: an instruction that meets its format decodes, in its own stream, from the words that encode it: no field of an encoding
is dropped or read in the place of another, and no two instructions share their words. NOP has its word in every stream (R134). -/
def Obligations.EncodeDecodeRoundTrip : Prop :=
  (∀ (i : Instr) (st : Stream), i.wf = true → i.stream = some st ∨ i = .nop → Sys2Proof.decode st (encode i).1 (encode i).2 = some i) ∧
  (∀ (i j : Instr) (st : Stream), i.wf = true → j.wf = true → i.stream = some st → j.stream = some st → encode i = encode j → i = j) ∧
  (∀ (i : Instr) (st : Stream) (w : IWord) (exts : List IWord), Sys2Proof.decode st w exts = some i → i.wf = true ∧
    (i.stream = some st ∨ i = .nop))

/-- R119, R123, R135, R312, R319, R320, R327, R389: the turn of a sequencer that stands at a slot, with nothing to stop it, runs the instruction that the
slot's word and the extension words bound to it decode to; a word that decodes to none is ILLEGAL_INST, and a slot whose page has ceased to translate
a page fault. A finished step, a pending engine fault and a breakpoint come first; elsewhere the sequencer fetches. A stopped core, or a stream that
is not the one being stepped, stays. Time passes by the model's own `Config.elapsed` (log entry 1), what the instruction has observed is marked (log entry 82),
and a word that is no instruction waits for no token (log entry 90). -/
def Obligations.StepRunsDecodedInstruction : Prop :=
  ∀ (s : State) (q : SeqId) (rest : List Turn) (a n h : Nat) (p : Page),
    let c := s.ctl q
    let no := strmNo q.kind
    let s1 : State := { s with agenda := rest, tick := s.tick + 1, clock := s.clock + Config.elapsed s.tick, cur := q }
    let md := modOf q.unit
    let i := a / 4 % 8
    let base := p.key h (s.asidOf q) (a / 32 * 32)
    let word (j : Nat) : Nat := memNat s.mem (base + 4 * j) 4
    let tag (j : Nat) : Nat := word 0 / 2 ^ (4 * j - 4) % 16
    let runs (x : Instr) : Prop := step s = match exec x s1 with
      | .next r => .next (s1.observed r q x)
      | o => o
    let moves : Prop := (s.phase q).done = false ∧
      ((c.mode = .normal ∧ c.stepDone = false ∧ (c.only = none ∨ c.only = some no)) ∨ (c.mode = .handler ∧ no = 0 ∧ c.joint = none))
    let faulty : Prop := isCtl q.kind = true ∧ c.mode = .normal ∧ c.faults ≠ []
    s.agenda = .seq q :: rest →
      (moves → s.pos q = .at a → ¬faulty → c.breaks no a = false → s.homeNow md (s.asidOf q) a = some (h, p) → 1 ≤ i →
        i + n < 8 → (∀ j, j < n → tag (i + 1 + j) = 5) → i + 1 + n = 8 ∨ tag (i + 1 + n) ≠ 5 →
        let exts := (List.range n).map fun j => (BitVec.ofNat 32 (word (i + 1 + j)) : IWord)
        match Sys2Proof.decode (streamOf q.kind) (BitVec.ofNat 32 (word i)) exts with
        | some x => runs x
        | none => step s = .next (s1.ownTrap q { code := 1 } (BitVec.ofNat 64 a))) ∧
      (moves → s.pos q = .at a → ¬faulty → c.breaks no a = false → s.homeNow md (s.asidOf q) a = none →
        step s = .next (s1.ownTrap q { code := 7, addr := a / 32 * 32, info := 3 } (BitVec.ofNat 64 a))) ∧
      (moves → s.pos q = .at a → faulty → runs .engineTrap) ∧
      (moves → s.pos q = .at a → ¬faulty → c.breaks no a = true → runs .breakStop) ∧
      (moves → (∀ b, s.pos q ≠ .at b) → runs .fetch) ∧
      (c.mode = .normal → c.stepDone = true → runs .stepStop) ∧
      ((c.mode = .stopped ∨ (c.mode = .handler ∧ no ≠ 0)) → c.joint = none → step s = .next s1) ∧
      (∀ m, c.mode = .normal → c.stepDone = false → c.only = some m → m ≠ no → step s = .next s1)

/-- Every step keeps memory in its canonical form: addresses rise strictly, and no entry equals what an unlisted address reads as. Equal
memories are then equal data. It is the model's invariant: the spec speaks of bytes, not of lists. -/
def Obligations.StepKeepsMemoryCanonical : Prop :=
  ∀ s t : State, s.memOk → step s = .next t → t.memOk

/-- R440, R22, R73, R155, R312, R351, R375: at reset every module is OFF, no context, group, queue record or port status exists, every register, flag, sluice,
semaphore, tile, chain slot and map of every unit is at its value at group start, and memory lists nothing. That memory never written reads 0 in host pages, and that device time
starts at 0, are choices of the model (log entries 2 and 3). -/
def Obligations.ResetState : Prop :=
  let s := State.reset
  s.memOk ∧
  (∀ md, (s.hub md).power = .off) ∧ (∀ md asid, (s.ctx md asid).st = .free) ∧ (∀ n, (s.quad n).grp = 0) ∧
  (∀ md n, s.hostQ md n = HostQ.init ∧ s.port md n = Port.init ∧ (s.hub md).evheld = [] ∧ (s.hub md).dropped = 0) ∧ (∀ md, s.devTime md = 0) ∧
  (∀ q n, s.getK q n = 0) ∧ (∀ q, (s.ctl q).xst = 0 ∧ (s.ctl q).mode = .normal ∧ (s.ctl q).faults = [] ∧ (s.ctl q).frame.tvec = 0) ∧
  (∀ q n, s.getA q n = 0) ∧ (∀ qd n, s.sem qd n = 0 ∧ sget [] (s.quad qd).waiters n = [] ∧ sget [] (s.quad qd).deque n = []) ∧
  (∀ u n, (s.core u).tokens n = 0) ∧ (∀ u, (s.core u).cmst = 0 ∧ (s.core u).lq = [] ∧ (s.core u).sq = [] ∧ (s.core u).pend = [] ∧
    (s.core u).spend = [] ∧ (s.core u).loop.act = false ∧ (s.core u).nkey = 0 ∧ (s.core u).mx = .init ∧ (s.core u).mx.tiles = [] ∧ (s.core u).ix = .init) ∧
  (∀ u n, sget (0, CMap.nil) (s.core u).v n = (0, CMap.nil) ∧ sget (0, CMap.nil) (s.core u).w n = (0, CMap.nil) ∧
    sget 0 (s.core u).p n = 0 ∧ sget 0 (s.core u).e n = 0 ∧ (s.core u).cursor n = .closed ∧ (s.core u).chain n = .nil ∧
    sget [] (s.core u).smark n = [] ∧ sget 0 (s.core u).lmark n = 0) ∧
  (∀ r a, s.byte r a = 0) ∧ (∀ g, s.isEngine g = false) ∧ s.transit = [] ∧ s.sessions = [] ∧ s.basin = [] ∧ s.groups = []

end
end

