-- ==== Sys2Proof/Laws/Map.lean ====
section
/-! SUPPORT. The sparse maps: a read after a write, at the same key and at another. -/

namespace Sys2Proof.Machine

@[simp] theorem sget_nil {α : Type} (d : α) (i : Nat) : sget d [] i = d := rfl

@[simp] theorem sget_sset_same {α : Type} (d : α) (m : SMap α) (i : Nat) (x : α) : sget d (sset m i x) i = x := by
  induction m with
  | nil => simp [sset, sget]
  | cons p m ih =>
    obtain ⟨k, v⟩ := p
    by_cases h : i = k
    · simp [sset, sget, h]
    · by_cases h2 : i < k
      · simp [sset, sget, h, h2]
      · simp [sset, sget, h, h2, ih]

theorem sget_sset_other {α : Type} (d : α) (m : SMap α) (i j : Nat) (x : α) (h : j ≠ i) :
    sget d (sset m i x) j = sget d m j := by
  induction m with
  | nil => simp [sset, sget, h]
  | cons p m ih =>
    obtain ⟨k, v⟩ := p
    by_cases h1 : i = k
    · subst h1; simp [sset, sget, h]
    · by_cases h2 : i < k
      · simp only [sset, h1, h2, if_true, if_false, sget, h]
      · simp only [sset, h1, h2, if_false, sget, ih]

theorem sget_sset {α : Type} (d : α) (m : SMap α) (i j : Nat) (x : α) :
    sget d (sset m i x) j = if j = i then x else sget d m j := by
  by_cases h : j = i
  · subst h; simp
  · simp [h, sget_sset_other]

@[simp] theorem sset_sset {α : Type} (m : SMap α) (i : Nat) (x y : α) : sset (sset m i x) i y = sset m i y := by
  induction m with
  | nil => simp [sset]
  | cons p m ih =>
    obtain ⟨k, v⟩ := p
    by_cases h1 : i = k
    · simp [sset, h1]
    · by_cases h2 : i < k
      · simp [sset, h1, h2]
      · simp [sset, h1, h2, ih]

/-- The entries that pass a test of their keys keep their values; the others read as unlisted. -/
theorem sget_filter {α : Type} (d : α) (f : Nat → Bool) (m : SMap α) (i : Nat) :
    sget d (m.filter fun p => f p.1) i = if f i = true then sget d m i else d := by
  induction m with
  | nil => simp [sget]
  | cons p m ih =>
    obtain ⟨k, v⟩ := p
    by_cases hk : f k = true
    · simp only [List.filter_cons, hk, if_true, sget, ih]
      by_cases h : i = k
      · subst h; simp [hk]
      · simp [h]
    · by_cases h : i = k
      · subst h; simp [hk, ih]
      · simp [hk, sget, ih, h]

@[simp] theorem sget_sdel_same {α : Type} (d : α) (m : SMap α) (i : Nat) : sget d (sdel m i) i = d := by
  rw [sdel, sget_filter d (fun k => k != i)]; simp

theorem sget_sdel_other {α : Type} (d : α) (m : SMap α) (i j : Nat) (h : j ≠ i) : sget d (sdel m i) j = sget d m j := by
  rw [sdel, sget_filter d (fun k => k != i)]; simp [h]

@[simp] theorem length_span (a n : Nat) : (span a n).length = n := by
  induction n generalizing a with
  | zero => rfl
  | succ n ih => simp [span, ih]

@[simp] theorem mem_span (a n i : Nat) : i ∈ span a n ↔ a ≤ i ∧ i < a + n := by
  induction n generalizing a with
  | zero =>
    simp only [span, List.not_mem_nil, false_iff]
    omega
  | succ n ih =>
    simp only [span, List.mem_cons, ih]
    omega

@[simp] theorem length_leBytes (n x : Nat) : (leBytes n x).length = n := by
  induction n generalizing x with
  | zero => rfl
  | succ n ih => simp [leBytes, ih]

/-- Byte i of a number's little-endian bytes (R43). -/
theorem leBytes_getElem? (n x i : Nat) (h : i < n) : (leBytes n x)[i]? = some (BitVec.ofNat 8 (x / 256 ^ i)) := by
  induction n generalizing x i with
  | zero => omega
  | succ n ih =>
    cases i with
    | zero => simp [leBytes]
    | succ i => simp [leBytes, ih _ _ (Nat.lt_of_succ_lt_succ h), Nat.pow_succ, Nat.div_div_eq_div_mul, Nat.mul_comm]

/-- The number that little-endian bytes hold is the one that gave them (R43). -/
theorem leNat_leBytes (n x : Nat) : leNat (leBytes n x) = x % 256 ^ n := by
  induction n generalizing x with
  | zero => simp [leBytes, leNat, Nat.mod_one]
  | succ n ih =>
    have h : x % 256 ^ (n + 1) = x % 256 + 256 * (x / 256 % 256 ^ n) := by
      rw [Nat.pow_succ, Nat.mul_comm, Nat.mod_mul]
    have h2 : (BitVec.ofNat 8 x).toNat = x % 256 := BitVec.toNat_ofNat x 8
    rw [leBytes, leNat, ih, h2, h]

end Sys2Proof.Machine
end

