-- ==== Sys2Proof/Laws/State.lean ====
section
/-! SUPPORT. One lemma per field of State per update of a table, so that no proof unfolds a record update, and the read of a table's
entry after a write. -/

namespace Sys2Proof.Machine

@[simp] theorem State.setCtl_agenda (s : State) (q : SeqId) (c : Ctl) : (s.setCtl q c).agenda = s.agenda := rfl
@[simp] theorem State.setCtl_tick (s : State) (q : SeqId) (c : Ctl) : (s.setCtl q c).tick = s.tick := rfl
@[simp] theorem State.setCtl_clock (s : State) (q : SeqId) (c : Ctl) : (s.setCtl q c).clock = s.clock := rfl
@[simp] theorem State.setCtl_cur (s : State) (q : SeqId) (c : Ctl) : (s.setCtl q c).cur = s.cur := rfl
@[simp] theorem State.setCtl_ev (s : State) (q : SeqId) (c : Ctl) : (s.setCtl q c).ev = s.ev := rfl
@[simp] theorem State.setCtl_ids (s : State) (q : SeqId) (c : Ctl) : (s.setCtl q c).ids = s.ids := rfl
@[simp] theorem State.setCtl_mem (s : State) (q : SeqId) (c : Ctl) : (s.setCtl q c).mem = s.mem := rfl
@[simp] theorem State.setCtl_latent (s : State) (q : SeqId) (c : Ctl) : (s.setCtl q c).latent = s.latent := rfl
@[simp] theorem State.setCtl_bad (s : State) (q : SeqId) (c : Ctl) : (s.setCtl q c).bad = s.bad := rfl
@[simp] theorem State.setCtl_transit (s : State) (q : SeqId) (c : Ctl) : (s.setCtl q c).transit = s.transit := rfl
@[simp] theorem State.setCtl_engine (s : State) (q : SeqId) (c : Ctl) : (s.setCtl q c).engine = s.engine := rfl
@[simp] theorem State.setCtl_cores (s : State) (q : SeqId) (c : Ctl) : (s.setCtl q c).cores = s.cores := rfl
@[simp] theorem State.setCtl_quads (s : State) (q : SeqId) (c : Ctl) : (s.setCtl q c).quads = s.quads := rfl
@[simp] theorem State.setCtl_hubs (s : State) (q : SeqId) (c : Ctl) : (s.setCtl q c).hubs = s.hubs := rfl
@[simp] theorem State.setCtl_ctxs (s : State) (q : SeqId) (c : Ctl) : (s.setCtl q c).ctxs = s.ctxs := rfl
@[simp] theorem State.setCtl_groups (s : State) (q : SeqId) (c : Ctl) : (s.setCtl q c).groups = s.groups := rfl
@[simp] theorem State.setCtl_dieBars (s : State) (q : SeqId) (c : Ctl) : (s.setCtl q c).dieBars = s.dieBars := rfl
@[simp] theorem State.setCtl_pkgBars (s : State) (q : SeqId) (c : Ctl) : (s.setCtl q c).pkgBars = s.pkgBars := rfl
@[simp] theorem State.setCtl_podBars (s : State) (q : SeqId) (c : Ctl) : (s.setCtl q c).podBars = s.podBars := rfl
@[simp] theorem State.setCtl_sessions (s : State) (q : SeqId) (c : Ctl) : (s.setCtl q c).sessions = s.sessions := rfl
@[simp] theorem State.setCtl_aborted (s : State) (q : SeqId) (c : Ctl) : (s.setCtl q c).aborted = s.aborted := rfl
@[simp] theorem State.setCtl_basin (s : State) (q : SeqId) (c : Ctl) : (s.setCtl q c).basin = s.basin := rfl

@[simp] theorem State.setCore_agenda (s : State) (u : Nat) (c : Core) : (s.setCore u c).agenda = s.agenda := rfl
@[simp] theorem State.setCore_tick (s : State) (u : Nat) (c : Core) : (s.setCore u c).tick = s.tick := rfl
@[simp] theorem State.setCore_clock (s : State) (u : Nat) (c : Core) : (s.setCore u c).clock = s.clock := rfl
@[simp] theorem State.setCore_cur (s : State) (u : Nat) (c : Core) : (s.setCore u c).cur = s.cur := rfl
@[simp] theorem State.setCore_ev (s : State) (u : Nat) (c : Core) : (s.setCore u c).ev = s.ev := rfl
@[simp] theorem State.setCore_ids (s : State) (u : Nat) (c : Core) : (s.setCore u c).ids = s.ids := rfl
@[simp] theorem State.setCore_mem (s : State) (u : Nat) (c : Core) : (s.setCore u c).mem = s.mem := rfl
@[simp] theorem State.setCore_latent (s : State) (u : Nat) (c : Core) : (s.setCore u c).latent = s.latent := rfl
@[simp] theorem State.setCore_bad (s : State) (u : Nat) (c : Core) : (s.setCore u c).bad = s.bad := rfl
@[simp] theorem State.setCore_transit (s : State) (u : Nat) (c : Core) : (s.setCore u c).transit = s.transit := rfl
@[simp] theorem State.setCore_engine (s : State) (u : Nat) (c : Core) : (s.setCore u c).engine = s.engine := rfl
@[simp] theorem State.setCore_ctls (s : State) (u : Nat) (c : Core) : (s.setCore u c).ctls = s.ctls := rfl
@[simp] theorem State.setCore_quads (s : State) (u : Nat) (c : Core) : (s.setCore u c).quads = s.quads := rfl
@[simp] theorem State.setCore_hubs (s : State) (u : Nat) (c : Core) : (s.setCore u c).hubs = s.hubs := rfl
@[simp] theorem State.setCore_ctxs (s : State) (u : Nat) (c : Core) : (s.setCore u c).ctxs = s.ctxs := rfl
@[simp] theorem State.setCore_groups (s : State) (u : Nat) (c : Core) : (s.setCore u c).groups = s.groups := rfl
@[simp] theorem State.setCore_dieBars (s : State) (u : Nat) (c : Core) : (s.setCore u c).dieBars = s.dieBars := rfl
@[simp] theorem State.setCore_pkgBars (s : State) (u : Nat) (c : Core) : (s.setCore u c).pkgBars = s.pkgBars := rfl
@[simp] theorem State.setCore_podBars (s : State) (u : Nat) (c : Core) : (s.setCore u c).podBars = s.podBars := rfl
@[simp] theorem State.setCore_sessions (s : State) (u : Nat) (c : Core) : (s.setCore u c).sessions = s.sessions := rfl
@[simp] theorem State.setCore_aborted (s : State) (u : Nat) (c : Core) : (s.setCore u c).aborted = s.aborted := rfl
@[simp] theorem State.setCore_basin (s : State) (u : Nat) (c : Core) : (s.setCore u c).basin = s.basin := rfl

@[simp] theorem State.setQuad_agenda (s : State) (n : Nat) (c : Quad) : (s.setQuad n c).agenda = s.agenda := rfl
@[simp] theorem State.setQuad_tick (s : State) (n : Nat) (c : Quad) : (s.setQuad n c).tick = s.tick := rfl
@[simp] theorem State.setQuad_clock (s : State) (n : Nat) (c : Quad) : (s.setQuad n c).clock = s.clock := rfl
@[simp] theorem State.setQuad_cur (s : State) (n : Nat) (c : Quad) : (s.setQuad n c).cur = s.cur := rfl
@[simp] theorem State.setQuad_ev (s : State) (n : Nat) (c : Quad) : (s.setQuad n c).ev = s.ev := rfl
@[simp] theorem State.setQuad_ids (s : State) (n : Nat) (c : Quad) : (s.setQuad n c).ids = s.ids := rfl
@[simp] theorem State.setQuad_mem (s : State) (n : Nat) (c : Quad) : (s.setQuad n c).mem = s.mem := rfl
@[simp] theorem State.setQuad_latent (s : State) (n : Nat) (c : Quad) : (s.setQuad n c).latent = s.latent := rfl
@[simp] theorem State.setQuad_bad (s : State) (n : Nat) (c : Quad) : (s.setQuad n c).bad = s.bad := rfl
@[simp] theorem State.setQuad_transit (s : State) (n : Nat) (c : Quad) : (s.setQuad n c).transit = s.transit := rfl
@[simp] theorem State.setQuad_engine (s : State) (n : Nat) (c : Quad) : (s.setQuad n c).engine = s.engine := rfl
@[simp] theorem State.setQuad_ctls (s : State) (n : Nat) (c : Quad) : (s.setQuad n c).ctls = s.ctls := rfl
@[simp] theorem State.setQuad_cores (s : State) (n : Nat) (c : Quad) : (s.setQuad n c).cores = s.cores := rfl
@[simp] theorem State.setQuad_hubs (s : State) (n : Nat) (c : Quad) : (s.setQuad n c).hubs = s.hubs := rfl
@[simp] theorem State.setQuad_ctxs (s : State) (n : Nat) (c : Quad) : (s.setQuad n c).ctxs = s.ctxs := rfl
@[simp] theorem State.setQuad_groups (s : State) (n : Nat) (c : Quad) : (s.setQuad n c).groups = s.groups := rfl
@[simp] theorem State.setQuad_dieBars (s : State) (n : Nat) (c : Quad) : (s.setQuad n c).dieBars = s.dieBars := rfl
@[simp] theorem State.setQuad_pkgBars (s : State) (n : Nat) (c : Quad) : (s.setQuad n c).pkgBars = s.pkgBars := rfl
@[simp] theorem State.setQuad_podBars (s : State) (n : Nat) (c : Quad) : (s.setQuad n c).podBars = s.podBars := rfl
@[simp] theorem State.setQuad_sessions (s : State) (n : Nat) (c : Quad) : (s.setQuad n c).sessions = s.sessions := rfl
@[simp] theorem State.setQuad_aborted (s : State) (n : Nat) (c : Quad) : (s.setQuad n c).aborted = s.aborted := rfl
@[simp] theorem State.setQuad_basin (s : State) (n : Nat) (c : Quad) : (s.setQuad n c).basin = s.basin := rfl

@[simp] theorem State.setHub_agenda (s : State) (m : Nat) (h : Hub) : (s.setHub m h).agenda = s.agenda := rfl
@[simp] theorem State.setHub_tick (s : State) (m : Nat) (h : Hub) : (s.setHub m h).tick = s.tick := rfl
@[simp] theorem State.setHub_clock (s : State) (m : Nat) (h : Hub) : (s.setHub m h).clock = s.clock := rfl
@[simp] theorem State.setHub_cur (s : State) (m : Nat) (h : Hub) : (s.setHub m h).cur = s.cur := rfl
@[simp] theorem State.setHub_ev (s : State) (m : Nat) (h : Hub) : (s.setHub m h).ev = s.ev := rfl
@[simp] theorem State.setHub_ids (s : State) (m : Nat) (h : Hub) : (s.setHub m h).ids = s.ids := rfl
@[simp] theorem State.setHub_mem (s : State) (m : Nat) (h : Hub) : (s.setHub m h).mem = s.mem := rfl
@[simp] theorem State.setHub_latent (s : State) (m : Nat) (h : Hub) : (s.setHub m h).latent = s.latent := rfl
@[simp] theorem State.setHub_bad (s : State) (m : Nat) (h : Hub) : (s.setHub m h).bad = s.bad := rfl
@[simp] theorem State.setHub_transit (s : State) (m : Nat) (h : Hub) : (s.setHub m h).transit = s.transit := rfl
@[simp] theorem State.setHub_engine (s : State) (m : Nat) (h : Hub) : (s.setHub m h).engine = s.engine := rfl
@[simp] theorem State.setHub_ctls (s : State) (m : Nat) (h : Hub) : (s.setHub m h).ctls = s.ctls := rfl
@[simp] theorem State.setHub_cores (s : State) (m : Nat) (h : Hub) : (s.setHub m h).cores = s.cores := rfl
@[simp] theorem State.setHub_quads (s : State) (m : Nat) (h : Hub) : (s.setHub m h).quads = s.quads := rfl
@[simp] theorem State.setHub_ctxs (s : State) (m : Nat) (h : Hub) : (s.setHub m h).ctxs = s.ctxs := rfl
@[simp] theorem State.setHub_groups (s : State) (m : Nat) (h : Hub) : (s.setHub m h).groups = s.groups := rfl
@[simp] theorem State.setHub_dieBars (s : State) (m : Nat) (h : Hub) : (s.setHub m h).dieBars = s.dieBars := rfl
@[simp] theorem State.setHub_pkgBars (s : State) (m : Nat) (h : Hub) : (s.setHub m h).pkgBars = s.pkgBars := rfl
@[simp] theorem State.setHub_podBars (s : State) (m : Nat) (h : Hub) : (s.setHub m h).podBars = s.podBars := rfl
@[simp] theorem State.setHub_sessions (s : State) (m : Nat) (h : Hub) : (s.setHub m h).sessions = s.sessions := rfl
@[simp] theorem State.setHub_aborted (s : State) (m : Nat) (h : Hub) : (s.setHub m h).aborted = s.aborted := rfl
@[simp] theorem State.setHub_basin (s : State) (m : Nat) (h : Hub) : (s.setHub m h).basin = s.basin := rfl

@[simp] theorem State.setCtx_agenda (s : State) (md asid : Nat) (c : Ctx) : (s.setCtx md asid c).agenda = s.agenda := rfl
@[simp] theorem State.setCtx_tick (s : State) (md asid : Nat) (c : Ctx) : (s.setCtx md asid c).tick = s.tick := rfl
@[simp] theorem State.setCtx_clock (s : State) (md asid : Nat) (c : Ctx) : (s.setCtx md asid c).clock = s.clock := rfl
@[simp] theorem State.setCtx_cur (s : State) (md asid : Nat) (c : Ctx) : (s.setCtx md asid c).cur = s.cur := rfl
@[simp] theorem State.setCtx_ev (s : State) (md asid : Nat) (c : Ctx) : (s.setCtx md asid c).ev = s.ev := rfl
@[simp] theorem State.setCtx_ids (s : State) (md asid : Nat) (c : Ctx) : (s.setCtx md asid c).ids = s.ids := rfl
@[simp] theorem State.setCtx_mem (s : State) (md asid : Nat) (c : Ctx) : (s.setCtx md asid c).mem = s.mem := rfl
@[simp] theorem State.setCtx_latent (s : State) (md asid : Nat) (c : Ctx) : (s.setCtx md asid c).latent = s.latent := rfl
@[simp] theorem State.setCtx_bad (s : State) (md asid : Nat) (c : Ctx) : (s.setCtx md asid c).bad = s.bad := rfl
@[simp] theorem State.setCtx_transit (s : State) (md asid : Nat) (c : Ctx) : (s.setCtx md asid c).transit = s.transit := rfl
@[simp] theorem State.setCtx_engine (s : State) (md asid : Nat) (c : Ctx) : (s.setCtx md asid c).engine = s.engine := rfl
@[simp] theorem State.setCtx_ctls (s : State) (md asid : Nat) (c : Ctx) : (s.setCtx md asid c).ctls = s.ctls := rfl
@[simp] theorem State.setCtx_cores (s : State) (md asid : Nat) (c : Ctx) : (s.setCtx md asid c).cores = s.cores := rfl
@[simp] theorem State.setCtx_quads (s : State) (md asid : Nat) (c : Ctx) : (s.setCtx md asid c).quads = s.quads := rfl
@[simp] theorem State.setCtx_hubs (s : State) (md asid : Nat) (c : Ctx) : (s.setCtx md asid c).hubs = s.hubs := rfl
@[simp] theorem State.setCtx_groups (s : State) (md asid : Nat) (c : Ctx) : (s.setCtx md asid c).groups = s.groups := rfl
@[simp] theorem State.setCtx_dieBars (s : State) (md asid : Nat) (c : Ctx) : (s.setCtx md asid c).dieBars = s.dieBars := rfl
@[simp] theorem State.setCtx_pkgBars (s : State) (md asid : Nat) (c : Ctx) : (s.setCtx md asid c).pkgBars = s.pkgBars := rfl
@[simp] theorem State.setCtx_podBars (s : State) (md asid : Nat) (c : Ctx) : (s.setCtx md asid c).podBars = s.podBars := rfl
@[simp] theorem State.setCtx_sessions (s : State) (md asid : Nat) (c : Ctx) : (s.setCtx md asid c).sessions = s.sessions := rfl
@[simp] theorem State.setCtx_aborted (s : State) (md asid : Nat) (c : Ctx) : (s.setCtx md asid c).aborted = s.aborted := rfl
@[simp] theorem State.setCtx_basin (s : State) (md asid : Nat) (c : Ctx) : (s.setCtx md asid c).basin = s.basin := rfl

@[simp] theorem State.setGroup_agenda (s : State) (g : Nat) (x : Group) : (s.setGroup g x).agenda = s.agenda := rfl
@[simp] theorem State.setGroup_tick (s : State) (g : Nat) (x : Group) : (s.setGroup g x).tick = s.tick := rfl
@[simp] theorem State.setGroup_clock (s : State) (g : Nat) (x : Group) : (s.setGroup g x).clock = s.clock := rfl
@[simp] theorem State.setGroup_cur (s : State) (g : Nat) (x : Group) : (s.setGroup g x).cur = s.cur := rfl
@[simp] theorem State.setGroup_ev (s : State) (g : Nat) (x : Group) : (s.setGroup g x).ev = s.ev := rfl
@[simp] theorem State.setGroup_ids (s : State) (g : Nat) (x : Group) : (s.setGroup g x).ids = s.ids := rfl
@[simp] theorem State.setGroup_mem (s : State) (g : Nat) (x : Group) : (s.setGroup g x).mem = s.mem := rfl
@[simp] theorem State.setGroup_latent (s : State) (g : Nat) (x : Group) : (s.setGroup g x).latent = s.latent := rfl
@[simp] theorem State.setGroup_bad (s : State) (g : Nat) (x : Group) : (s.setGroup g x).bad = s.bad := rfl
@[simp] theorem State.setGroup_transit (s : State) (g : Nat) (x : Group) : (s.setGroup g x).transit = s.transit := rfl
@[simp] theorem State.setGroup_engine (s : State) (g : Nat) (x : Group) : (s.setGroup g x).engine = s.engine := rfl
@[simp] theorem State.setGroup_ctls (s : State) (g : Nat) (x : Group) : (s.setGroup g x).ctls = s.ctls := rfl
@[simp] theorem State.setGroup_cores (s : State) (g : Nat) (x : Group) : (s.setGroup g x).cores = s.cores := rfl
@[simp] theorem State.setGroup_quads (s : State) (g : Nat) (x : Group) : (s.setGroup g x).quads = s.quads := rfl
@[simp] theorem State.setGroup_hubs (s : State) (g : Nat) (x : Group) : (s.setGroup g x).hubs = s.hubs := rfl
@[simp] theorem State.setGroup_ctxs (s : State) (g : Nat) (x : Group) : (s.setGroup g x).ctxs = s.ctxs := rfl
@[simp] theorem State.setGroup_dieBars (s : State) (g : Nat) (x : Group) : (s.setGroup g x).dieBars = s.dieBars := rfl
@[simp] theorem State.setGroup_pkgBars (s : State) (g : Nat) (x : Group) : (s.setGroup g x).pkgBars = s.pkgBars := rfl
@[simp] theorem State.setGroup_podBars (s : State) (g : Nat) (x : Group) : (s.setGroup g x).podBars = s.podBars := rfl
@[simp] theorem State.setGroup_sessions (s : State) (g : Nat) (x : Group) : (s.setGroup g x).sessions = s.sessions := rfl
@[simp] theorem State.setGroup_aborted (s : State) (g : Nat) (x : Group) : (s.setGroup g x).aborted = s.aborted := rfl
@[simp] theorem State.setGroup_basin (s : State) (g : Nat) (x : Group) : (s.setGroup g x).basin = s.basin := rfl

@[simp] theorem State.setCtl_core (s : State) (q : SeqId) (c : Ctl) (v : Nat) : (s.setCtl q c).core v = s.core v := rfl
@[simp] theorem State.setCtl_quad (s : State) (q : SeqId) (c : Ctl) (k : Nat) : (s.setCtl q c).quad k = s.quad k := rfl
@[simp] theorem State.setCtl_hub (s : State) (q : SeqId) (c : Ctl) (k : Nat) : (s.setCtl q c).hub k = s.hub k := rfl
@[simp] theorem State.setCtl_ctx (s : State) (q : SeqId) (c : Ctl) (md2 asid2 : Nat) : (s.setCtl q c).ctx md2 asid2 = s.ctx md2 asid2 := rfl
@[simp] theorem State.setCtl_group (s : State) (q : SeqId) (c : Ctl) (k : Nat) : (s.setCtl q c).group k = s.group k := rfl

@[simp] theorem State.setCore_ctl (s : State) (u : Nat) (c : Core) (r : SeqId) : (s.setCore u c).ctl r = s.ctl r := rfl
@[simp] theorem State.setCore_quad (s : State) (u : Nat) (c : Core) (k : Nat) : (s.setCore u c).quad k = s.quad k := rfl
@[simp] theorem State.setCore_hub (s : State) (u : Nat) (c : Core) (k : Nat) : (s.setCore u c).hub k = s.hub k := rfl
@[simp] theorem State.setCore_ctx (s : State) (u : Nat) (c : Core) (md2 asid2 : Nat) : (s.setCore u c).ctx md2 asid2 = s.ctx md2 asid2 := rfl
@[simp] theorem State.setCore_group (s : State) (u : Nat) (c : Core) (k : Nat) : (s.setCore u c).group k = s.group k := rfl

@[simp] theorem State.setQuad_ctl (s : State) (n : Nat) (c : Quad) (r : SeqId) : (s.setQuad n c).ctl r = s.ctl r := rfl
@[simp] theorem State.setQuad_core (s : State) (n : Nat) (c : Quad) (v : Nat) : (s.setQuad n c).core v = s.core v := rfl
@[simp] theorem State.setQuad_hub (s : State) (n : Nat) (c : Quad) (k : Nat) : (s.setQuad n c).hub k = s.hub k := rfl
@[simp] theorem State.setQuad_ctx (s : State) (n : Nat) (c : Quad) (md2 asid2 : Nat) : (s.setQuad n c).ctx md2 asid2 = s.ctx md2 asid2 := rfl
@[simp] theorem State.setQuad_group (s : State) (n : Nat) (c : Quad) (k : Nat) : (s.setQuad n c).group k = s.group k := rfl

@[simp] theorem State.setHub_ctl (s : State) (m : Nat) (h : Hub) (r : SeqId) : (s.setHub m h).ctl r = s.ctl r := rfl
@[simp] theorem State.setHub_core (s : State) (m : Nat) (h : Hub) (v : Nat) : (s.setHub m h).core v = s.core v := rfl
@[simp] theorem State.setHub_quad (s : State) (m : Nat) (h : Hub) (k : Nat) : (s.setHub m h).quad k = s.quad k := rfl
@[simp] theorem State.setHub_ctx (s : State) (m : Nat) (h : Hub) (md2 asid2 : Nat) : (s.setHub m h).ctx md2 asid2 = s.ctx md2 asid2 := rfl
@[simp] theorem State.setHub_group (s : State) (m : Nat) (h : Hub) (k : Nat) : (s.setHub m h).group k = s.group k := rfl

@[simp] theorem State.setCtx_ctl (s : State) (md asid : Nat) (c : Ctx) (r : SeqId) : (s.setCtx md asid c).ctl r = s.ctl r := rfl
@[simp] theorem State.setCtx_core (s : State) (md asid : Nat) (c : Ctx) (v : Nat) : (s.setCtx md asid c).core v = s.core v := rfl
@[simp] theorem State.setCtx_quad (s : State) (md asid : Nat) (c : Ctx) (k : Nat) : (s.setCtx md asid c).quad k = s.quad k := rfl
@[simp] theorem State.setCtx_hub (s : State) (md asid : Nat) (c : Ctx) (k : Nat) : (s.setCtx md asid c).hub k = s.hub k := rfl
@[simp] theorem State.setCtx_group (s : State) (md asid : Nat) (c : Ctx) (k : Nat) : (s.setCtx md asid c).group k = s.group k := rfl

@[simp] theorem State.setGroup_ctl (s : State) (g : Nat) (x : Group) (r : SeqId) : (s.setGroup g x).ctl r = s.ctl r := rfl
@[simp] theorem State.setGroup_core (s : State) (g : Nat) (x : Group) (v : Nat) : (s.setGroup g x).core v = s.core v := rfl
@[simp] theorem State.setGroup_quad (s : State) (g : Nat) (x : Group) (k : Nat) : (s.setGroup g x).quad k = s.quad k := rfl
@[simp] theorem State.setGroup_hub (s : State) (g : Nat) (x : Group) (k : Nat) : (s.setGroup g x).hub k = s.hub k := rfl
@[simp] theorem State.setGroup_ctx (s : State) (g : Nat) (x : Group) (md2 asid2 : Nat) : (s.setGroup g x).ctx md2 asid2 = s.ctx md2 asid2 := rfl

@[simp] theorem State.ctl_setCtl (s : State) (q : SeqId) (c : Ctl) : (s.setCtl q c).ctl q = c := by simp [State.ctl, State.setCtl]
@[simp] theorem State.core_setCore (s : State) (u : Nat) (c : Core) : (s.setCore u c).core u = c := by simp [State.core, State.setCore]
@[simp] theorem State.quad_setQuad (s : State) (n : Nat) (c : Quad) : (s.setQuad n c).quad n = c := by simp [State.quad, State.setQuad]
@[simp] theorem State.hub_setHub (s : State) (m : Nat) (h : Hub) : (s.setHub m h).hub m = h := by simp [State.hub, State.setHub]
@[simp] theorem State.ctx_setCtx (s : State) (md asid : Nat) (c : Ctx) : (s.setCtx md asid c).ctx md asid = c := by
  simp [State.ctx, State.setCtx]
@[simp] theorem State.group_setGroup (s : State) (g : Nat) (x : Group) : (s.setGroup g x).group g = x := by
  simp [State.group, State.setGroup]

theorem State.ctl_setCtl_other (s : State) (q r : SeqId) (c : Ctl) (h : ctlKey r ≠ ctlKey q) : (s.setCtl q c).ctl r = s.ctl r := by
  simp [State.ctl, State.setCtl, sget_sset, h]
/-- The sequencers of a core share one control entry. -/
theorem State.ctl_setCtl_key (s : State) (q r : SeqId) (c : Ctl) (h : ctlKey r = ctlKey q) : (s.setCtl q c).ctl r = c := by
  simp [State.ctl, State.setCtl, h]
theorem State.core_setCore_other (s : State) (u v : Nat) (c : Core) (h : v ≠ u) : (s.setCore u c).core v = s.core v := by
  simp [State.core, State.setCore, sget_sset, h]
theorem State.quad_setQuad_other (s : State) (n k : Nat) (c : Quad) (h : k ≠ n) : (s.setQuad n c).quad k = s.quad k := by
  simp [State.quad, State.setQuad, sget_sset, h]
theorem State.hub_setHub_other (s : State) (m k : Nat) (x : Hub) (h : k ≠ m) : (s.setHub m x).hub k = s.hub k := by
  simp [State.hub, State.setHub, sget_sset, h]
theorem State.ctx_setCtx_other (s : State) (md asid md2 asid2 : Nat) (c : Ctx) (h : ctxKey md2 asid2 ≠ ctxKey md asid) :
    (s.setCtx md asid c).ctx md2 asid2 = s.ctx md2 asid2 := by
  simp [State.ctx, State.setCtx, sget_sset, h]
theorem State.group_setGroup_other (s : State) (g k : Nat) (x : Group) (h : k ≠ g) : (s.setGroup g x).group k = s.group k := by
  simp [State.group, State.setGroup, sget_sset, h]

@[simp] theorem State.setCtl_setCtl (s : State) (q : SeqId) (c d : Ctl) : (s.setCtl q c).setCtl q d = s.setCtl q d := by
  simp [State.setCtl]
@[simp] theorem State.setCore_setCore (s : State) (u : Nat) (c d : Core) : (s.setCore u c).setCore u d = s.setCore u d := by
  simp [State.setCore]

end Sys2Proof.Machine
end

