-- ==== Sys2Proof/Laws/Memory.lean ====
section
/-! SUPPORT. Memory: every operation keeps the canonical form, a byte read after a write, and canonical memories with equal bytes are
equal. -/

namespace Sys2Proof.Machine

open Sys2Proof

-- The canonical form ---------------------------------------------------------------------------------------------------------

/-- The canonical form, said with quantifiers. -/
theorem Memory.wf_iff (m : List Host.Cell) :
    Memory.wf m = true ↔ m.Pairwise (fun c d => c.1 < d.1) ∧ ∀ c ∈ m, c.2 ≠ unlisted := by
  induction m with
  | nil => simp [Memory.wf]
  | cons c m ih =>
    obtain ⟨a, b⟩ := c
    cases m with
    | nil => simp [Memory.wf]
    | cons d m =>
      obtain ⟨a', b'⟩ := d
      simp only [Memory.wf, Bool.and_eq_true, bne_iff_ne, decide_eq_true_eq, ih, List.pairwise_cons, List.mem_cons,
        forall_eq_or_imp]
      constructor
      · rintro ⟨⟨h1, h2⟩, ⟨h3, h4⟩, h5, h6⟩
        exact ⟨⟨⟨h2, fun x hx => Nat.lt_trans h2 (h3 x hx)⟩, h3, h4⟩, h1, h5, h6⟩
      · rintro ⟨⟨⟨h2, -⟩, h3, h4⟩, h1, h5, h6⟩
        exact ⟨⟨h1, h2⟩, ⟨h3, h4⟩, h5, h6⟩

theorem Memory.wf_filter (m : List Host.Cell) (f : Host.Cell → Bool) (h : Memory.wf m = true) : Memory.wf (m.filter f) = true := by
  rw [Memory.wf_iff] at h ⊢
  exact ⟨h.1.filter f, fun c hc => h.2 c (List.mem_filter.mp hc).1⟩

theorem mem_sset {α : Type} (m : SMap α) (i : Nat) (x : α) (c : Nat × α) (h : c ∈ sset m i x) : c = (i, x) ∨ c ∈ m := by
  induction m with
  | nil => simpa [sset] using h
  | cons p m ih =>
    obtain ⟨k, v⟩ := p
    simp only [sset] at h
    split at h
    · simp only [List.mem_cons] at h ⊢
      rcases h with h | h
      · exact .inl h
      · exact .inr (.inr h)
    · split at h
      · simpa using h
      · simp only [List.mem_cons] at h ⊢
        rcases h with h | h
        · exact .inr (.inl h)
        · exact (ih h).imp id .inr

theorem pairwise_sset {α : Type} (m : SMap α) (i : Nat) (x : α) (h : m.Pairwise fun c d => c.1 < d.1) :
    (sset m i x).Pairwise fun c d => c.1 < d.1 := by
  induction m with
  | nil => simp [sset]
  | cons p m ih =>
    obtain ⟨k, v⟩ := p
    rw [List.pairwise_cons] at h
    simp only [sset]
    split
    · next e => subst e; exact List.pairwise_cons.mpr h
    · split
      · next h1 =>
        refine List.pairwise_cons.mpr ⟨fun c hc => ?_, List.pairwise_cons.mpr h⟩
        rcases List.mem_cons.mp hc with rfl | hc
        · exact h1
        · exact Nat.lt_trans h1 (h.1 c hc)
      · next h0 h1 =>
        refine List.pairwise_cons.mpr ⟨fun c hc => ?_, ih h.2⟩
        rcases mem_sset m i x c hc with rfl | hc
        · simp only; omega
        · exact h.1 c hc

theorem Memory.wf_memSet (m : List Host.Cell) (a : Nat) (b : Byte) (h : Memory.wf m = true) : Memory.wf (memSet m a b) = true := by
  unfold memSet
  split
  · exact Memory.wf_filter m _ h
  · next hb =>
    rw [Memory.wf_iff] at h ⊢
    refine ⟨pairwise_sset m a b h.1, fun c hc => ?_⟩
    rcases mem_sset m a b c hc with rfl | hc
    · exact hb
    · exact h.2 c hc

theorem Memory.wf_memWrite (cells : List (Nat × Byte)) (m : List Host.Cell) (h : Memory.wf m = true) :
    Memory.wf (memWrite m cells) = true := by
  induction cells generalizing m with
  | nil => exact h
  | cons c cells ih => exact ih _ (Memory.wf_memSet m c.1 c.2 h)

/-- Memory at reset has the canonical form. -/
theorem State.reset_memWf : Memory.wf State.reset.mem = true := rfl

-- Reads after writes ---------------------------------------------------------------------------------------------------------

theorem memGet_memSet (m : List Host.Cell) (a : Nat) (b : Byte) (x : Nat) :
    memGet (memSet m a b) x = if x = a then b else memGet m x := by
  unfold memGet memSet
  split
  · next hb =>
    subst hb
    split
    · next hx => subst hx; exact sget_sdel_same _ _ _
    · next hx => exact sget_sdel_other _ _ _ _ hx
  · exact sget_sset _ _ _ _ _

theorem lastCell_cons (c : Nat × Byte) (cells : List (Nat × Byte)) (a : Nat) :
    lastCell (c :: cells) a = (lastCell cells a).or (if c.1 = a then some c.2 else none) := by
  have gen : ∀ (l : List (Nat × Byte)) (r : Option Byte),
      l.foldl (fun r c => if c.1 = a then some c.2 else r) r =
        (l.foldl (fun r c => if c.1 = a then some c.2 else r) none).or r := by
    intro l
    induction l with
    | nil => intro r; simp
    | cons d l ih =>
      intro r
      simp only [List.foldl_cons]
      rw [ih, ih (if d.1 = a then some d.2 else none)]
      split <;> simp
  simp only [lastCell, List.foldl_cons]
  exact gen _ _

theorem memGet_memWrite (cells : List (Nat × Byte)) (m : List Host.Cell) (x : Nat) :
    memGet (memWrite m cells) x = (lastCell cells x).getD (memGet m x) := by
  induction cells generalizing m with
  | nil => rfl
  | cons c cells ih =>
    rw [show memWrite m (c :: cells) = memWrite (memSet m c.1 c.2) cells from rfl, ih, lastCell_cons, memGet_memSet]
    cases lastCell cells x with
    | some b => simp
    | none =>
      by_cases h : x = c.1
      · subst h; simp
      · rw [if_neg h, if_neg fun e : c.1 = x => h e.symm]
        rfl

/-- A byte outside the written ones reads as before. -/
theorem memGet_memWrite_other (cells : List (Nat × Byte)) (m : List Host.Cell) (x : Nat) (h : ∀ c ∈ cells, c.1 ≠ x) :
    memGet (memWrite m cells) x = memGet m x := by
  induction cells generalizing m with
  | nil => rfl
  | cons c cells ih =>
    rw [show memWrite m (c :: cells) = memWrite (memSet m c.1 c.2) cells from rfl,
      ih _ (fun d hd => h d (List.mem_cons_of_mem _ hd)), memGet_memSet,
      if_neg fun e => h c (List.mem_cons_self ..) e.symm]

theorem memGet_filter (m : List Host.Cell) (f : Nat → Bool) (x : Nat) :
    memGet (m.filter fun c => f c.1) x = if f x = true then memGet m x else unlisted := sget_filter _ _ _ _

@[simp] theorem length_cellsOf (a : Nat) (bs : List Byte) : (cellsOf a bs).length = bs.length := by
  induction bs generalizing a with
  | nil => rfl
  | cons b bs ih => simp [cellsOf, ih]

theorem mem_cellsOf (a : Nat) (bs : List Byte) (c : Nat × Byte) : c ∈ cellsOf a bs → a ≤ c.1 ∧ c.1 < a + bs.length := by
  induction bs generalizing a with
  | nil => simp [cellsOf]
  | cons b bs ih =>
    intro h
    rcases List.mem_cons.mp h with rfl | h
    · simp
    · have := ih (a + 1) h
      simp only [List.length_cons]
      omega

theorem lastCell_eq_none (cells : List (Nat × Byte)) (x : Nat) : lastCell cells x = none ↔ ∀ c ∈ cells, c.1 ≠ x := by
  induction cells with
  | nil => simp [lastCell]
  | cons c cells ih =>
    rw [lastCell_cons]
    cases h : lastCell cells x with
    | some b =>
      simp only [Option.some_or, reduceCtorEq, List.mem_cons, forall_eq_or_imp, false_iff, not_and]
      intro _ h2
      rw [ih.mpr h2] at h
      cases h
    | none =>
      by_cases hc : c.1 = x
      · simp [hc]
      · simpa [hc] using ih.mp h

/-- The bytes written at consecutive addresses are read back. -/
theorem lastCell_cellsOf (a : Nat) (bs : List Byte) (x : Nat) :
    lastCell (cellsOf a bs) x = if a ≤ x then bs[x - a]? else none := by
  induction bs generalizing a with
  | nil => simp [cellsOf, lastCell]
  | cons b bs ih =>
    rw [cellsOf, lastCell_cons, ih]
    by_cases h : a = x
    · subst h; simp [show ¬ a + 1 ≤ a by omega]
    · by_cases h2 : a ≤ x
      · have h3 : a + 1 ≤ x := by omega
        obtain ⟨k, rfl⟩ : ∃ k, x = a + 1 + k := ⟨x - (a + 1), by omega⟩
        rw [if_pos h3, if_pos h2, if_neg h, show a + 1 + k - (a + 1) = k by omega, show a + 1 + k - a = k + 1 by omega]
        simp
      · simp [h, h2, show ¬ a + 1 ≤ x by omega]

-- The updates of the state that write memory ---------------------------------------------------------------------------------

theorem State.write_wf (s : State) (cells : List (Nat × Byte)) (h : Memory.wf s.mem = true) : Memory.wf (s.write cells).mem = true :=
  Memory.wf_memWrite cells s.mem h

/-- A store that performs at a wider scope, or everywhere, keeps the memory canonical. -/
theorem State.perform_wf (s : State) (id lvl : Nat) (h : Memory.wf s.mem = true) : Memory.wf (s.perform id lvl).mem = true := by
  unfold State.perform
  split
  · dsimp only
    split
    · exact h
    · exact Memory.wf_memWrite _ _ h
  · exact h

/-- Stores that perform everywhere, with those that have to before them, keep the memory canonical. -/
theorem State.land_wf (s : State) (f : Store → Bool) (h : Memory.wf s.mem = true) : Memory.wf (s.land f).mem = true := by
  unfold State.land
  generalize s.transit.zip (s.landScopes f) = l
  induction l generalizing s with
  | nil => exact h
  | cons x l ih =>
    rw [List.foldl_cons]
    apply ih
    split
    · exact State.perform_wf s _ _ h
    · exact h

theorem State.acquire_wf (s : State) (q : SeqId) (h : Memory.wf s.mem = true) : Memory.wf (s.acquire q).mem = true :=
  State.land_wf s _ h

@[simp] theorem State.store_mem (s : State) (q : SeqId) (lvl : Nat) (cells : List (Nat × Byte)) :
    (s.store q lvl cells).2.mem = s.mem := rfl

/-- Canonical memories that read alike are equal. -/
theorem Memory.ext (m n : List Host.Cell) (hm : Memory.wf m = true) (hn : Memory.wf n = true) (h : ∀ a, memGet m a = memGet n a) :
    m = n := by
  rw [Memory.wf_iff] at hm hn
  have low : ∀ (l : List Host.Cell) (a : Nat), (∀ c ∈ l, a < c.1) → memGet l a = unlisted := by
    intro l a hl
    induction l with
    | nil => rfl
    | cons c l ih =>
      have h1 := hl c (List.mem_cons_self ..)
      have h2 := ih fun d hd => hl d (List.mem_cons_of_mem _ hd)
      unfold memGet at h2 ⊢
      rw [sget, if_neg (by omega), h2]
  induction m generalizing n with
  | nil =>
    cases n with
    | nil => rfl
    | cons d n =>
      have := h d.1
      simp only [memGet, sget] at this
      exact absurd this.symm (by simpa using hn.2 d (List.mem_cons_self ..))
  | cons c m ih =>
    obtain ⟨a, b⟩ := c
    have hc := hm.2 _ (List.mem_cons_self ..)
    have hp := List.pairwise_cons.mp hm.1
    cases n with
    | nil =>
      have := h a
      simp only [memGet, sget] at this
      exact absurd this (by simpa using hc)
    | cons d n =>
      obtain ⟨a', b'⟩ := d
      have hd := hn.2 _ (List.mem_cons_self ..)
      have hq := List.pairwise_cons.mp hn.1
      have key : a = a' := by
        rcases Nat.lt_trichotomy a a' with hlt | he | hlt
        · have h1 := h a
          rw [low ((a', b') :: n) a (by
            intro c hc
            rcases List.mem_cons.mp hc with rfl | hc
            · exact hlt
            · exact Nat.lt_trans hlt (hq.1 c hc))] at h1
          simp only [memGet, sget] at h1
          exact absurd h1 (by simpa using hc)
        · exact he
        · have h1 := h a'
          rw [low ((a, b) :: m) a' (by
            intro c hc
            rcases List.mem_cons.mp hc with rfl | hc
            · exact hlt
            · exact Nat.lt_trans hlt (hp.1 c hc))] at h1
          simp only [memGet, sget] at h1
          exact absurd h1.symm (by simpa using hd)
      subst key
      have hb : b = b' := by simpa [memGet, sget] using h a
      subst hb
      congr 1
      refine ih n ⟨hp.2, fun c hc => hm.2 c (List.mem_cons_of_mem _ hc)⟩ ⟨hq.2, fun c hc => hn.2 c (List.mem_cons_of_mem _ hc)⟩ fun x => ?_
      by_cases hx : x = a
      · subst hx
        rw [low m x hp.1, low n x hq.1]
      · have := h x
        simpa [memGet, sget, hx] using this

end Sys2Proof.Machine
end

