-- ==== Sys2Proof/Laws/Bytes.lean ====
section
/-! SUPPORT. What a sequencer reads after a write, a store and an event; and what the operations on events leave alone. -/

namespace Sys2Proof.Machine

open Sys2Proof

-- Reads ------------------------------------------------------------------------------------------------------------------------

/-- The newest visible store's byte: what `State.byte` finds in transit. -/
def seenIn (l : List Store) (q : SeqId) (a : Nat) : Option Byte :=
  l.foldl (fun r st => if st.visible q then (match lastCell st.cells a with
    | some b => some b
    | none => r) else r) none

theorem State.byte_eq (s : State) (q : SeqId) (a : Nat) : s.byte q a = (seenIn s.transit q a).getD (memGet s.mem a) := rfl

theorem seenIn_append_one (l : List Store) (st : Store) (q : SeqId) (a : Nat) :
    seenIn (l ++ [st]) q a = if st.visible q then (lastCell st.cells a).or (seenIn l q a) else seenIn l q a := by
  simp only [seenIn, List.foldl_append, List.foldl_cons, List.foldl_nil]
  split
  · cases lastCell st.cells a <;> rfl
  · rfl

theorem seenIn_congr (l m : List Store) (q : SeqId) (a : Nat)
    (h : l.map (fun st => (st.visible q, lastCell st.cells a)) = m.map fun st => (st.visible q, lastCell st.cells a)) :
    seenIn l q a = seenIn m q a := by
  unfold seenIn
  generalize (none : Option Byte) = r
  induction l generalizing m r with
  | nil =>
    cases m with
    | nil => rfl
    | cons st m => simp at h
  | cons st l ih =>
    cases m with
    | nil => simp at h
    | cons st' m =>
      simp only [List.map_cons, List.cons.injEq, Prod.mk.injEq] at h
      simp only [List.foldl_cons, h.1.1, h.1.2]
      exact ih m h.2 _

theorem lastCell_filter (cells : List (Nat × Byte)) (f : Nat → Bool) (a : Nat) :
    lastCell (cells.filter fun c => f c.1) a = if f a then lastCell cells a else none := by
  induction cells with
  | nil => simp [lastCell]
  | cons c cells ih =>
    rw [lastCell_cons]
    by_cases h : f c.1 = true
    · rw [List.filter_cons_of_pos (p := fun c : Nat × Byte => f c.1) h, lastCell_cons, ih]
      by_cases e : c.1 = a
      · subst e; simp [h]
      · simp only [e, if_false, Option.or_none]
    · rw [List.filter_cons_of_neg (p := fun c : Nat × Byte => f c.1) h, ih]
      by_cases e : c.1 = a
      · subst e; simp [h]
      · simp only [e, if_false, Option.or_none]

/-- The bytes that a later write has overtaken are gone from every store in transit; the others read as before. -/
theorem seenIn_dropCells (cells : List (Nat × Byte)) (l : List Store) (q : SeqId) (a : Nat) :
    seenIn (dropCells cells l) q a = if (lastCell cells a).isSome then none else seenIn l q a := by
  have key : ∀ st : Store, lastCell (st.cells.filter fun c => !(cells.any fun d => d.1 == c.1)) a
      = if (lastCell cells a).isSome then none else lastCell st.cells a := by
    intro st
    rw [lastCell_filter st.cells (fun x => !(cells.any fun d => d.1 == x)) a]
    cases h : lastCell cells a with
    | none =>
      have := (lastCell_eq_none cells a).mp h
      have h2 : (cells.any fun d => d.1 == a) = false := by simpa using fun x y hxy => this (x, y) hxy
      simp [h2]
    | some b =>
      have h2 : (cells.any fun d => d.1 == a) = true := by
        rw [← Bool.not_eq_false]
        intro h3
        have h4 : lastCell cells a = none := (lastCell_eq_none cells a).mpr fun c hc hca => by
          have := (List.any_eq_false.mp h3) c hc
          simp [hca] at this
        rw [h4] at h
        cases h
      simp [h2]
  cases h : lastCell cells a with
  | none =>
    simp only [h, Option.isSome_none, Bool.false_eq_true, if_false] at key ⊢
    apply seenIn_congr
    simp only [dropCells, List.map_map]
    apply List.map_congr_left
    intro st _
    simp only [Function.comp_apply, key st]
    rfl
  | some b =>
    simp only [h, Option.isSome_some, if_true] at key ⊢
    unfold seenIn dropCells
    induction l with
    | nil => rfl
    | cons st l ih => simpa [key st] using ih

/-- A read after a write that performs everywhere at once: every sequencer reads the written bytes, and the others as before. -/
theorem State.byte_write (s : State) (cells : List (Nat × Byte)) (q : SeqId) (a : Nat) :
    (s.write cells).byte q a = (lastCell cells a).getD (s.byte q a) := by
  simp only [State.byte_eq, State.write, seenIn_dropCells, memGet_memWrite]
  cases lastCell cells a <;> rfl

/-- A store in front of a list is read where nothing behind it hides it. -/
theorem seenIn_cons (st : Store) (l : List Store) (q : SeqId) (a : Nat) :
    seenIn (st :: l) q a = (seenIn l q a).or (if st.visible q then lastCell st.cells a else none) := by
  have key : ∀ (l : List Store) (r : Option Byte), l.foldl (fun r st => if st.visible q then (match lastCell st.cells a with
      | some b => some b
      | none => r) else r) r = (seenIn l q a).or r := by
    intro l
    induction l with
    | nil => intro r; rfl
    | cons x l ih =>
      intro r
      unfold seenIn
      simp only [List.foldl_cons]
      rw [ih, ih]
      split
      · cases lastCell x.cells a
        · simp
        · cases seenIn l q a <;> rfl
      · simp
  unfold seenIn
  rw [List.foldl_cons, key]
  congr 1
  split
  · cases lastCell st.cells a <;> rfl
  · rfl

theorem seenIn_none (l : List Store) (q : SeqId) (a : Nat) (h : ∀ x ∈ l, x.visible q = false ∨ lastCell x.cells a = none) :
    seenIn l q a = none := by
  induction l with
  | nil => rfl
  | cons x l ih =>
    rw [seenIn_cons, ih fun z hz => h z (List.mem_cons_of_mem _ hz)]
    rcases h x (List.mem_cons_self ..) with e | e <;> simp [e]

/-- Cells of no common location: where one list has a byte, the other has none. -/
theorem lastCell_of_not_sameByte {x y : List (Nat × Byte)} (h : sameByte x y = false) (a : Nat) :
    lastCell x a = none ∨ lastCell y a = none := by
  by_contra c
  simp only [not_or] at c
  have hx : ∃ d ∈ x, d.1 = a := by
    by_contra e
    exact c.1 ((lastCell_eq_none x a).mpr fun d hd ha => e ⟨d, hd, ha⟩)
  have hy : ∃ d ∈ y, d.1 = a := by
    by_contra e
    exact c.2 ((lastCell_eq_none y a).mpr fun d hd ha => e ⟨d, hd, ha⟩)
  obtain ⟨d, hd, rfl⟩ := hx
  obtain ⟨e, he, hde⟩ := hy
  have : sameByte x y = true := by
    simp only [sameByte, List.any_eq_true, beq_iff_eq]
    exact ⟨d, hd, e, he, hde.symm⟩
  rw [h] at this
  cases this

/-- A store whose order with another is open is hidden from the other's stream. -/
theorem Store.open_hidden {x y : Store} (h : x.open y = true) : x.visible y.who = false := by
  simp only [Store.open, Bool.and_eq_true, bne_iff_ne, decide_eq_true_eq] at h
  simp only [Store.visible, Bool.or_eq_false_iff, decide_eq_false_iff_not]
  exact ⟨h.1.1, by omega⟩

/-- Where a store joins the list makes no difference to a reader to whom the stores that it goes in front of are hidden, and none to one that reads
another address. -/
theorem seenIn_enter (y : Store) (l : List Store) (q : SeqId) (a : Nat)
    (h : ∀ x ∈ l, x.open y = true → x.visible q = false ∨ lastCell y.cells a = none) :
    seenIn (y.enter l) q a = if y.visible q then (lastCell y.cells a).or (seenIn l q a) else seenIn l q a := by
  induction l with
  | nil => rw [Store.enter, ← List.nil_append [y], seenIn_append_one]
  | cons x l ih =>
    have ih := ih fun z hz => h z (List.mem_cons_of_mem _ hz)
    rw [Store.enter]
    split
    · next c =>
      simp only [Bool.and_eq_true, List.all_eq_true] at c
      rw [seenIn_cons]
      cases e : lastCell y.cells a with
      | none => simp
      | some b =>
        rw [seenIn_none (x :: l) q a]
        · split <;> simp
        · intro z hz
          rcases Bool.or_eq_true _ _ ▸ c.2 z hz with o | o
          · exact .inl ((h z hz o).resolve_right (by simp [e]))
          · exact .inr ((lastCell_of_not_sameByte (by simpa using o) a).resolve_right (by simp [e]))
    · rw [seenIn_cons, seenIn_cons, ih]
      split
      · cases lastCell y.cells a <;> simp
      · rfl

/-- A read after a store: its own stream reads the stored bytes, and the others as before. -/
theorem State.byte_store (s : State) (q : SeqId) (lvl : Nat) (cells : List (Nat × Byte)) (a : Nat) :
    (s.store q lvl cells).2.byte q a = (lastCell cells a).getD (s.byte q a) := by
  simp only [State.byte_eq, State.store]
  rw [seenIn_enter _ _ _ _ fun x _ o => .inl (Store.open_hidden o)]
  simp only [Store.visible]
  cases lastCell cells a <;> rfl

/-- Bytes outside the stored ones read as before to every sequencer. -/
theorem State.byte_store_other (s : State) (w : SeqId) (lvl : Nat) (cells : List (Nat × Byte)) (q : SeqId) (a : Nat)
    (h : ∀ c ∈ cells, c.1 ≠ a) : (s.store w lvl cells).2.byte q a = s.byte q a := by
  have e : lastCell cells a = none := (lastCell_eq_none cells a).mpr h
  simp only [State.byte_eq, State.store]
  rw [seenIn_enter _ _ _ _ fun _ _ _ => .inr e]
  simp [e]

/-- What a stream has observed, or fenced, changes no byte that anyone reads. -/
theorem State.byte_mark (s : State) (p : SeqId) (ids : List Nat) (q : SeqId) (a : Nat) : (s.mark p ids).byte q a = s.byte q a := by
  simp only [State.byte_eq, State.mark]
  congr 1
  apply seenIn_congr
  rw [List.map_map]
  apply List.map_congr_left
  intro st _
  simp only [Function.comp_apply]
  split <;> rfl

theorem State.byte_fenced (s : State) (p : SeqId) (lvl : Nat) (q : SeqId) (a : Nat) : (s.fenced p lvl).byte q a = s.byte q a := by
  simp only [State.byte_eq, State.fenced]
  congr 1
  apply seenIn_congr
  rw [List.map_map]
  rfl

theorem State.mark_rest (s : State) (q : SeqId) (ids : List Nat) : s.mark q ids = { s with transit := (s.mark q ids).transit } := rfl

theorem State.fenced_rest (s : State) (q : SeqId) (lvl : Nat) : s.fenced q lvl = { s with transit := (s.fenced q lvl).transit } := rfl

-- Numbers and bytes --------------------------------------------------------------------------------------------------------------

theorem leNat_lt (bs : List Byte) : leNat bs < 256 ^ bs.length := by
  induction bs with
  | nil => simp [leNat]
  | cons b bs ih =>
    have := b.isLt
    simp only [leNat, List.length_cons, Nat.pow_succ]
    omega

theorem leBytes_leNat (bs : List Byte) : leBytes bs.length (leNat bs) = bs := by
  induction bs with
  | nil => rfl
  | cons b bs ih =>
    have h := b.isLt
    have h1 : (b.toNat + 256 * leNat bs) / 256 = leNat bs := by omega
    have h2 : BitVec.ofNat 8 (b.toNat + 256 * leNat bs) = b := by
      apply BitVec.eq_of_toNat_eq
      simp only [BitVec.toNat_ofNat]
      omega
    rw [List.length_cons, leNat, leBytes, h1, h2, ih]

-- Events -------------------------------------------------------------------------------------------------------------------------

theorem State.logEvent_rest (s : State) (md : Nat) (e : Event) :
    s.logEvent md e = { s with hubs := (s.logEvent md e).hubs, mem := (s.logEvent md e).mem, transit := (s.logEvent md e).transit } := rfl

/-- An event writes the hub and its log, and nothing else. -/
theorem State.post_rest (s : State) (md kind : Nat) (asid : Option Nat) (src code payload : Nat) :
    s.post md kind asid src code payload = { s with
      hubs := (s.post md kind asid src code payload).hubs, mem := (s.post md kind asid src code payload).mem
      transit := (s.post md kind asid src code payload).transit } := by
  simp only [State.post, State.arbiter]
  split
  · rfl
  · split <;> rfl

theorem State.count_rest (s : State) (md n k : Nat) : s.count md n k = { s with hubs := (s.count md n k).hubs } := rfl

theorem State.findBad_rest (s : State) (words : List Nat) :
    s.findBad words = { s with
      hubs := (s.findBad words).hubs, mem := (s.findBad words).mem, transit := (s.findBad words).transit
      latent := (s.findBad words).latent, bad := (s.findBad words).bad } := by
  unfold State.findBad
  induction words generalizing s with
  | nil => rfl
  | cons w ws ih =>
    simp only [List.foldl_cons]
    split
    · rw [ih, State.post_rest]; rfl
    · exact ih s

/-- A write, a store and a landing touch memory and the stores in transit alone. -/
theorem State.write_rest (s : State) (cells : List (Nat × Byte)) :
    s.write cells = { s with mem := (s.write cells).mem, transit := (s.write cells).transit } := rfl

theorem State.perform_rest (s : State) (id lvl : Nat) :
    s.perform id lvl = { s with mem := (s.perform id lvl).mem, transit := (s.perform id lvl).transit } := by
  unfold State.perform
  split
  · dsimp only
    split <;> rfl
  · rfl

theorem State.land_rest (s : State) (f : Store → Bool) :
    s.land f = { s with mem := (s.land f).mem, transit := (s.land f).transit } := by
  unfold State.land
  generalize s.transit.zip (s.landScopes f) = l
  induction l generalizing s with
  | nil => rfl
  | cons x l ih =>
    rw [List.foldl_cons]
    split
    · rw [ih, State.perform_rest]
    · exact ih s

theorem State.acquire_rest (s : State) (q : SeqId) :
    s.acquire q = { s with mem := (s.acquire q).mem, transit := (s.acquire q).transit } := State.land_rest s _

-- Traps --------------------------------------------------------------------------------------------------------------------------

/-- A sequencer that waits at no unit has nothing to withdraw. -/
theorem State.withdraw_idle (s : State) (q : SeqId) (h : (s.ctl q).wait = false) : s.withdraw q = s := by
  unfold State.withdraw
  rw [h]
  rfl

theorem State.finishOwn_ctl (s : State) (q : SeqId) (h : q.kind ≠ .l ∧ q.kind ≠ .s) : s.finishOwn q = s := by
  unfold State.finishOwn
  split
  · next e => exact absurd e h.1
  · next e => exact absurd e h.2
  · rfl

/-- A trap leaves every other control sequencer as it was. -/
theorem State.stopAt_ctl_other (s : State) (q r : SeqId) (t : Trap) (res : Word) (h : (s.withdraw (if q.unit % 8 < 4 then
    { q with kind := .k } else q)).ctl r = s.ctl r) (hr : ctlKey r ≠ ctlKey q) : (s.stopAt q t res).ctl r = s.ctl r := by
  unfold State.stopAt
  extract_lets isCore kq s1
  split
  · rw [State.ctl_setCtl_other _ _ _ _ hr]
    simpa [s1, kq, isCore] using h
  · rw [State.post_rest, State.ctl]
    exact (State.ctl_setCtl_other _ _ _ _ hr).trans (by simpa [s1, kq, isCore] using h)

end Sys2Proof.Machine
end

