-- ==== Sys2Proof/Laws/Control.lean ====
section
/-! SUPPORT. The registers and positions of the sequencers: what the shared operations of a completing instruction change. -/

namespace Sys2Proof.Machine

open Sys2Proof

theorem State.setPos_ctl (s : State) (q : SeqId) (p : Pos) (h : isCtl q.kind = true) :
    s.setPos q p = s.setCtl q { s.ctl q with pos := p } := by simp [State.setPos, h]

theorem State.pos_ctl (s : State) (q : SeqId) (h : isCtl q.kind = true) : s.pos q = (s.ctl q).pos := by simp [State.pos, h]

@[simp] theorem Ctl.issued_k (c : Ctl) (n pc : Nat) : (c.issued n pc).k = c.k := rfl
@[simp] theorem Ctl.issued_frame (c : Ctl) (n pc : Nat) : (c.issued n pc).frame = c.frame := rfl
@[simp] theorem Ctl.issued_mode (c : Ctl) (n pc : Nat) : (c.issued n pc).mode = c.mode := rfl
@[simp] theorem Ctl.issued_pos (c : Ctl) (n pc : Nat) : (c.issued n pc).pos = c.pos := rfl
@[simp] theorem Ctl.issued_xst (c : Ctl) (n pc : Nat) : (c.issued n pc).xst = c.xst := rfl

/-- A sequencer that neither is stepped nor may pass a breakpoint has nothing to retire. -/
theorem Ctl.issued_idle (c : Ctl) (n pc : Nat) (h : ¬(c.only = some n ∨ c.mayPass n pc)) : c.issued n pc = c := by
  obtain ⟨h1, h2⟩ := not_or.mp h
  simp [Ctl.issued, h1, h2]

/-- What issuing changes in the control sequencers: the one record of the unit. -/
theorem State.retire_ctl (s : State) (q r : SeqId) :
    (s.retire q).ctl r = if ctlKey r = ctlKey q then (s.ctl r).issued (strmNo q.kind) (s.pc q) else s.ctl r := by
  simp only [State.retire]
  split
  · split
    · next h => rw [State.ctl_setCtl_key _ _ _ _ h]; simp only [State.ctl, h]
    · next h => exact State.ctl_setCtl_other _ _ _ _ h
  · next hn =>
    split
    · next h =>
      have h2 : s.ctl r = s.ctl q := by simp only [State.ctl, h]
      rw [h2, Ctl.issued_idle _ _ _ hn]
    · rfl

/-- What `goto` does on a control sequencer, as one update. -/
theorem State.goto_ctl (s : State) (q : SeqId) (p : Pos) (h : isCtl q.kind = true) :
    s.goto q p = s.setCtl q { (s.ctl q).issued (strmNo q.kind) (s.pc q) with pos := p } := by
  simp only [State.goto, State.setPos_ctl _ q p h, State.retire]
  split
  · rw [State.ctl_setCtl, State.setCtl_setCtl]
  · next hn => rw [Ctl.issued_idle _ _ _ hn]

@[simp] theorem State.getK_zero (s : State) (q : SeqId) : s.getK q 0 = 0 := rfl

theorem State.getK_setK (s : State) (q : SeqId) (d n : BitVec 5) (v : Word) :
    (s.setK q d v).getK q n = if n = d then (if d = 0 then 0 else v) else s.getK q n := by
  by_cases hd : d = 0
  · subst hd
    rw [State.setK, if_pos rfl, if_pos rfl]
    split
    · next h => rw [h]; rfl
    · rfl
  · rw [State.setK, if_neg hd, State.getK, State.ctl_setCtl, if_neg hd]
    by_cases hn : n = d
    · subst hn
      rw [if_neg hd, if_pos rfl, sget_sset_same]
    · have h2 : n.toNat ≠ d.toNat := fun h => hn (BitVec.eq_of_toNat_eq h)
      rw [if_neg hn, sget_sset_other _ _ _ _ _ h2, State.getK]

theorem State.setK_pc (s : State) (q : SeqId) (d : BitVec 5) (v : Word) : (s.setK q d v).pc q = s.pc q := by
  unfold State.pc State.pos State.setK
  by_cases hd : d = 0
  · simp [hd]
  · simp only [hd, if_false]
    split
    · simp
    · rfl

theorem State.setK_ctl (s : State) (q : SeqId) (d : BitVec 5) (v : Word) :
    (s.setK q d v).ctl q = { s.ctl q with k := ((s.setK q d v).ctl q).k } := by
  unfold State.setK
  split <;> simp

theorem State.setK_ctls (s : State) (q : SeqId) (d : BitVec 5) (v : Word) :
    s.setK q d v = { s with ctls := (s.setK q d v).ctls } := by
  unfold State.setK
  split <;> rfl

theorem State.setK_ctl_other (s : State) (q r : SeqId) (d : BitVec 5) (v : Word) (h : ctlKey r ≠ ctlKey q) :
    (s.setK q d v).ctl r = s.ctl r := by
  unfold State.setK
  split
  · rfl
  · exact State.ctl_setCtl_other _ _ _ _ h

/-- The one lemma about a completing instruction of K, QF or QU. -/
theorem KDone.goto (s : State) (q : SeqId) (d : BitVec 5) (v : Word) (p : Pos) (h : isCtl q.kind = true) :
    KDone s ((s.setK q d v).goto q p) q d v p := by
  rw [State.goto_ctl _ _ _ h]
  refine ⟨?_, ?_, ?_, ?_, ?_, ?_⟩
  · unfold State.setK
    split <;> rfl
  · intro r hr
    rw [State.ctl_setCtl_other _ _ _ _ hr, State.setK_ctl_other _ _ _ _ _ hr]
  · rw [State.ctl_setCtl, State.setK_ctl, State.setK_pc]
    rfl
  · have := State.getK_setK s q d d v
    simpa [State.getK] using this
  · intro n hn
    have := State.getK_setK s q d n v
    simpa [State.getK, hn] using this
  · intro r a
    unfold State.setK
    split <;> rfl

theorem KNext.fin (s : State) (q : SeqId) (d : BitVec 5) (v : Word) (h : isCtl q.kind = true) : KNext s (s.finK q d v) q d v := by
  unfold KNext State.finK State.fin
  rw [State.setK_pc]
  exact KDone.goto s q d v _ h

/-- An instruction that writes no register: KDone of k0. -/
theorem KDone.goto0 (s : State) (q : SeqId) (p : Pos) (h : isCtl q.kind = true) : KDone s (s.goto q p) q 0 0 p := by
  have := KDone.goto s q 0 0 p h
  simpa [State.setK] using this

theorem KNext.fin0 (s : State) (q : SeqId) (h : isCtl q.kind = true) : KNext s (s.fin q) q 0 0 := KDone.goto0 s q _ h

end Sys2Proof.Machine
end

