-- ==== Sys2Proof/Laws/Encoding.lean ====
section
/-! SUPPORT. The fields of an encoded word: a field is read back where it was placed, and reads zero in every other place. -/

namespace Sys2Proof

open Sys2Proof.Machine

@[simp] theorem extract_put_same {n : Nat} (x : BitVec n) (lo : Nat) (h : lo + n ≤ 32) : (put x lo).extractLsb' lo n = x := by
  ext i hi
  have h1 : lo + i < 32 := by omega
  have h2 : ¬ lo + i < lo := by omega
  simp [put, BitVec.getElem_extractLsb', h1, h2, BitVec.getLsbD_eq_getElem hi]

theorem extract_put_above {n : Nat} (x : BitVec n) (lo s l : Nat) (h : lo + n ≤ s) : (put x lo).extractLsb' s l = 0#l := by
  ext i hi
  have h1 : ¬ s + i < lo := by omega
  have h2 : n ≤ s + i - lo := by omega
  simp [put, BitVec.getElem_extractLsb', h1, BitVec.getLsbD_of_ge x _ h2]

theorem extract_put_below {n : Nat} (x : BitVec n) (lo s l : Nat) (h : s + l ≤ lo) : (put x lo).extractLsb' s l = 0#l := by
  ext i hi
  have h1 : s + i < lo := by omega
  simp [put, BitVec.getElem_extractLsb', h1]

theorem getLsbD_put (n : Nat) (x : BitVec n) (lo i : Nat) (h : lo ≤ i) (hi : i < 32) : (put x lo).getLsbD i = x.getLsbD (i - lo) := by
  have h1 : ¬ i < lo := by omega
  simp [put, h1, hi]

theorem getLsbD_put_below (n : Nat) (x : BitVec n) (lo i : Nat) (h : i < lo) : (put x lo).getLsbD i = false := by
  simp [put, h]

theorem getLsbD_put_above (n : Nat) (x : BitVec n) (lo i : Nat) (h : lo + n ≤ i) : (put x lo).getLsbD i = false := by
  have h2 : n ≤ i - lo := by omega
  simp [put, BitVec.getLsbD_of_ge x _ h2]

theorem getLsbD_putB (b : Bool) (lo i : Nat) (h : i < 32) : (putB b lo).getLsbD i = (b && decide (i = lo)) := by
  unfold putB
  cases b
  · simp
  · rw [if_pos rfl, Bool.true_and, BitVec.getLsbD_shiftLeft]
    by_cases e : i = lo
    · subst e; simp [h]
    · by_cases e2 : i < lo
      · simp [h, e, e2]
      · have : i - lo ≠ 0 := by omega
        have e3 : lo ≤ i := by omega
        simp [h, e, e2, this]

theorem extract_putB (b : Bool) (lo s l : Nat) (h : s + l ≤ lo ∨ lo < s) : (putB b lo).extractLsb' s l = 0#l := by
  ext i hi
  rw [BitVec.getElem_extractLsb']
  by_cases h1 : s + i < 32
  · rw [getLsbD_putB _ _ _ h1]
    have : s + i ≠ lo := by omega
    simp [this]
  · rw [BitVec.getLsbD_of_ge _ _ (by omega)]
    simp

/-- A placed field as a number. -/
theorem put_toNat {n : Nat} (x : BitVec n) (lo : Nat) (h : lo + n ≤ 32) : (put x lo).toNat = x.toNat * 2 ^ lo := by
  have hx := x.isLt
  have h1 : x.toNat < 2 ^ 32 := Nat.lt_of_lt_of_le hx (Nat.pow_le_pow_right (by decide) (by omega))
  have h2 : x.toNat * 2 ^ lo < 2 ^ 32 :=
    calc x.toNat * 2 ^ lo < 2 ^ n * 2 ^ lo := Nat.mul_lt_mul_of_pos_right hx (Nat.two_pow_pos lo)
      _ = 2 ^ (lo + n) := by rw [← Nat.pow_add, Nat.add_comm]
      _ ≤ 2 ^ 32 := Nat.pow_le_pow_right (by decide) h
  simp only [put, BitVec.toNat_shiftLeft, BitVec.toNat_setWidth, Nat.shiftLeft_eq]
  rw [Nat.mod_eq_of_lt h1, Nat.mod_eq_of_lt h2]

theorem getElem_put (n : Nat) (x : BitVec n) (lo i : Nat) (h : lo ≤ i) (hi : i < 32) : (put x lo)[i] = x.getLsbD (i - lo) := by
  rw [← BitVec.getLsbD_eq_getElem]; exact getLsbD_put n x lo i h hi

theorem getElem_put_below (n : Nat) (x : BitVec n) (lo i : Nat) (h : i < lo) (hi : i < 32) : (put x lo)[i] = false := by
  rw [← BitVec.getLsbD_eq_getElem]; exact getLsbD_put_below n x lo i h

theorem getElem_put_above (n : Nat) (x : BitVec n) (lo i : Nat) (h : lo + n ≤ i) (hi : i < 32) : (put x lo)[i] = false := by
  rw [← BitVec.getLsbD_eq_getElem]; exact getLsbD_put_above n x lo i h

theorem getElem_putB (b : Bool) (lo i : Nat) (hi : i < 32) : (putB b lo)[i] = (b && decide (i = lo)) := by
  rw [← BitVec.getLsbD_eq_getElem]; exact getLsbD_putB b lo i hi

theorem putN_put (n k lo : Nat) (h : n < 2 ^ k) (hk : lo + k ≤ 32) : putN n lo = put (BitVec.ofNat k n) lo := by
  apply BitVec.eq_of_toNat_eq
  rw [put_toNat _ _ hk]
  have h1 : n * 2 ^ lo < 2 ^ 32 :=
    calc n * 2 ^ lo < 2 ^ k * 2 ^ lo := Nat.mul_lt_mul_of_pos_right h (Nat.two_pow_pos lo)
      _ = 2 ^ (lo + k) := by rw [← Nat.pow_add, Nat.add_comm]
      _ ≤ 2 ^ 32 := Nat.pow_le_pow_right (by decide) hk
  simp only [putN, BitVec.toNat_ofNat]
  rw [Nat.mod_eq_of_lt h1, Nat.mod_eq_of_lt h]

-- Extension words --------------------------------------------------------------------------------------------------------------

theorem addExt_oper (e : Exts) (o : XOper) (h : e.oper = none) : addExt e (encOper o) = some { e with oper := some o } := by
  simp (disch := decide) [addExt, encOper, h, BitVec.extractLsb'_or, extract_put_same, extract_put_above, extract_put_below,
    extract_putB, getElem_put, getElem_put_below, getElem_putB, putN]

theorem addExt_imm (e : Exts) (i : BitVec 16) (h : e.imm = none) : addExt e (encImm i) = some { e with imm := some i } := by
  simp (disch := decide) [addExt, encImm, h, BitVec.extractLsb'_or, extract_put_same, extract_put_above, putN]

theorem addExt_prf (e : Exts) (p : BitVec 8) (h : e.prf = none) : addExt e (encPrf p) = some { e with prf := some p } := by
  simp (disch := decide) [addExt, encPrf, h, BitVec.extractLsb'_or, extract_put_same, extract_put_above, putN]

theorem addExt_slu (e : Exts) (x : BitVec 2 × BitVec 2) (h : e.slu = none) : addExt e (encSlu x) = some { e with slu := some x } := by
  simp (disch := decide) [addExt, encSlu, h, BitVec.extractLsb'_or, extract_put_same, extract_put_above, extract_put_below, putN]

/-- The extension words of an X instruction give back its extension fields. -/
theorem parseExts_encExts (x : XArgs) :
    parseExts (encExts x) Exts.none = some { oper := x.oper, imm := x.imm, prf := x.prf, slu := x.slu } := by
  obtain ⟨st, pb, pa, d, a, b, t, oper, imm, prf, slu⟩ := x
  cases oper <;> cases imm <;> cases prf <;> cases slu <;>
    simp [encExts, Exts.none, parseExts, addExt_oper, addExt_imm, addExt_prf, addExt_slu]

-- Slot words -------------------------------------------------------------------------------------------------------------------

theorem encX_op (op : Nat) (b : BitVec 7) (x : XArgs) (h : op < 64) : ((encX op b x).1.extractLsb' 26 6).toNat = op := by
  simp (disch := first | omega | decide) only [encX, putN_put op 6 26, BitVec.extractLsb'_or, extract_put_same, extract_put_above,
    extract_putB]
  simp
  omega

/-- The fields of an X word are read back. -/
theorem xFields_encX (op : Nat) (b : BitVec 7) (x : XArgs) (e : Exts) (h : op < 64) :
    xFields (encX op b x).1 e = { x with b := b, oper := e.oper, imm := e.imm, prf := e.prf, slu := e.slu } := by
  simp (disch := first | omega | decide) [xFields, encX, putN_put op 6 26, BitVec.extractLsb'_or, extract_put_same,
    extract_put_above, extract_put_below, extract_putB, getElem_put, getElem_put_below, getElem_putB]

end Sys2Proof
end

