-- ==== Sys2Proof/Laws/Engines.lean ====
section
/-! SUPPORT. What an engine reads of an address space without errors. -/

namespace Sys2Proof.Machine

open Sys2Proof

theorem span_append (a m n : Nat) : span a m ++ span (a + m) n = span a (m + n) := by
  induction m generalizing a with
  | zero => simp [span]
  | succ m ih =>
    rw [show m + 1 + n = (m + n) + 1 by omega, span, span, List.cons_append, ← ih (a + 1), show a + (m + 1) = a + 1 + m by omega]

/-- The parts in `k` lines from number `q` on are the part of the range between them. -/
theorem flatMap_inLine (a n q k : Nat) (h1 : k = 0 ∨ (q + k) * 64 < a + n + 64) (h2 : a ≤ q * 64 + 64) :
    ((span q k).map (· * 64)).flatMap (fun l => span (inLine a n l).1 (inLine a n l).2)
      = span (max a (q * 64)) (min (a + n) (q * 64 + k * 64) - max a (q * 64)) := by
  induction k generalizing q with
  | zero =>
    rw [show min (a + n) (q * 64 + 0 * 64) - max a (q * 64) = 0 by omega]
    rfl
  | succ k ih =>
    rw [span, List.map_cons, List.flatMap_cons, ih (q + 1) (by omega) (by omega)]
    simp only [inLine]
    rcases Nat.eq_zero_or_pos k with rfl | hk
    · rw [show min (a + n) ((q + 1) * 64 + 0 * 64) - max a ((q + 1) * 64) = 0 by omega]
      simp only [span, List.append_nil]
    · rw [show max a ((q + 1) * 64) = max a (q * 64) + (min (a + n) (q * 64 + 64) - max a (q * 64)) by omega, span_append]
      congr 1
      omega

/-- The parts of a range in its lines are the range. -/
theorem flatMap_linesIn (a n : Nat) : (linesIn a n).flatMap (fun l => span (inLine a n l).1 (inLine a n l).2) = span a n := by
  unfold linesIn
  split
  · next h => subst h; rfl
  · next h =>
    rw [flatMap_inLine a n _ _ (by omega) (by omega)]
    congr 1 <;> omega

/-- A range of pages without an error, behind consecutive keys, reads as the bytes there, and changes nothing (R392). -/
theorem pageRead_clean (s : State) (md asid a n k : Nat)
    (h : ∀ x, a ≤ x → x < a + n → (∃ m p, s.home md asid x = some (m, p) ∧ s.reachable md m = true) ∧ s.touchLine md asid x = (s, false) ∧
      s.vkey md asid x = k + x) :
    s.pageRead md asid a n = (s, .ok ((span a n).map fun x => some (memGet s.mem (k + x)))) := by
  have key : ∀ (ls : List Nat) (acc : List (Option Byte)), (∀ l ∈ ls, l ∈ linesIn a n) →
      ls.foldl (fun (r : State × Except Trap (List (Option Byte))) l =>
        match r.2 with
        | .error _ => r
        | .ok acc =>
          let p := inLine a n l
          match r.1.home md asid p.1 with
          | none => (r.1, .error { code := tcPage, addr := p.1 })
          | some (m, pg) =>
            if !r.1.reachable md m then (r.1, .error { code := tcPoison, addr := p.1 })
            else
              let t := r.1.touchLine md asid p.1
              if !t.2 then (t.1, .ok (acc ++ (memBytes t.1.mem (t.1.vkey md asid p.1) p.2).map some))
              else if pg.pp then (t.1, .ok (acc ++ List.replicate p.2 none))
              else (t.1, .error { code := tcPoison, addr := l })) (s, .ok acc)
        = (s, .ok (acc ++ (ls.flatMap fun l => span (inLine a n l).1 (inLine a n l).2).map fun x => some (memGet s.mem (k + x)))) := by
    intro ls
    induction ls with
    | nil => intro acc _; simp
    | cons l ls ih =>
      intro acc hl
      have hm := hl l (by simp)
      have hx : a ≤ (inLine a n l).1 ∧ (inLine a n l).1 < a + n := by
        unfold linesIn at hm
        split at hm
        · simp at hm
        · simp only [List.mem_map, mem_span] at hm
          obtain ⟨q, hq, rfl⟩ := hm
          simp only [inLine]
          omega
      obtain ⟨⟨m, p, hh, hr⟩, ht, hv⟩ := h _ hx.1 hx.2
      have hb : ∀ b c, (memBytes s.mem (k + b) c).map some = (span b c).map fun x => some (memGet s.mem (k + x)) := by
        intro b c
        unfold memBytes
        induction c generalizing b with
        | zero => rfl
        | succ c ihc => simp only [span, List.map_cons] at ihc ⊢; rw [← ihc (b + 1)]; rfl
      simp only [List.foldl_cons, hh, hr, ht, hv, hb, Bool.not_true, Bool.not_false, if_true, Bool.false_eq_true, if_false]
      rw [ih _ (fun x hx => hl x (by simp [hx]))]
      simp [List.flatMap_cons, List.append_assoc]
  exact (key (linesIn a n) [] fun _ h => h).trans (by rw [flatMap_linesIn]; rfl)

end Sys2Proof.Machine
end

