-- ==== Sys2Proof/Laws/MemoryKept.lean ====
section
/-! SUPPORT. What each shared operation does to memory: it leaves it alone, or keeps its canonical form. -/

namespace Sys2Proof.Machine

open Sys2Proof

-- Operations that leave memory alone -------------------------------------------------------------------------------------------

@[simp] theorem State.setK_mem (s : State) (q : SeqId) (d : BitVec 5) (v : Word) : (s.setK q d v).mem = s.mem := by
  unfold State.setK; split <;> rfl

@[simp] theorem State.setA_mem (s : State) (q : SeqId) (n : BitVec 4) (v : Word) : (s.setA q n v).mem = s.mem := rfl

@[simp] theorem State.setPos_mem (s : State) (q : SeqId) (p : Pos) : (s.setPos q p).mem = s.mem := by
  unfold State.setPos; split <;> rfl

@[simp] theorem State.setPhase_mem (s : State) (q : SeqId) (p : Phase) : (s.setPhase q p).mem = s.mem := by
  unfold State.setPhase; split <;> rfl

@[simp] theorem State.retire_mem (s : State) (q : SeqId) : (s.retire q).mem = s.mem := by
  simp only [State.retire]; split <;> rfl

@[simp] theorem State.goto_mem (s : State) (q : SeqId) (p : Pos) : (s.goto q p).mem = s.mem := by simp [State.goto]

@[simp] theorem State.fin_mem (s : State) (q : SeqId) : (s.fin q).mem = s.mem := by simp [State.fin]

@[simp] theorem State.setOwner_mem (s : State) (ga cnt : Nat) (eng : Bool) : (s.setOwner ga cnt eng).mem = s.mem := rfl

@[simp] theorem State.count_mem (s : State) (md n k : Nat) : (s.count md n k).mem = s.mem := rfl

@[simp] theorem State.healWords_mem (s : State) (a n : Nat) : (s.healWords a n).mem = s.mem := by
  simp only [State.healWords]; split <;> rfl

@[simp] theorem State.sendPart_mem (s : State) (q : SeqId) (md asid gid : Nat) (h : GHalf) (ov : Nat) :
    (s.sendPart q md asid gid h ov).mem = s.mem := rfl

@[simp] theorem State.mark_mem (s : State) (q : SeqId) (ids : List Nat) : (s.mark q ids).mem = s.mem := rfl

@[simp] theorem State.fenced_mem (s : State) (q : SeqId) (lvl : Nat) : (s.fenced q lvl).mem = s.mem := rfl

@[simp] theorem State.noteSem_mem (s : State) (q : SeqId) (qd n : Nat) : (s.noteSem q qd n).mem = s.mem := rfl

@[simp] theorem State.observe_mem (s : State) (q : SeqId) (f : Store → Bool) : (s.observe q f).mem = s.mem := rfl

@[simp] theorem State.observeEntry_mem (s : State) (u : Nat) (e : LEntry) : (s.observeEntry u e).mem = s.mem := by
  unfold State.observeEntry; split <;> rfl

@[simp] theorem State.fillEntry_mem (s : State) (u id : Nat) : (s.fillEntry u id).mem = s.mem := by
  simp only [State.fillEntry]; split <;> simp [State.setCore]

@[simp] theorem State.answer_mem (s : State) (q : SeqId) (d : BitVec 5) (v : Nat) : (s.answer q d v).mem = s.mem := by
  simp [State.answer]

@[simp] theorem State.serveWaiters_mem (rel : List (SeqId × Nat × Nat)) (ws : List SemWaiter) (s : State) (v : Nat) :
    (State.serveWaiters rel s v ws).1.mem = s.mem := by
  induction ws generalizing s v with
  | nil => rfl
  | cons w ws ih =>
    unfold State.serveWaiters
    split
    · rw [ih, State.answer_mem, State.mark_mem]
    · exact ih s v

@[simp] theorem State.setSem_mem (s : State) (qd n v : Nat) : (s.setSem qd n v).mem = s.mem := by simp [State.setSem]

@[simp] theorem State.semAdd_mem (s : State) (qd n amount : Nat) : (s.semAdd qd n amount).mem = s.mem := by simp [State.semAdd]

@[simp] theorem State.withdraw_mem (s : State) (q : SeqId) : (s.withdraw q).mem = s.mem := by
  unfold State.withdraw; split <;> rfl

@[simp] theorem State.resume_mem (s : State) (q : SeqId) : (s.resume q).mem = s.mem := by
  simp only [State.resume]; split <;> rfl

-- Operations that write memory -----------------------------------------------------------------------------------------------

theorem State.memOk_of_mem {s t : State} (h : t.mem = s.mem) (hs : s.memOk) : t.memOk := by
  unfold State.memOk at *; rw [h]; exact hs

theorem State.memOk_write {s : State} (cells : List (Nat × Byte)) (h : s.memOk) : (s.write cells).memOk := State.write_wf s cells h

theorem State.memOk_land {s : State} (f : Store → Bool) (h : s.memOk) : (s.land f).memOk := State.land_wf s f h

theorem State.memOk_acquire {s : State} (q : SeqId) (h : s.memOk) : (s.acquire q).memOk := State.acquire_wf s q h

theorem State.memOk_perform {s : State} (id lvl : Nat) (h : s.memOk) : (s.perform id lvl).memOk := State.perform_wf s id lvl h

theorem State.memOk_raise {s : State} (ids : List Nat) (lvl : Nat) (h : s.memOk) : (s.raise ids lvl).memOk := by
  unfold State.raise
  induction ids generalizing s with
  | nil => exact h
  | cons i l ih => exact ih (State.memOk_perform i lvl h)

theorem State.memOk_logEvent {s : State} (md : Nat) (e : Event) (h : s.memOk) : (s.logEvent md e).memOk :=
  State.memOk_of_mem (s := s.write _) rfl (State.memOk_write _ h)

theorem State.memOk_post {s : State} (md kind : Nat) (asid : Option Nat) (src code payload : Nat) (h : s.memOk) :
    (s.post md kind asid src code payload).memOk := by
  simp only [State.post, State.arbiter]
  split
  · exact State.memOk_logEvent _ _ h
  · split <;> exact h

theorem State.memOk_drainEvents {s : State} (md n : Nat) (h : s.memOk) : (s.drainEvents md n).memOk := by
  induction n generalizing s with
  | zero => exact h
  | succ n ih =>
    simp only [State.drainEvents]
    split
    · exact h
    · split
      · exact ih (State.memOk_logEvent md _ (State.memOk_of_mem (s := s) rfl h))
      · split
        · exact ih (State.memOk_logEvent md _ (State.memOk_of_mem (s := s) rfl h))
        · exact h

theorem State.memOk_findBad {s : State} (words : List Nat) (h : s.memOk) : (s.findBad words).memOk := by
  unfold State.findBad
  induction words generalizing s with
  | nil => exact h
  | cons w ws ih =>
    simp only [List.foldl_cons]
    split
    · exact ih (State.memOk_post _ _ _ _ _ _ (State.memOk_of_mem (s := s) rfl h))
    · exact ih h

theorem State.memOk_foundBy {s : State} (t : Trap) (ea n : Nat) (h : s.memOk) : (s.foundBy t ea n).memOk := by
  unfold State.foundBy
  split
  · exact State.memOk_findBad _ h
  · exact h

theorem State.memOk_performS {s : State} (u : Nat) (h : s.memOk) : (s.performS u).memOk := by
  simp only [State.performS]
  split
  · exact h
  · next p rest _ =>
    have hg : ((match p.gauge with
        | some (g, h) => (s.raise p.ids 1).sendPart { unit := u, kind := .s } (modOf u)
            ((s.raise p.ids 1).asidOf { unit := u, kind := .s }) g h 0
        | none => s.raise p.ids 1) : State).memOk := by
      have hr := State.memOk_raise p.ids 1 h
      split
      · exact State.memOk_of_mem (State.sendPart_mem _ _ _ _ _ _ _) hr
      · exact hr
    split
    · split
      · refine State.memOk_of_mem (State.semAdd_mem _ _ _ _) (State.memOk_of_mem (State.noteSem_mem _ _ _ _) ?_)
        exact State.memOk_of_mem (State.setCore_mem _ _ _) (State.memOk_acquire _ (State.memOk_land _ hg))
      · exact State.memOk_of_mem (State.setCore_mem _ _ _) hg
    · exact State.memOk_of_mem (State.setCore_mem _ _ _) hg

theorem State.memOk_finishOwn {s : State} (q : SeqId) (h : s.memOk) : (s.finishOwn q).memOk := by
  unfold State.finishOwn
  split
  · generalize (s.core q.unit).lq = l
    induction l generalizing s with
    | nil => exact h
    | cons e l ih =>
      simp only [List.foldl_cons]
      split
      · exact ih h
      · exact ih (State.memOk_of_mem (State.fillEntry_mem _ _ _) h)
  · generalize (s.core q.unit).spend = l
    induction l generalizing s with
    | nil => exact h
    | cons e l ih => exact ih (State.memOk_performS _ (State.memOk_performS _ h))
  · exact h

theorem State.memOk_stopAt {s : State} (q : SeqId) (t : Trap) (res : Word) (h : s.memOk) : (s.stopAt q t res).memOk := by
  have hw : ∀ k, (s.withdraw k).memOk := fun k => State.memOk_of_mem (State.withdraw_mem s k) h
  unfold State.stopAt
  extract_lets
  split
  · exact State.memOk_of_mem (State.setCtl_mem _ _ _) (hw _)
  · exact State.memOk_post _ _ _ _ _ _ (State.memOk_of_mem (State.setCtl_mem _ _ _) (hw _))

theorem State.memOk_trapAt {s : State} (q : SeqId) (t : Trap) (res : Word) (h : s.memOk) : (s.trapAt q t res).memOk :=
  State.memOk_stopAt q t res (State.memOk_finishOwn q h)

theorem State.memOk_trap {s : State} (q : SeqId) (t : Trap) (h : s.memOk) : (s.trap q t).memOk := State.memOk_trapAt q t _ h

theorem State.memOk_illegal {s : State} (q : SeqId) (h : s.memOk) : (s.illegal q).memOk := State.memOk_trap q _ h

theorem State.memOk_trapRead {s : State} (q : SeqId) (t : Trap) (ea n : Nat) (h : s.memOk) : (s.trapRead q t ea n).memOk :=
  State.memOk_trap q t (State.memOk_foundBy t ea n h)

end Sys2Proof.Machine
end

