-- ==== Sys2Proof/Laws/Streams.lean ====
section
/-! SUPPORT. The streams L and S: what an instruction of theirs does once its tokens let it issue, and what their registers hold
after a write. -/

namespace Sys2Proof.Machine

open Sys2Proof

theorem State.getA_setA (s : State) (q : SeqId) (d n : BitVec 4) (v : Word) :
    (s.setA q d v).getA q n.toNat = if n = d then v else s.getA q n.toNat := by
  have hn := n.isLt
  have h : (n = d) ↔ (n.toNat = d.toNat) := ⟨fun h => by rw [h], BitVec.eq_of_toNat_eq⟩
  unfold State.getA State.setA
  rw [Nat.mod_eq_of_lt hn]
  by_cases hk : q.kind = .s <;> simp [hk, sget_sset, h]

theorem State.goto_ls (s : State) (q : SeqId) (p : Pos) (h : isCtl q.kind = false) :
    s.goto q p = { s with
      cores := sset s.cores q.unit ((s.core q.unit).setPos q.kind p)
      ctls := (s.retire q).ctls } := by
  simp only [State.goto, State.setPos, h, Bool.false_eq_true, if_false, State.retire]
  split <;> rfl

/-- A token popped and another pushed, sluice by sluice. -/
theorem Core.tokens_popOpt (c : Core) (o : Option Nat) (n : Nat) (h : ∀ k, o = some k → 0 < c.tokens k) :
    (c.popOpt o).tokens n + (if o = some n then 1 else 0) = c.tokens n := by
  cases o with
  | none => rfl
  | some k =>
    have := h k rfl
    by_cases e : n = k
    · subst e
      simp only [Core.popOpt, Core.popTok, Core.tokens, sget_sset_same, if_true, List.length_tail] at *
      omega
    · simp [Core.popOpt, Core.popTok, Core.tokens, sget_sset_other _ _ _ _ _ e, Ne.symm e]

theorem Core.tokens_pushOpt (c : Core) (o : Option Nat) (rel : List Nat) (n : Nat) :
    (c.pushOpt o rel).tokens n = c.tokens n + (if o = some n then 1 else 0) := by
  cases o with
  | none => rfl
  | some k =>
    by_cases e : n = k
    · subst e; simp [Core.pushOpt, Core.pushTok, Core.tokens]
    · simp [Core.pushOpt, Core.pushTok, Core.tokens, sget_sset_other _ _ _ _ _ e, Ne.symm e]

theorem Core.popOpt_slu (c : Core) (o : Option Nat) : c.popOpt o = { c with slu := (c.popOpt o).slu } := by cases o <;> rfl

theorem Core.pushOpt_slu (c : Core) (o : Option Nat) (rel : List Nat) : c.pushOpt o rel = { c with slu := (c.pushOpt o rel).slu } := by cases o <;> rfl

theorem Core.tokens_setPos (c : Core) (kd : SeqKind) (p : Pos) (n : Nat) : (c.setPos kd p).tokens n = c.tokens n := by cases kd <;> rfl

/-- The one lemma about an instruction of L or S that completes. -/
theorem LsDone.finish (m : State) (q : SeqId) (tok : Tok) (later : Bool) (rel : List Nat) (p : Pos) (hk : isCtl q.kind = false)
    (hp : ∀ n, lsPb q.kind tok = some n → 0 < (m.core q.unit).tokens n) :
    LsDone tok later m ((m.setCore q.unit (if later then (m.core q.unit).popOpt (lsPb q.kind tok)
      else ((m.core q.unit).popOpt (lsPb q.kind tok)).pushOpt (lsPa q.kind tok) rel)).goto q p) q p := by
  generalize hc : (if later then (m.core q.unit).popOpt (lsPb q.kind tok)
    else ((m.core q.unit).popOpt (lsPb q.kind tok)).pushOpt (lsPa q.kind tok) rel) = c
  have hs : c = { m.core q.unit with slu := c.slu } := by
    subst hc
    split
    · exact Core.popOpt_slu _ _
    · rw [Core.pushOpt_slu, Core.popOpt_slu]
  have ht : ∀ n, c.tokens n + (if lsPb q.kind tok = some n then 1 else 0)
      = (m.core q.unit).tokens n + (if later = false ∧ lsPa q.kind tok = some n then 1 else 0) := by
    intro n
    have := Core.tokens_popOpt (m.core q.unit) (lsPb q.kind tok) n hp
    subst hc
    cases later
    · have h2 := Core.tokens_pushOpt ((m.core q.unit).popOpt (lsPb q.kind tok)) (lsPa q.kind tok) rel n
      simp only [Bool.false_eq_true, if_false, true_and]
      omega
    · simpa using this
  have hcore : ((m.setCore q.unit c).goto q p).core q.unit = c.setPos q.kind p := by
    rw [State.goto_ls _ _ _ hk]
    simp [State.core, State.setCore]
  refine ⟨?_, ?_, ?_, ?_, ?_, ?_⟩
  · rw [State.goto_ls _ _ _ hk]; rfl
  · intro r
    have h1 := State.retire_ctl (m.setCore q.unit c) q r
    have h2 : (m.setCore q.unit c).pc q = m.pc q := by
      simp only [State.pc, State.pos, hk, Bool.false_eq_true, if_false, State.core_setCore]
      rw [hs]
      cases q.kind <;> rfl
    rw [h2] at h1
    rw [State.goto_ls _ _ _ hk]
    simpa [State.ctl, State.setCore] using h1
  · intro u hu
    rw [State.goto_ls _ _ _ hk]
    simp [State.core, State.setCore, sget_sset_other _ _ _ _ _ hu]
  · rw [hcore]
    conv => lhs; rw [hs]
    congr 1
    cases q.kind <;> rfl
  · intro n
    rw [hcore, Core.tokens_setPos]
    exact ht n
  · intro r a
    rw [State.goto_ls _ _ _ hk]
    rfl

/-- An instruction of L or S that may issue does what its own part says. -/
theorem lsRun_ready (kd : SeqKind) (t : Tok) (s : State) (f : SeqId → LsOut) (h : LsReady s kd t) :
    lsRun kd t s f = .next (match f s.cur with
      | .stall => s
      | .trap tr n => s.trapElem s.cur tr n
      | .done m p later =>
        (m.setCore s.cur.unit (if later then (m.core s.cur.unit).popOpt (lsPb kd t)
          else ((m.core s.cur.unit).popOpt (lsPb kd t)).pushOpt (lsPa kd t) (m.tells s.cur 1))).goto s.cur p) := by
  obtain ⟨h1, h2⟩ := h
  cases hf : f s.cur <;> simp only [lsRun, h1, h2, hf, ne_eq, not_true, if_false, Bool.not_true, Bool.false_eq_true]

/-- One whose tokens hold it back has not issued, and nothing has changed (R22). -/
theorem lsRun_held (kd : SeqKind) (t : Tok) (s : State) (f : SeqId → LsOut) (h : s.cur.kind = kd)
    (ht : (s.core s.cur.unit).tokReady kd t = false) : lsRun kd t s f = .next s := by
  simp only [lsRun, h, ht, ne_eq, not_true, if_false, Bool.not_false, if_true]

/-- A sequencer of another stream takes ILLEGAL_INST (R131). -/
theorem lsRun_wrong (kd : SeqKind) (t : Tok) (s : State) (f : SeqId → LsOut) (h : s.cur.kind ≠ kd) :
    lsRun kd t s f = .next (s.ownTrap s.cur { code := tcIllegalInst } (BitVec.ofNat 64 (s.pc s.cur))) := by
  simp only [lsRun, h, ne_eq, not_false_iff, if_true]

/-- The token that PB names is there once the tokens let an instruction issue (R22). -/
theorem Core.tokReady_pb (c : Core) (kd : SeqKind) (t : Tok) (h : c.tokReady kd t = true) (n : Nat) (hn : lsPb kd t = some n) :
    0 < c.tokens n := by
  simp only [Core.tokReady, hn, Bool.and_eq_true, decide_eq_true_eq] at h
  exact h.1

end Sys2Proof.Machine
end

