-- ==== Sys2Proof/Laws/Issue.lean ====
section
/-! SUPPORT. X: what an instruction that can issue does, and what issuing changes. -/

namespace Sys2Proof.Machine

open Sys2Proof

theorem XReady.atEnd {s : State} {x : XArgs} {lq push : Bool} (h : XReady s x lq push) : (s.core s.cur.unit).loop.atEnd = false := by
  cases ha : (s.core s.cur.unit).loop.act with
  | true => exact (h.place ha).1
  | false => simp [XLoop.atEnd, ha]

theorem XReady.squashed {s : State} {x : XArgs} {lq push : Bool} (h : XReady s x lq push) :
    ((s.core s.cur.unit).loop.act && (s.core s.cur.unit).loop.squashed) = false := by
  cases ha : (s.core s.cur.unit).loop.act with
  | true => simp [(h.place ha).2]
  | false => rfl

/-- An X instruction that can issue, whose sources are sound and whose computation gives a result without a gauge trap, goes into
flight. XPUSH also stalls for the store queue, and VSCAL has its own element count: they have their meanings' own proofs. -/
theorem xRun_ready (i : Instr) (s : State) (onto : XTo) (f : State → XCtx → XStep) (sp : XSpec) (x : XArgs) (r : XRes)
    (hpush : ∀ y, i ≠ .xpush y) (hscal : ∀ y, i ≠ .vscal y) (hi : xSpec i = some (sp, x)) (h : XReady s x (xLq sp x) false)
    (he : (s.xSees sp x onto).early (s.xSees sp x onto).n (s.xSees sp x onto).w = none)
    (hf : f (s.xNow sp x) (s.xSees sp x onto) = .ok r) (hg : r.govf = none) :
    xRun i s onto f = .next ((s.xNow sp x).xCommit s.cur (s.xSees sp x onto) (xLq sp x) (s.core s.cur.unit).xnext x.st.toNat r none) := by
  have h1 := h.atEnd
  have h2 := h.squashed
  have hs := h.go
  have hk := h.kind
  unfold xLq at hs
  unfold State.xSees at he hf ⊢
  unfold xRun xLq
  simp only [hi, hk, ne_eq, not_true, if_false, h1, h2, Bool.false_eq_true]
  rw [if_neg (by rw [hs]; decide), he, hf]
  simp only [hg]

/-- The token that PB names is there once an X instruction can issue (R22). -/
theorem Core.xStall_pb (c : Core) (x : XArgs) (lq push : Bool) (h : c.xStall x lq push = false) (n : Nat) (hn : xPb x = some n) :
    0 < c.tokens n := by
  simp only [Core.xStall, hn, Bool.or_eq_false_iff, beq_eq_false_iff_ne] at h
  omega

theorem Core.xTokens_eq (c : Core) (x : XArgs) (lq : Bool) (now : Nat) (rel : List Nat) :
    c.xTokens x lq now rel = { c with
      slu := (c.xTokens x lq now rel).slu, xsync := if (xPb x).isSome then now else c.xsync, lq := if lq then c.lq.tail else c.lq } := by
  unfold Core.xTokens
  cases xPb x <;> cases xPa x <;> cases lq <;> rfl

theorem Core.tokens_xTokens (c : Core) (x : XArgs) (lq : Bool) (now : Nat) (rel : List Nat) (n : Nat) (h : ∀ k, xPb x = some k → 0 < c.tokens k) :
    (c.xTokens x lq now rel).tokens n + (if xPb x = some n then 1 else 0) = c.tokens n + (if xPa x = some n then 1 else 0) := by
  have h1 : (c.xTokens x lq now rel).tokens n = ((c.popOpt (xPb x)).pushOpt (xPa x) rel).tokens n := by
    unfold Core.xTokens
    cases xPb x <;> cases xPa x <;> cases lq <;> rfl
  have h2 := Core.tokens_popOpt c (xPb x) n h
  have h3 := Core.tokens_pushOpt (c.popOpt (xPb x)) (xPa x) rel n
  omega

theorem State.pc_setCore_x (s : State) (q : SeqId) (c : Core) (hq : q.kind = .x) (h : c.xpos = (s.core q.unit).xpos) :
    (s.setCore q.unit c).pc q = s.pc q := by
  simp [State.pc, State.pos, hq, isCtl, Core.posOf, h]

theorem State.retire_setCore_ctls (s : State) (q : SeqId) (u : Nat) (c : Core) (hp : (s.setCore u c).pc q = s.pc q) :
    ((s.setCore u c).retire q).ctls = (s.retire q).ctls := by
  simp only [State.retire, hp, State.ctl, State.setCore_ctls]
  split <;> simp only [*, if_true, if_false, State.setCtl, State.setCore_ctls]

theorem State.fin_x (s : State) (q : SeqId) (c : Core) (hq : q.kind = .x) (h : c.xpos = (s.core q.unit).xpos) :
    (s.setCore q.unit c).fin q = { s with
      cores := sset s.cores q.unit { c with xpos := .next (s.pc q) }, ctls := (s.retire q).ctls } := by
  have hc : isCtl q.kind = false := by rw [hq]; rfl
  rw [State.fin, State.pc_setCore_x s q c hq h, State.goto_ls _ _ _ hc, State.core_setCore, State.retire_setCore_ctls _ _ _ _ (State.pc_setCore_x s q c hq h), hq]
  simp only [State.setCore, sset_sset, Core.setPos]

theorem State.xDone_eq (s : State) (q : SeqId) (t st wait : Nat) (hq : q.kind = .x) :
    s.xDone q t st wait = { s with
      cores := sset s.cores q.unit { s.core q.unit with
        xnow := t + 1, xnext := t + 1 + st + wait, xret := t + 1 + st, xpos := .next (s.pc q)
        loop := if (s.core q.unit).loop.act then { (s.core q.unit).loop with place := (s.core q.unit).loop.place + 1 }
          else (s.core q.unit).loop }
      ctls := (s.retire q).ctls } := by
  unfold State.xDone
  exact State.fin_x s q _ hq rfl

theorem State.retire_ids_ctls (s : State) (q : SeqId) (n : Nat) : (({ s with ids := n } : State).retire q).ctls = (s.retire q).ctls := by
  have hp : ({ s with ids := n } : State).pc q = s.pc q := rfl
  simp only [State.retire, hp, State.ctl]
  split <;> simp only [*, if_true, if_false, State.setCtl]

/-- What issuing an X instruction changes: `XDone`, with its result in flight and its store-queue entry. -/
theorem XDone.commit (m : State) (q : SeqId) (k : XCtx) (lq : Bool) (r : XRes) (hq : q.kind = .x) (ho : r.exceed = none)
    (hp : ∀ n, xPb k.x = some n → 0 < (m.core q.unit).tokens n) :
    XDone k.x lq
      (match r.dst with
        | .v n => { val := (sget (0, CMap.nil) (m.core q.unit).v n).1, map := (sget (0, CMap.nil) (m.core q.unit).v n).2, prod := some m.ids }
        | _ => .nil)
      (if r.dst = .none then [] else
        [{ id := m.ids, pc := m.pc q, cyc := (m.core q.unit).xnext + r.lat, dst := r.dst, val := r.val, map := r.map, keep := r.keep
           flags := r.flags, img := r.img, ref := k.ref.bind fun v => if v.own then none else v.m.slotOf.head?
           e2 := r.e2, sq := false, rerun := none }])
      r.push.toList m (m.xCommit q k lq (m.core q.unit).xnext k.x.st.toNat r none) q := by
  obtain ⟨c1, hc1⟩ : ∃ c1, (m.core q.unit).xTokens k.x lq m.tick (m.tells q 1) = c1 := ⟨_, rfl⟩
  have hx := Core.xTokens_eq (m.core q.unit) k.x lq m.tick (m.tells q 1)
  have ht := fun n => Core.tokens_xTokens (m.core q.unit) k.x lq m.tick (m.tells q 1) n hp
  rw [hc1] at hx ht
  have href : (match k.ref with
      | some v => if v.own then none else v.m.slotOf.head?
      | none => none) = k.ref.bind fun v => if v.own then none else v.m.slotOf.head? := by cases k.ref <;> rfl
  have key : ∃ d : Core, m.xCommit q k lq (m.core q.unit).xnext k.x.st.toNat r none = { m with
        ids := m.ids + 1, cores := sset m.cores q.unit d, ctls := (m.retire q).ctls } ∧
      d = { m.core q.unit with
        lq := if lq then (m.core q.unit).lq.tail else (m.core q.unit).lq
        slu := c1.slu, xsync := if (xPb k.x).isSome then m.tick else (m.core q.unit).xsync
        pend := (m.core q.unit).pend ++ (if r.dst = .none then [] else
          [{ id := m.ids, pc := m.pc q, cyc := (m.core q.unit).xnext + r.lat, dst := r.dst, val := r.val, map := r.map, keep := r.keep
             flags := r.flags, img := r.img, ref := k.ref.bind fun v => if v.own then none else v.m.slotOf.head?
             e2 := r.e2, sq := false, rerun := none }])
        sq := (m.core q.unit).sq ++ r.push.toList
        ch := [(1, match r.dst with
          | .v n => { val := (sget (0, CMap.nil) (m.core q.unit).v n).1, map := (sget (0, CMap.nil) (m.core q.unit).v n).2
                      prod := some m.ids }
          | _ => .nil), (2, (m.core q.unit).chain 1), (3, (m.core q.unit).chain 2), (4, (m.core q.unit).chain 3)]
        xnow := (m.core q.unit).xnext + 1, xnext := (m.core q.unit).xnext + 1 + k.x.st.toNat, xret := (m.core q.unit).xnext + 1 + k.x.st.toNat
        loop := if (m.core q.unit).loop.act then { (m.core q.unit).loop with place := (m.core q.unit).loop.place + 1 }
          else (m.core q.unit).loop
        xpos := .next (m.pc q) } := by
    unfold State.xCommit
    obtain ⟨m', hm'⟩ : ∃ m' : State, m' = { m with ids := m.ids + 1 } := ⟨_, rfl⟩
    have e1 : m'.core q.unit = m.core q.unit := by rw [hm']; rfl
    have e2 : m'.pc q = m.pc q := by rw [hm']; rfl
    have e3 : (m'.retire q).ctls = (m.retire q).ctls := by rw [hm']; exact State.retire_ids_ctls _ _ _
    have e4 : m'.tells q 1 = m.tells q 1 := by rw [hm']; rfl
    simp only [ho, ← hm', e1, e2, e4, hc1]
    rw [State.xDone_eq _ _ _ _ _ hq, State.retire_setCore_ctls _ _ _ _ (State.pc_setCore_x _ _ _ hq ?hpos), e3, State.core_setCore]
    case hpos =>
      have h1 : c1.xpos = (m.core q.unit).xpos := by rw [hx]
      rw [e1, ← h1]
      cases r.push <;> by_cases h2 : r.dst = .none <;> simp [h2, Core.shift]
    rw [hm']
    simp only [State.setCore, sset_sset]
    refine ⟨_, rfl, ?_⟩
    obtain ⟨sl, hsl⟩ : ∃ sl, c1.slu = sl := ⟨_, rfl⟩
    rw [hsl] at hx
    rw [hsl]
    clear hc1 ht hsl e1 e2 e3 e4 hm'
    subst hx
    obtain ⟨u, kd⟩ := q
    simp only at hq
    subst hq
    rcases r with ⟨lat, dst, val, map, keep, flags, img, e2, push, exceed, govf⟩
    rcases k with ⟨c, x, f, d, a, b, cc, ref⟩
    cases dst <;> cases push <;> cases ref <;> simp [Core.shift, Core.chain, State.pc, State.pos, isCtl, State.core, Core.posOf] <;> rfl
  obtain ⟨d, hd, rfl⟩ := key
  rw [hd]
  refine ⟨?_, ?_, ?_, ?_, ?_, ?_⟩
  · rfl
  · intro r'
    exact State.retire_ctl m q r'
  · intro u hu
    exact sget_sset_other _ _ _ _ _ hu
  · simp [State.core]
  · intro n
    have := ht n
    simpa [State.core, Core.tokens] using this
  · intro r' a
    rfl

end Sys2Proof.Machine
end

