-- ==== Sys2Proof/Laws/Queue.lean ====
section
/-! SUPPORT. When the head record of a host command queue is ready, and which launch the scheduler of a module takes. -/

namespace Sys2Proof.Machine

open Sys2Proof

/-- The head record is ready: it is read, its fields are legal and its queue may hold it, the word it names is there, and nothing blocks it
(R331, R333). -/
theorem headFate_ready {s : State} {md q : Nat} {x : HostQ} {r : QRec} {rs : List QRec} {v n : Nat} {w : List Word} (hq : s.hostQ md q = x)
    (hs : x.st = 1) (hr : x.recs = r :: rs) (hv : s.hubRead md q r.addr 64 false = .ok v) (hw : wordsOfNat v 8 = w)
    (ho : (decide (r.addr % 64 ≠ 0) || !recOk w) = false) (hk : kindAllowed q (recKind w) = true)
    (ht : (if recKind w = 9 ∨ recKind w = 10 then s.hubRead md q (recOp w 1) 8 (recKind w == 10) else .ok 0) = .ok n)
    (hb : ((recWait w && !x.pend.isEmpty) || (recKind w == 8 && ((s.ctx md x.asid).st == .yielding || (s.ctx md x.asid).st == .saved))
      || (recKind w == 9 && x.polled)) = false) : s.headFate md q = .ready w := by
  unfold State.headFate
  rw [hq]
  have h1 : ¬(r.addr % 64 ≠ 0 ∨ (!recOk w) = true) := by
    intro h
    simp at ho
    rcases h with h | h <;> simp_all
  simp only [hs, hr, hv, hw, hk, ht, hb, if_neg h1, ne_eq, not_true_eq_false, if_false, Bool.not_true, Bool.false_eq_true]

/-- Queue 0 comes before everything else (R335). -/
theorem chosen_zero {s : State} {md : Nat} {w : List Word} (h : s.headFate md 0 = .ready w) : s.chosen md = some (.queue 0) := by
  simp [State.chosen, h]

end Sys2Proof.Machine
end

