-- ==== Sys2Proof/Tests/Slice0.lean ====
section
/-! SUPPORT. Tests of the syntax: an ill-formed term for each check of WellFormed, and words written out from the spec's encodings,
field by field, with the worked examples of its sections 05 to 23. -/

set_option Elab.async false

namespace Sys2Proof.Tests

open Sys2Proof

/-- Token bits of L and S that move no token. -/
def noTok : Tok := { pb := false, pa := false, ext := none }

/-- An X word with every field zero. -/
def xz : XArgs := { st := 0, pb := false, pa := false, d := 0, a := 0, b := 0, t := 0, oper := none, imm := none, prf := none, slu := none }

/-- A kind-0x1 word with every field zero. -/
def oz : XOper := { c := 0, fmt := 0, fv := false, rm := 0, mc := 0, mchk := false, ovf := false, sat := false }

-- Ill-formed terms (R23, R128 to R135, R196 to R201, and the entries) -------------------------------------------------------------

-- a branch to slot 0 (R124), a KLOOP that counts k0 (R153), a sluice number 3 (R154), a window with no access (R159)
theorem test_wf_branch_slot : (Instr.beq 1 2 0 5).wf = false := by decide
theorem test_wf_kloop_zero : (Instr.kloop 0 1 5).wf = false := by decide
theorem test_wf_sluice : (Instr.tkpush 3).wf = false := by decide
theorem test_wf_winx : (Instr.winx 1 2 3 0).wf = false := by decide
-- a reserved profile (R64), MDRAIN's reserved rounding mode and a key that is not asked for (R245), an empty mask (R244)
theorem test_wf_profile : (Instr.mgo 1 2 3 7).wf = false := by decide
theorem test_wf_mdrain_rm : (Instr.mdrain 1 2 0 false false false false 3 0).wf = false := by decide
theorem test_wf_mdrain_key : (Instr.mdrain 1 2 4 false false false false 0 0).wf = false := by decide
theorem test_wf_mzero : (Instr.mzero 1 0).wf = false := by decide
-- MSCALE onto its own source, and with an integer SFMT (R246); a reserved scope (R133)
theorem test_wf_mscale_tiles : (Instr.mscale 1 2 3 0 1 1 0).wf = false := by decide
theorem test_wf_mscale_fmt : (Instr.mscale 1 2 3 3 0 1 0).wf = false := by decide
theorem test_wf_scope : (Instr.fence 6).wf = false := by decide
-- L and S: a kind-0x4 word that names a sluice without its token bit, and one past the alternates (R23)
theorem test_wf_tok_unused : (Instr.ld { noTok with ext := some (1, 0) } 0 0).wf = false := by decide
theorem test_wf_tok_range : (Instr.st { pb := true, pa := false, ext := some (2, 0) } 0 0 false).wf = false := by decide
theorem test_wf_loop_slot : (Instr.lloop noTok 1 0 5).wf = false := by decide
-- X: a missing third source, one that is not asked for, a reserved operand code, a reserved format (R128 to R130, R197)
theorem test_wf_x_no_c : (Instr.vfma xz).wf = false := by decide
theorem test_wf_x_extra_c : (Instr.vadd { xz with oper := some { oz with c := 1 } }).wf = false := by decide
theorem test_wf_x_operand : (Instr.vadd { xz with a := 0x4D }).wf = false := by decide
theorem test_wf_x_fmt : (Instr.vadd { xz with oper := some { oz with fmt := 0x38, fv := true } }).wf = false := by decide
theorem test_wf_x_t_with_fv : (Instr.vadd { xz with t := 1, oper := some { oz with fv := true } }).wf = false := by decide
-- X: an immediate operand with no word, a word with no operand (R128, R129); integer logic of floats; a rounding mode of integers
theorem test_wf_x_imm_missing : (Instr.vmov { xz with a := 0x7F }).wf = false := by decide
theorem test_wf_x_imm_unused : (Instr.vmov { xz with imm := some 1 }).wf = false := by decide
theorem test_wf_x_logic_float : (Instr.vand xz).wf = false := by decide
theorem test_wf_x_rm_int : (Instr.vadd { xz with t := 3, oper := some { oz with rm := 1 } }).wf = false := by decide
-- X: OVF outside binary8, SAT where no clamp exists, MC that names no map, a profile that nothing takes (R52, R81, R200)
theorem test_wf_x_ovf : (Instr.vadd { xz with oper := some { oz with ovf := true } }).wf = false := by decide
theorem test_wf_x_sat : (Instr.vadd { xz with oper := some { oz with sat := true } }).wf = false := by decide
theorem test_wf_x_mc : (Instr.vadd { xz with oper := some { oz with mc := 3 } }).wf = false := by decide
theorem test_wf_x_prf : (Instr.vadd { xz with prf := some 0 }).wf = false := by decide
-- X: a predicate past p15, a row width past the register, an accumulator past w7 (R204, R217, R218)
theorem test_wf_x_pred : (Instr.vceq { xz with d := 16 }).wf = false := by decide
theorem test_wf_x_lw : (Instr.vxpose { xz with imm := some 7 }).wf = false := by decide
theorem test_wf_x_wide : (Instr.wzero { xz with d := 8 }).wf = false := by decide
-- an event has no encoding
theorem test_wf_event : Instr.fetch.wf = false := by decide
-- and well-formed neighbours
theorem test_wf_good : (Instr.beq 1 2 1 5).wf && (Instr.tkpush 2).wf && (Instr.vadd xz).wf && (Instr.vmov { xz with a := 0x7F, imm := some 1 }).wf
    && (Instr.vxpose { xz with imm := some 6 }).wf && (Instr.ld { noTok with pb := true, ext := some (1, 0) } 0 0).wf = true := by decide

-- Words written out field by field (R127) -----------------------------------------------------------------------------------------

-- KR, major 0x01: MAJOR D A B SUB
theorem test_word_add : Sys2Proof.decode .k 0b000001_00011_00001_00010_00000000000 [] = some (.add 3 1 2) := by decide
theorem test_word_ceq : Sys2Proof.decode .k 0b000010_00011_00001_00010_00000000000 [] = some (.ceq 3 1 2) := by decide
-- KI: MAJOR D A IMM16
theorem test_word_addi : Sys2Proof.decode .k 0b000100_00001_00001_1111111111111111 [] = some (.addi 1 1 0xFFFF) := by decide
theorem test_word_kld : Sys2Proof.decode .k 0b001110_00101_00011_0000000100000000 [] = some (.kld 5 3 0x100) := by decide
-- KB: MAJOR A B SLOT LINE
theorem test_word_bltu : Sys2Proof.decode .k 0b010110_00001_00010_011_0000000000101 [] = some (.bltu 1 2 3 5) := by decide
-- engines: MRING.PUSH k3, rg0; MNEST k4; IXWAIT (06, 09)
theorem test_word_mring_push : Sys2Proof.decode .k 0x88030100 [] = some (.mringPush 3 0) := by decide
theorem test_word_mnest : Sys2Proof.decode .k 0x80040000 [] = some (.mnest 4) := by decide
theorem test_word_mtpb : Sys2Proof.decode .k 0x84040000 [] = some (.mtpb 4) := by decide
theorem test_word_mwait : Sys2Proof.decode .k 0x91490000 [] = some (.mwait 10 9) := by decide
theorem test_word_ixdef : Sys2Proof.decode .k 0xA4060000 [] = some (.ixdef 6) := by decide
theorem test_word_ixwait : Sys2Proof.decode .k 0xADCC0000 [] = some (.ixwait 14 12) := by decide
theorem test_word_sqwait : Sys2Proof.decode .k 0x7CE03000 [] = some (.sqwait 7 0 6) := by decide
-- traps, launches, groups, pages, semaphores, barriers (13, 15, 16, 18)
theorem test_word_tfrd : Sys2Proof.decode .k 0xC2800002 [] = some (.tfrd 20 0) := by decide
theorem test_word_swtrap : Sys2Proof.decode .k 0xC8070002 [] = some (.swtrap 7) := by decide
theorem test_word_launch : Sys2Proof.decode .k 0xD8A63800 [] = some (.launch 5 6 7) := by decide
theorem test_word_grpwait : Sys2Proof.decode .k 0xD8A60002 [] = some (.grpwait 5 6) := by decide
theorem test_word_lsqnext : Sys2Proof.decode .k 0xDCA63802 [] = some (.lsqnext 5 6 7) := by decide
theorem test_word_pgattr : Sys2Proof.decode .k 0xECA63801 [] = some (.pgattr 5 6 7) := by decide
theorem test_word_seal : Sys2Proof.decode .k 0xF0A63801 [] = some (.seal 5 6 7) := by decide
theorem test_word_semcas : Sys2Proof.decode .k 0xE4A63802 [] = some (.semcas 5 6 7) := by decide
theorem test_word_barv : Sys2Proof.decode .k 0xE1A00000 [] = some (.barv 13 0) := by decide
-- L and S: MAJOR ST-fields PB PA (05, 07)
theorem test_word_lali : Sys2Proof.decode .l 0x3C800003 [] = some (.lali noTok 2 3) := by decide
theorem test_word_ld : Sys2Proof.decode .l 0x048000C0 [] = some (.ld noTok 2 3) := by decide
theorem test_word_lmark : Sys2Proof.decode .l 0x28000000 [] = some (.lmark noTok 0) := by decide
theorem test_word_sali : Sys2Proof.decode .s 0x2C800003 [] = some (.sali noTok 2 3) := by decide
theorem test_word_st : Sys2Proof.decode .s 0x048000C0 [] = some (.st noTok 2 3 false) := by decide
theorem test_word_smark : Sys2Proof.decode .s 0x18000000 [] = some (.smark noTok 0) := by decide
-- X: MAJOR ST PB PA D A B T (05, 08, 10, 11, 19)
theorem test_word_vadd : Sys2Proof.decode .x 0b000001_00_0_0_000111_0000111_1110001_00 []
    = some (.vadd { xz with d := 7, a := 7, b := 0x71 }) := by decide
theorem test_word_vmov_f16 : Sys2Proof.decode .x 0x99019802 [] = some (.vmov { xz with st := 1, d := 1, a := 0x4C, t := 2 }) := by decide
theorem test_word_vfnma : Sys2Proof.decode .x 0x1B02C1FE [0x10200000, 0x20003F00]
    = some (.vfnma { xz with st := 3, d := 2, a := 0x60, b := 0x7F, t := 2, oper := some { oz with c := 1 }, imm := some 0x3F00 }) := by decide
theorem test_word_vxpose : Sys2Proof.decode .x 0xE7050202 [0x20000003]
    = some (.vxpose { xz with st := 3, d := 5, a := 1, t := 2, imm := some 3 }) := by decide
theorem test_word_xwait : Sys2Proof.decode .x 0xF8000208 [] = some (.xwait { xz with a := 1 }) := by decide
theorem test_word_xpush : Sys2Proof.decode .x 0xF800020C [] = some (.xpush { xz with a := 1 }) := by decide
theorem test_word_wzero : Sys2Proof.decode .x 0xF000000C [] = some (.wzero xz) := by decide
theorem test_word_vredq : Sys2Proof.decode .x 0xEC200804 [0x20000006]
    = some (.vredq { xz with d := 32, a := 4, imm := some 6 }) := by decide

-- Words that are no instruction ---------------------------------------------------------------------------------------------------

-- an unassigned SUB, a nonzero unassigned bit, a reserved extension kind, two words of one kind, a K word with an extension (R119, R135)
theorem test_word_sub : Sys2Proof.decode .k 0b000001_00011_00001_00010_11111111111 [] = none := by decide
theorem test_word_bit : Sys2Proof.decode .k 0b100000_00001_00100_0000000000000000 [] = none := by decide
theorem test_word_kind : Sys2Proof.decode .x 0x04070FC4 [0x50000000] = none := by decide
theorem test_word_twice : Sys2Proof.decode .x 0x99018000 [0x20000001, 0x20000001] = none := by decide
theorem test_word_k_ext : Sys2Proof.decode .k 0x04630800 [0x20000001] = none := by decide

end Sys2Proof.Tests
end

