-- ==== Sys2Proof/Tests/Machine.lean ====
section
/-! SUPPORT. Tests of single steps on small states. Each expected value is worked out by hand from the rule that its comment names. -/

set_option Elab.async false

namespace Sys2Proof.Tests

open Sys2Proof Sys2Proof.Machine

-- States --------------------------------------------------------------------------------------------------------------------------

/-- Module 0 READY, context 1 RUNNING on it, its group 1 on quad 0, core 0's K at slot 1 of a line at 2^16. -/
def base : State := { State.reset.placeWord 32 0 with agenda := [] }

def kq : SeqId := { unit := 0, kind := .k }

/-- The sequencer of core 0 that moves. -/
def as (s : State) (kd : SeqKind) : State := { s with cur := { unit := 0, kind := kd } }

/-- `base` with k1 and k2. -/
def kk (x y : Word) : State := (base.setK kq 1 x).setK kq 2 y

/-- The next state passes a test. -/
def nextIs (o : Host.Outcome State Fault Refusal) (p : State → Bool) : Bool :=
  match o with
  | .next t => p t
  | _ => false

/-- k3 after an instruction of K. -/
def k3 (o : Host.Outcome State Fault Refusal) (v : Word) : Bool := nextIs o fun t => t.getK kq 3 == v

/-- Core 0 changed, and one of its streams at a slot about to move. -/
def on (kd : SeqKind) (f : Core → Core) : State :=
  as (base.setCore 0 { f (base.core 0) with lpos := .at 65540, xpos := .at 65540, spos := .at 65540 }) kd

/-- The next state's core 0 passes a test. -/
def coreIs (o : Host.Outcome State Fault Refusal) (p : Core → Bool) : Bool := nextIs o fun t => p (t.core 0)

/-- A store of one byte at 0x100 in flight. -/
def stored (id lvl : Nat) (who : SeqId) : Store := { id := id, who := who, cells := [(0x100, 5)], lvl := lvl, seen := [(who, 0)] }

/-- The value of the X result just issued. -/
def xval (o : Host.Outcome State Fault Refusal) : Nat := match o with
  | .next t => match (t.core 0).pend with
    | p :: _ => p.val
    | [] => 0
  | _ => 0

/-- The flags of the X result just issued. -/
def xflags (o : Host.Outcome State Fault Refusal) : Nat := match o with
  | .next t => match (t.core 0).pend with
    | p :: _ => p.flags
    | [] => 0
  | _ => 0

/-- X with v1 and v2. -/
def vv (a b : Nat) : State := on .x fun c => { c with v := [(1, (BitVec.ofNat 2048 a, CMap.nil)), (2, (BitVec.ofNat 2048 b, CMap.nil))] }

/-- v1 and v2 as A and B, with format code `f` of a kind-0x1 word. -/
def xab (f : BitVec 6) : XArgs := { xz with a := 1, b := 2, oper := some { oz with fmt := f, fv := true } }

-- The instruction that is placed runs ----------------------------------------------------------------------------------------------

theorem test_first_step : nextIs (step (State.reset.withFetchWord 32 0x10630040)) (fun t => t.getK kq 3 == 0x40) = true := by decide
theorem test_first_step_x : nextIs (step (State.reset.withFetchWord 64 0x200040E09901FE00)) (fun t => (t.core 0).pend.length == 1) = true := by
  decide +kernel

-- Integer instructions (R143, R146 to R149) ----------------------------------------------------------------------------------------

theorem test_add_wraps : k3 (exec (.add 3 1 2) (kk 0xFFFFFFFFFFFFFFFF 2)) 1 = true := by decide
theorem test_sub_wraps : k3 (exec (.sub 3 1 2) (kk 1 2)) 0xFFFFFFFFFFFFFFFF = true := by decide
theorem test_k0_discards : nextIs (exec (.add 0 1 2) (kk 1 2)) (fun t => t.getK kq 0 == 0) = true := by decide
theorem test_shl_amount : k3 (exec (.shl 3 1 2) (kk 1 65)) 2 = true := by decide
theorem test_shr : k3 (exec (.shr 3 1 2) (kk 0x8000000000000000 63)) 1 = true := by decide
theorem test_sra : k3 (exec (.sra 3 1 2) (kk 0x8000000000000000 63)) 0xFFFFFFFFFFFFFFFF = true := by decide
theorem test_mul_low : k3 (exec (.mul 3 1 2) (kk 0xFFFFFFFFFFFFFFFF 3)) 0xFFFFFFFFFFFFFFFD = true := by decide
theorem test_mulh_signed : k3 (exec (.mulh 3 1 2) (kk 0xFFFFFFFFFFFFFFFF 3)) 0xFFFFFFFFFFFFFFFF = true := by decide
theorem test_mulhu : k3 (exec (.mulhu 3 1 2) (kk 0xFFFFFFFFFFFFFFFF 3)) 2 = true := by decide
theorem test_min_signed : k3 (exec (.min 3 1 2) (kk 0xFFFFFFFFFFFFFFFF 3)) 0xFFFFFFFFFFFFFFFF = true := by decide
theorem test_maxu : k3 (exec (.maxu 3 1 2) (kk 0xFFFFFFFFFFFFFFFF 3)) 0xFFFFFFFFFFFFFFFF = true := by decide
theorem test_div_truncates : k3 (exec (.div 3 1 2) (kk (-7) 2)) (-3) = true := by decide
theorem test_div_by_zero : k3 (exec (.div 3 1 2) (kk 7 0)) (-1) = true := by decide
theorem test_div_overflow : k3 (exec (.div 3 1 2) (kk 0x8000000000000000 (-1))) 0x8000000000000000 = true := by decide
theorem test_rem_sign : k3 (exec (.rem 3 1 2) (kk (-7) 2)) (-1) = true := by decide
theorem test_remu_by_zero : k3 (exec (.remu 3 1 2) (kk 7 0)) 7 = true := by decide
theorem test_clt_signed : k3 (exec (.clt 3 1 2) (kk (-1) 0)) 1 = true := by decide
theorem test_cltu_unsigned : k3 (exec (.cltu 3 1 2) (kk (-1) 0)) 0 = true := by decide
theorem test_sel_k0 : k3 (exec (.sel 3 1 2 0) (kk 5 6)) 6 = true := by decide
theorem test_addi_sign : k3 (exec (.addi 3 1 0xFFFF) (kk 5 0)) 4 = true := by decide
theorem test_andi_zero : k3 (exec (.andi 3 1 0xFFFF) (kk (-1) 0)) 0xFFFF = true := by decide
theorem test_li_zero_extends : k3 (exec (.li 3 0xFFFF) (kk 0 0)) 0xFFFF = true := by decide
theorem test_ors48 : k3 (exec (.ors48 3 1 1) (kk 5 0)) 0x0001000000000005 = true := by decide
theorem test_slti_sign : k3 (exec (.slti 3 1 0xFFFF) (kk 0 0)) 0 = true := by decide

-- Branches (R124, R153) -----------------------------------------------------------------------------------------------------------

theorem test_beq_target : nextIs (exec (.beq 1 2 3 0x1FFF) (kk 4 4)) (fun t => t.pos kq == .target 0xFFEC 0x10004) = true := by decide
theorem test_kloop_last : nextIs (exec (.kloop 1 3 0x1FFF) (kk 1 0)) (fun t => t.pos kq == .next 0x10004 && t.getK kq 1 == 0) = true := by decide
theorem test_call_links : nextIs (exec (.call 3 1 0) (kk 0 0)) (fun t => t.getK kq 3 == 0x10004) = true := by decide

-- Memory (R150 to R152) -----------------------------------------------------------------------------------------------------------

theorem test_kst_little_endian :
    nextIs (exec (.kst 2 1 8) (kk 0x100 0x1122334455667788)) (fun t => t.byte kq 0x108 == 0x88 && t.byte kq 0x10F == 0x11) = true := by decide
theorem test_kst_not_yet_outside :
    nextIs (exec (.kst 2 1 8) (kk 0x100 0x77)) (fun t => t.byte { unit := 1, kind := .k } 0x108 == 0) = true := by decide
theorem test_kld_misaligned : nextIs (exec (.kld 3 1 1) (kk 0x100 0)) (fun t =>
    (t.ctl kq).frame.cause == 3 && (t.ctl kq).frame.info == 5 && (t.ctl kq).mode == .stopped) = true := by decide
theorem test_kld_core_end : nextIs (exec (.kld 3 1 0) (kk 0x80000 0)) (fun t => (t.ctl kq).frame.info == 3) = true := by decide

-- Tokens, control registers (R22, R154, R155) -------------------------------------------------------------------------------------

theorem test_tkpush : nextIs (exec (.tkpush 2) (kk 0 0)) (fun t => (t.core 0).tokens slKS == 1) = true := by decide
theorem test_tkpop_waits : exec (.tkpop 0) (kk 0 0) = .next (kk 0 0) := rfl
theorem test_crwr_xst : nextIs (exec (.crwr 1 0) (kk (-1) 0)) (fun t => (t.ctl kq).xst == 0x3F) = true := by decide
theorem test_crrd_out : nextIs (exec (.crrd 3 7) (kk 0 0)) (fun t => (t.ctl kq).frame.cause == 1) = true := by decide

-- Gauges, matrix engine (R115, R167, R231, R244) ----------------------------------------------------------------------------------

theorem test_galloc : nextIs (exec (.galloc 1 2) (as ((kk 3 0x51).setCtxOf kq { base.ctxOf kq with gtsz := 4 }) .k)) (fun t =>
    ((t.ctxOf kq).gauge 3).st == 1 && ((t.ctxOf kq).gauge 3).margin == 5 && ((t.ctxOf kq).gauge 3).ovm) = true := by decide
theorem test_galloc_zero : nextIs (exec (.galloc 1 2) (kk 0 0)) (fun t => (t.ctl kq).frame.cause == 12) = true := by decide
theorem test_mzero_number : nextIs (exec (.mzero 3 1) (kk 0 0)) (fun t => t.getK kq 3 == 1 && (t.mx 0).queue.length == 1) = true := by decide

-- Traps and the frame (R312 to R317, R327) -----------------------------------------------------------------------------------------

/-- `kk` with a handler at 0x20004. -/
def handled (x y : Word) : State := (kk x y).setCtl kq { (kk x y).ctl kq with frame := { Frame.zero with tvec := 0x20004, scr := 0x99 } }

theorem test_swtrap_entry : nextIs (exec (.swtrap 1) (handled 7 0)) (fun t =>
    let c := t.ctl kq
    c.mode == .handler && c.pos == .resume 0x20004 && c.frame.cause == 17 && c.frame.kpc == 0x10005 && c.frame.info == 7
      && t.getK kq 31 == 0x99) = true := by decide
theorem test_eret_outside : nextIs (exec .eret (kk 0 0)) (fun t => (t.ctl kq).frame.cause == 1) = true := by decide
theorem test_eret_returns : nextIs (exec .eret ((kk 0 0).setCtl kq { (kk 0 0).ctl kq with
    mode := .handler, frame := { Frame.zero with kpc := 0x10005, ksav := 5 } })) (fun t =>
    (t.ctl kq).mode == .normal && t.pos kq == .next 0x10004 && t.getK kq 31 == 5) = true := by decide
theorem test_tfwr_tvec : nextIs (exec (.tfwr 1 2) (kk 13 0x20004)) (fun t => (t.ctl kq).frame.tvec == 0x20004) = true := by decide
theorem test_tfwr_normal_mode : nextIs (exec (.tfwr 1 2) (kk 1 0x20004)) (fun t => (t.ctl kq).frame.cause == 6) = true := by decide

-- STEP counts in its low four bits alone (R16, R313)
theorem test_tfwr_step_reserved : nextIs (exec (.tfwr 1 2) ((kk 15 17).setCtl kq { (kk 15 17).ctl kq with mode := .handler })) (fun t =>
    (t.ctl kq).frame.step == 1 && (t.ctl kq).mode == .handler) = true := by decide
theorem test_ctxstat_state : k3 (exec (.ctxstat 3 1) (kk 1 0)) 3 = true := by decide
theorem test_brkset_header : nextIs (exec (.brkset 1 2) (kk 0x20000 0)) (fun t => (t.ctl kq).frame.cause == 6) = true := by decide

-- Groups, semaphores, queues (R350, R375 to R377) ----------------------------------------------------------------------------------

theorem test_grpid_quads : k3 (exec (.grpid 3 1) (kk 1 0)) 1 = true := by decide
theorem test_semadd_saturates : nextIs (exec (.semadd 3 1 2) ((kk 2 0xFFFFFFFF).setQuad 0 { base.quad 0 with sem := [(2, 5)] })) (fun t =>
    t.getK kq 3 == 5 && sget 0 (t.quad 0).sem 2 == 0xFFFFFFFF) = true := by decide
theorem test_semwait_joins : nextIs (exec (.semwait 3 1 2) (kk 2 1)) (fun t =>
    (sget [] (t.quad 0).waiters 2).length == 1 && (t.ctl kq).wait) = true := by decide
theorem test_semrd_other_quad : nextIs (exec (.semrd 3 1) (kk 0x800002 0)) (fun t => (t.ctl kq).frame.info == 4) = true := by decide
theorem test_pgqry_unmapped : k3 (exec (.pgqry 3 1) (kk 0x100000 0)) 0 = true := by decide
theorem test_tmrd : k3 (exec (.tmrd 3) { kk 0 0 with clock := 77 }) 77 = true := by decide
theorem test_bstat_none : k3 (exec (.bstat 3 1 2) (kk 9 0)) 0 = true := by decide
theorem test_lnkst_off : k3 (exec (.lnkst 3 1) (kk 4 0)) 0 = true := by decide

-- L and S (R23, R190 to R194) -------------------------------------------------------------------------------------------------------

theorem test_lali_sign : coreIs (exec (.lali noTok 2 0x8000) (on .l id)) (fun c => sget 0 c.la 2 == 0xFFFFFFFFFFFF8000) = true := by decide
theorem test_laadd_lo : coreIs (exec (.laaddLo noTok 3 2 1) (on .l fun c => { c with la := [(2, 0x5FFFFFFFF)] })) (fun c =>
    sget 0 c.la 3 == 0x500000000) = true := by decide
theorem test_saadd_hi : coreIs (exec (.saaddHi noTok 3 2 0x3FFF) (on .s fun c => { c with sa := [(2, 0x500000007)] })) (fun c =>
    sget 0 c.sa 3 == 0x400000007) = true := by decide
theorem test_lbr_same_register : coreIs (exec (.lbr noTok 2 2 1 0) (on .l id)) (fun c => c.lpos == .target 0x10004 0x10004) = true := by decide
theorem test_pb_waits : exec (.lali { noTok with pb := true } 2 5) (on .l id) = .next (on .l id) := rfl
theorem test_pa_pushes : coreIs (exec (.lali { noTok with pa := true } 2 5) (on .l id)) (fun c => c.tokens slLX == 1) = true := by decide
theorem test_lmark_waits : exec (.lmark noTok 4) (on .l id) = .next (on .l id) := rfl
theorem test_smark : coreIs (exec (.smark noTok 4) (on .s id)) (fun c => c.smarks 4 == 1) = true := by decide
theorem test_owne : nextIs (exec (.sOwne noTok 2 1) (on .s fun c => { c with sa := [(2, 0x3000)] })) (fun t =>
    t.isEngine 0x3000 && t.isEngine 0x4FFF && !t.isEngine 0x5000) = true := by decide
theorem test_fbnext_closed : nextIs (exec (.fbnext noTok 1) (on .l id)) (fun t => (t.ctl kq).frame.cause == 0x100000) = true := by decide

-- X (R201 to R218) --------------------------------------------------------------------------------------------------------------------

-- 1.0 + 2.0 = 3.0 in f32; 2^24 + 1 rounds to even and is inexact (R47, R55)
theorem test_vadd : field (xval (exec (.vadd (xab 0)) (vv 0x3F800000 0x40000000))) 0 32 = 0x40400000 := by decide +kernel
theorem test_vadd_inexact : field (xval (exec (.vadd (xab 0)) (vv 0x4B800000 0x3F800000))) 0 32 = 0x4B800000
    ∧ xflags (exec (.vadd (xab 0)) (vv 0x4B800000 0x3F800000)) ≠ 0 := by decide +kernel
-- 0x80000000 − 1 wraps in i32, and saturates in VSUBS
theorem test_vsub_wraps : field (xval (exec (.vsub (xab 3)) (vv 0x80000000 1))) 0 32 = 0x7FFFFFFF := by decide +kernel
theorem test_vsubs_saturates : field (xval (exec (.vsubs (xab 3)) (vv 0x80000000 1))) 0 32 = 0x80000000 := by decide +kernel
theorem test_vshl_amount : field (xval (exec (.vshl (xab 4)) (vv 3 17))) 0 16 = 6 := by decide +kernel
-- 0/0 is the canonical NaN and raises NV
theorem test_vdiv_nan : field (xval (exec (.vdiv (xab 0)) (vv 0 0))) 0 32 = 0x7FC00000 := by decide +kernel
-- a compare of i32 sets four predicate bits an element (R204)
theorem test_vceq : xval (exec (.vceq { xab 3 with d := 4 }) (vv 5 5)) = 2 ^ 256 - 1 := by decide +kernel
theorem test_vclt : xval (exec (.vclt { xab 3 with d := 4 }) (vv 0xFFFFFFFF 0)) = 0xF := by decide +kernel
-- VXPOSE with W = 2: element 1 of the result is element 2 of the source (R217)
theorem test_vxpose : field (xval (exec (.vxpose { xz with a := 1, t := 3, imm := some 1 }) (vv (7 * 2 ^ 64) 0))) 32 32 = 7 := by decide +kernel
theorem test_vredq : field (xval (exec (.vredq { xz with a := 1, t := 3, imm := some 1 }) (vv (3 + 4 * 2 ^ 32) 0))) 0 64 = 7 + 7 * 2 ^ 32 := by
  decide +kernel
-- the maximum of a row of one signalling NaN is the canonical NaN, with NV (R47, R216)
theorem test_vredq_nan :
    (let o := exec (.vredq { xz with a := 1, imm := some 0x10, oper := some { oz with fmt := 0, fv := true } }) (vv 0xFF800001 0)
     field (xval o) 0 32 = 0x7FC00000 ∧ xflags o &&& fNV ≠ 0) := by decide +kernel
theorem test_wacc : field (xval (exec (.wacc { xz with a := 1, d := 1, oper := some { oz with fmt := 4, fv := true } }) (vv 0xFFFF 0))) 0 32 = 0xFFFFFFFF := by
  decide +kernel
theorem test_pset : xval (exec (.pset { xz with d := 3, imm := some 4 }) (on .x id)) = 0xF := by decide +kernel
theorem test_vmove : xval (exec (.vmovE { xz with a := 1, b := 1 }) (vv (9 * 2 ^ 32) 0)) = 9 := by decide +kernel
theorem test_write_cycle : nextIs (exec .xResultWrite { (on .x fun c => { c with xnow := 4, xnext := 9, pend := [{ id := 1, pc := 0, cyc := 4, dst := .e 2, val := 6, map := none, keep := false, flags := 0, img := false, ref := none, e2 := none, sq := false, rerun := none }] }) with ev := { base.ev with i := 0 } }) (fun t =>
    sget 0 (t.core 0).e 2 == 6 && (t.core 0).xnow == 5) = true := by decide +kernel
theorem test_xloop_zero : coreIs (exec (.xloop { xz with a := 0x70 }) (on .x id)) (fun c => !c.loop.act && c.loop.skip) = true := by decide +kernel
-- a squashed NOP shifts nothing, a squashed VMOV does (R31, R223)
def squashing : State := on .x fun c => { c with ch := [(1, { val := 9, map := .nil, prod := none })]
                                                 loop := { XLoop.closed with act := true, n := 4, q := 4, ns := 2, sl := 3, place := 3 } }
theorem test_squashed_nop : coreIs (exec .nop squashing) (fun c => (c.chain 1).val == 9) = true := by decide +kernel
theorem test_squashed_vmov : coreIs (exec (.vmov { xz with d := 1, a := 0x71 }) squashing) (fun c => (c.chain 1).val == 0 && (c.chain 2).val == 9) = true := by
  decide +kernel
theorem test_xlend_outside : nextIs (exec (.xlend xz) (on .x id)) (fun t => (t.ctl kq).frame.cause == 0x100000000) = true := by decide +kernel

-- The hashes of R271, on the three bytes of the standards' own example
theorem test_sha384 : (sha384 [0x61, 0x62, 0x63]).take 8 = [0xCB, 0x00, 0x75, 0x3F, 0x45, 0xA3, 0x5E, 0x8B] := by decide +kernel
theorem test_sha256 : (sha256 [0x61, 0x62, 0x63]).take 8 = [0xBA, 0x78, 0x16, 0xBF, 0x8F, 0x01, 0xCF, 0xEA] := by decide +kernel

-- Events (R287, R332, R392, R440) -----------------------------------------------------------------------------------------------------

theorem test_power_applied : nextIs (exec .powerApplied { State.reset with ev := { State.reset.ev with md := 3 } }) (fun t =>
    (t.hub 3).power == .waitfw) = true := by decide
theorem test_fwgo_too_early : exec .fwgo State.reset = .next State.reset := rfl
theorem test_append_unbound : nextIs (exec .append { base with ev := { base.ev with md := 0, i := 5 } }) (fun t =>
    (t.hostQ 0 5).app == 0 && (t.hub 0).evwr == 1) = true := by decide
theorem test_performed_everywhere : nextIs (exec .performedAtScope
    { base with transit := [{ stored 9 4 kq with cells := [(64, 5)] }], ev := { base.ev with i := 0 } }) (fun t =>
    t.transit.isEmpty && memGet t.mem 64 == 5) = true := by decide
theorem test_not_an_event : step { base with agenda := [.event .eret base.ev] } = .fault .notAnEvent := rfl
theorem test_upset_is_read : nextIs (step { kk 0x100 0 with agenda := [.upset 0x104] }) (fun t => t.latent == [0x100]) = true := by decide

end Sys2Proof.Tests
end

