-- ==== Sys2Proof/Tests/Witness.lean ====
section
/-! SUPPORT. A concrete state and operands that meet the hypotheses of each statement, clause by clause: the machine of one core. -/

set_option Elab.async false

namespace Sys2Proof.Tests

open Sys2Proof Sys2Proof.Machine

/-- `kk` with 64-bit words in memory at an address. -/
def kkw (x y : Word) (a : Nat) (ws : List Word) : State := (kk x y).write (cellsOf a (ws.flatMap (leBytes 8 ∘ BitVec.toNat)))

/-- The check answers `ok` with what passes a test. -/
def okIs {α : Type} (r : Except Trap α) (p : α → Bool) : Bool := match r with
  | .ok x => p x
  | .error _ => false

-- Integer instructions, branches, memory, tokens, control registers ----------------------------------------------------------------

theorem witness_KArithmetic : isCtl base.cur.kind = true := by decide
theorem witness_KDivision :
    isCtl base.cur.kind = true ∧ (kk 7 0).getK kq 2 = 0 ∧
    (kk (BitVec.intMin 64) (BitVec.allOnes 64)).getK kq 1 = BitVec.intMin 64 ∧
    (kk (BitVec.intMin 64) (BitVec.allOnes 64)).getK kq 2 = BitVec.allOnes 64 ∧
    (kk (BitVec.intMin 64) 1).getK kq 2 ≠ 0 := by decide
theorem witness_KCompareSelect :
    isCtl base.cur.kind = true ∧ (kk 5 5).getK kq 1 = (kk 5 5).getK kq 2 ∧ (kk 5 0).getK kq 1 ≠ 0 ∧ (kk 5 0).getK kq 0 = 0 := by decide
theorem witness_KImmediate : isCtl (kk 5 0).cur.kind = true := by decide
theorem witness_KBranches : isCtl base.cur.kind = true ∧ (base.ctl kq).req = false ∧ (1 : BitVec 5) ≠ 0 := by decide
theorem witness_KMemory :
    isCtl base.cur.kind = true ∧
    (∀ n ∈ [8, 4], (kk 0x7FFF0 0).readCheck kq ((kk 0x7FFF0 0).kea kq 1 8) n n = none ∧
      (kk 0x7FFF0 0).writeCheck kq ((kk 0x7FFF0 0).kea kq 1 8) n n = none ∧ (kk 0x7FFF0 0).ownOpen kq ((kk 0x7FFF0 0).kea kq 1 8) n = false ∧
      ({ kk 0 0 with transit := [stored 1 2 kq] } : State).readCheck kq 0x100 n n = none ∧
      ({ kk 0 0 with transit := [stored 1 2 kq] } : State).ownOpen kq 0x100 n = true) ∧
    (kk 0x7FFF0 0).cause14 kq ((kk 0x7FFF0 0).kea kq 1 6) = none ∧ (kk 0x7FFF0 0).kea kq 1 6 % 4 ≠ 0 := by decide
theorem witness_KTokensAndFence :
    base.cur.kind = .k ∧ (2 : BitVec 2) ≠ 3 ∧ (base.core 0).tokens slKS < 16 ∧
    ((base.setCore 0 { base.core 0 with slu := [(slKS, List.replicate 16 [])] }).core 0).tokens slKS ≥ 16 ∧
    ((base.setCore 0 { base.core 0 with slu := [(slSK, [[]])] }).core 0).tokens slSK > 0 ∧ (base.core 0).tokens slSK = 0 ∧
    (let st := stored 1 2 kq
     (∀ x ∈ [st], (x.fenceBy kq).isSome → x.lvl > (1 : BitVec 3).toNat) ∧ (∃ x ∈ [st], (x.fenceBy kq).isSome ∧ x.lvl ≤ (2 : BitVec 3).toNat)) ∧
    (let q : SeqId := { unit := 1, kind := .k }
     let st : Store := { stored 1 2 q with seen := [(q, 0), (kq, 0)] }
     st.who ≠ kq ∧ (∃ x ∈ [st], (x.fenceBy kq).isSome ∧ x.lvl ≤ (2 : BitVec 3).toNat)) := by decide
theorem witness_ControlRegisters :
    base.cur.kind = .k ∧ (7 : BitVec 16).toNat ≥ 7 ∧ (3 : BitVec 16).toNat ≥ 3 ∧
    (let r : State := { base with cur := { unit := 5, kind := .qf } }
     (r.cur.kind = .qf ∨ r.cur.kind = .qu) ∧ (6 : BitVec 16).toNat ≥ 6 ∧ (1 : BitVec 16).toNat ≥ 1) := by decide

/-- A command that copies one row of 64 bytes inside a core's scratchpad, from 0x2000 to 0x3000. -/
def bargeRec : List Word := [0x2000, 0x3000, 0x100000040, 0, 3, 0, 0, 0]

theorem witness_KBarge :
    (let s := kkw 0x1000 0 0x1000 bargeRec
     isCtl s.cur.kind = true ∧ (s.getK kq 2).toNat < 16 ∧ ((s.ctxOf kq).chain (bargeKey kq 0)).cmds.length < 1024 ∧
     s.recCheck kq 0x1000 64 = none ∧ s.ownOpen kq 0x1000 64 = false ∧ s.bgenqTrap kq (s.words kq 0x1000 8) = none ∧
     ({ s with transit := [{ stored 1 2 kq with cells := [(0x103F, 5)] }] } : State).recCheck kq 0x1000 64 = none ∧
     ({ s with transit := [{ stored 1 2 kq with cells := [(0x103F, 5)] }] } : State).ownOpen kq 0x1000 64 = true) ∧
    (let s := kk 15 0
     (s.getK kq 1).toNat < 16 ∧ ((s.ctxOf kq).chain (bargeKey kq 15)).seq ≥ (s.getK kq 2).toNat) ∧
    (let s := kk 15 1
     (s.getK kq 1).toNat < 16 ∧ ((s.ctxOf kq).chain (bargeKey kq 15)).seq < (s.getK kq 2).toNat) := by decide +kernel
/-- The ranges of WINX: none, past the address space, over 65 unmapped pages, in one unmapped page, and in the page that holds the code. -/
theorem witness_KBarge_winx :
    ((kk 0 0).getK kq 2).toNat = 0 ∧ 0xFFFFFFFFFFFFF + 2 > 2 ^ 52 ∧
    (let c := base.ctx 0 1
     (c.pagesOf [(0x40000000000, 65 * 65536)]).length > 64 ∧ c.pageOf 0x40000000000 = none ∧ 0x40000000000 % 2 ^ 16 + 65536 ≤ 2 ^ 16 ∧
     (c.pageOf 0x10000).any (fun p => decide (p.tier ≠ 3 ∧ 0x10000 + 8 ≤ p.va + p.size)) = true) := by
  decide +kernel

-- Gauges ----------------------------------------------------------------------------------------------------------------------------

/-- k1 = 3, k2 = 2, gauge 3 in a state, one descriptor. -/
def gauged (st : Nat) : State :=
  let s := (kk 3 2).setCtxOf kq { base.ctxOf kq with gauges := [(3, { Gauge.free with st := st })] }
  s.setGroup 1 { s.group 1 with ndesc := 4, desc := [(3, [0x3000, 0, 0, 0, 0, 0, 0, 0])] }

theorem witness_GaugeInstructions :
    isCtl (gauged 0).cur.kind = true ∧ 0 < ((gauged 0).getK kq 1).toNat ∧ ((gauged 0).getK kq 1).toNat < 2 ^ ((gauged 0).ctxOf kq).gtsz ∧
    (((gauged 0).ctxOf kq).gauge 3).st = 0 ∧ (((gauged 1).ctxOf kq).gauge 3).st ≠ 0 ∧ (((gauged 1).ctxOf kq).gauge 3).st = 1 ∧
    ((gauged 1).getK kq 2).toNat < 2 ^ ((gauged 1).ctxOf kq).gtsz ∧ ((gauged 1).getK kq 1).toNat < ((gauged 1).grpOf kq).ndesc := by decide
/-- The clauses of the traps at the ends of the table and of the descriptors, and a maximum to close that is 0 and one that is not. -/
theorem witness_GaugeInstructions_traps :
    (let n := (base.ctxOf kq).gtsz
     ((kk 0 0).getK kq 1).toNat = 0 ∧ ((kk (BitVec.ofNat 64 (2 ^ n)) (BitVec.ofNat 64 (2 ^ n))).getK kq 1).toNat ≥ 2 ^ n ∧
     ((kk (BitVec.ofNat 64 (2 ^ n)) (BitVec.ofNat 64 (2 ^ n))).getK kq 2).toNat ≥ 2 ^ n) ∧
    (((gauged 2).ctxOf kq).gauge 3).st = 2 ∧ (((gauged 1).ctxOf kq).gauge 3).half.amax = 0 ∧
    (let h := { GHalf.zero with amax := 0x3F800000 }
     0 < h.amax ∧ h.amax < 0x7F800000) ∧
    (let s := (kk 4 2).setGroup 1 { base.group 1 with ndesc := 4 }
     (s.getK kq 2).toNat < 2 ^ (s.ctxOf kq).gtsz ∧ (s.getK kq 1).toNat ≥ (s.grpOf kq).ndesc) := by decide
theorem witness_GaugeUnit :
    (let p : GPart := { id := 1, src := kq, gid := 3, half := { GHalf.zero with e := 4 }, ov := 0 }
     let s (st : Nat) : State :=
       { (gauged st).setCtxOf kq { (gauged st).ctxOf kq with parts := [p] } with ev := { base.ev with md := 0, asid := 1, i := 0 } }
     ∀ st ∈ [0, 1, 2], ((s st).ctx 0 1).parts[(s st).ev.i]? = some p ∧ (((s st).ctx 0 1).gauge p.gid).st = st) ∧
    (let s : State := { gauged 1 with ev := { base.ev with md := 0, asid := 1, i := 3 } }
     ((s.ctx s.ev.md s.ev.asid).gauge s.ev.i).st = 1) := by decide

-- The matrix and index engines --------------------------------------------------------------------------------------------------------

/-- The matrix engine of core 0 changed. -/
def mxIs (s : State) (f : Matrix → Matrix) : State := s.setMx 0 (f (s.mx 0))

/-- A nest of one level with one step, on tile 0. -/
def oneNest : List Word := [1, 1 + 3 * 2 ^ 32, 0, 0, 0, 0, 0]

/-- A ring of four entries of a size code, of which one has been given. -/
def someRing (base esz : Nat) : Ring := { base := base, cap := 4, esz := esz, tr := false, head := 0, tail := 1 }

/-- A template of bf16 operands on rings 0 and 1. -/
def someTpb : List Word := [BitVec.ofNat 64 (1 + 1 * 2 ^ 6 + 1 * 2 ^ 15), 0, 0, 0, 0, 0, 0, 0]

/-- An f32 array of rank 1 with 16 elements at a core's 0x3000, without a gauge. -/
def f32Desc : List Word := [0x3000, 16 + 2 ^ 32, 1 + 2 ^ 32, 4, 0, 0, 0, 0]

/-- A tile that holds one element, with a map. -/
def someTile : Tile := { Tile.init with map := { CMap.nil with mode := .affine }, mv := 1, nv := 1, val := [(0, 0x3F800000)] }

theorem witness_MatrixRecords :
    (let s := kk 0x1000 0
     s.cur.kind = .k ∧ ∀ n ∈ [56, 64], s.recCheck kq (s.getK kq 1).toNat n = none ∧ s.ownOpen kq (s.getK kq 1).toNat n = false ∧
       (let w : State := { s with transit := [{ stored 1 2 kq with cells := [(0x1037, 5)] }] }
        w.recCheck kq 0x1000 n = none ∧ w.ownOpen kq 0x1000 n = true)) ∧
    (let s := kk 0x10000 0x201
     (s.mx 0).queue.any (·.names 7) = false ∧ s.cause14 kq 0x10000 = none ∧ (ringOf 0 0x10000 (s.getK kq 2).toNat).isSome = true) ∧
    (let s := mxIs (kk 3 0) fun m => { m with rings := [(7, someRing 0x10000 1)] }
     ((s.mx 0).ring 7).cap ≠ 0 ∧ (s.getK kq 1).toNat < 2 ^ 32 ∧ ((s.mx 0).ring 7).held + (s.getK kq 1).toNat ≤ ((s.mx 0).ring 7).cap) := by
  decide +kernel

/-- An engine that can take an MGO of one step, an MDRAIN and an MSCALE, with a queue of `n` operations. -/
def mxReady (x y : Word) (n : Nat) : State :=
  let s := mxIs (kk x y) fun m => { m with
    nest := oneNest, tpb := someTpb, rings := [(0, someRing 0x10000 1), (1, someRing 0x20000 2)]
    queue := (List.range n).map fun i => { num := i + 1, kind := .zero 1, order := i, doomed := false, running := false, step := 0, hidden := []
                                           elems := [], next := [], flags := 0 } }
  s.setGroup 1 { s.group 1 with ndesc := 4, desc := [(3, f32Desc)] }

theorem witness_MatrixEnqueue :
    ((mxReady 0x100000001 1 7).mx 0).queue.length < 8 ∧ ((mxReady 0x100000001 1 8).mx 0).queue.length ≥ 8 ∧
    (((mxReady 0x100000001 1 7).mx 0).plan { m := 1, n := 1, k := 1 }).isSome = true ∧
    okIs ((mxReady 3 0 7).desc kq 3) (fun d => d.fmt.isFloat) = true ∧
    (let s := mxReady 0x7FE80 2 7
     s.cause14 kq 0x7FE80 = none ∧ ownOrQuad 0 0x7FE80 (96 * (((fmtOfCode 0).getD .f32).width / 8)) = true ∧
     0x7FE80 % (((fmtOfCode 0).getD .f32).width / 8) = 0 ∧ (s.getK kq 2).toNat < 3) := by decide +kernel
theorem witness_MatrixWaits :
    (let s := mxIs (kk 2 0) fun m => { m with moc := 1 }
     s.cur.kind = .k ∧ (s.mx 0).moc < (s.getK kq 1).toNat) ∧
    (let s := mxIs (kk 2 0) fun m => { m with moc := 2, bad := [2] }
     (s.getK kq 1).toNat ≤ (s.mx 0).moc) ∧
    (let s : State := { kk 0x7E000 0 with engine := [(0x7E, true), (0x7F, true)] }
     let n := (s.getK kq 1).toNat
     s.cause14 kq n = none ∧ n % 4096 = 0 ∧ ownOrQuad 0 n 8192 = true ∧ s.isEngine n = true ∧ s.isEngine (n + 4096) = true ∧
     s.latent = [] ∧ s.bad = [] ∧ (s.claims.any fun c => anyMeets (c.rd ++ c.wr) [((n : Int), 8192)]) = false) := by decide +kernel

/-- An operation of a kind, the third of its engine; `r` says whether it runs. -/
def someOp (kd : MxKind) (r dm : Bool) (st : Nat) : MxOp :=
  { num := 3, kind := kd, order := 0, doomed := dm, running := r, step := st, hidden := [], elems := [], next := [], flags := 0 }

/-- The engine of core 0 with that operation alone in its queue, every granule of its rings ENGINE, about to act. -/
def mxRuns (kd : MxKind) (r dm : Bool) (st : Nat) : State :=
  let s := mxIs (mxReady 0 0 0) fun m => { m with queue := [someOp kd r dm st], tiles := [(2, someTile)] }
  { s with engine := (span 0 128).map fun g => (g, true), ev := { base.ev with i := 0 } }

def oneStep : List MStep := [{ t := 0, mt := 0, nt := 0, kt := 0, mv := 1, nv := 1, kv := 1, oa := 0, ob := 0 }]

theorem witness_MatrixEngine :
    (let o := someOp (.zero 1) false false 0
     let s := mxRuns (.zero 1) false false 0
     (s.mx 0).queue = o :: [] ∧ s.ctxRuns 0 = true ∧ o.running = false ∧ o.doomed = false ∧ s.clear ((s.mx 0).claim 0 o) = true) ∧
    (someOp (.zero 1) false true 0).doomed = true ∧
    (let o := someOp (.go oneStep someTpb 0) true false 0
     let s := mxRuns (.go oneStep someTpb 0) true false 0
     (s.mx 0).queue = o :: [] ∧ s.ctxRuns 0 = true ∧ o.running = true ∧ oneStep[o.step]?.isSome = true ∧ (tpbFmtA someTpb).isSome = true ∧
     (tpbFmtB someTpb).isSome = true ∧ tpbRingA someTpb ≠ tpbRingB someTpb ∧
     s.entriesReady ((s.mx 0).ring (tpbRingA someTpb)) ((s.mx 0).ring (tpbRingB someTpb)) { t := 0, mt := 0, nt := 0, kt := 0, mv := 1, nv := 1, kv := 1, oa := 0, ob := 0 } = true ∧
     s.latent = [] ∧ s.bad = [] ∧ s.present (modOf 0) = true ∧
     modOf (((s.mx 0).ring (tpbRingA someTpb)).entry 0 / 2 ^ 20) = modOf 0 ∧ modOf (((s.mx 0).ring (tpbRingB someTpb)).entry 0 / 2 ^ 20) = modOf 0) ∧
    (someOp (.go oneStep someTpb 0) true false 1).step ≥ oneStep.length := by decide +kernel
/-- The clause on the values of a step: a frozen profile of groups of one. -/
theorem witness_MatrixEngine_values :
    (let o := someOp (.go oneStep someTpb 1) true false 0
     o.elems = [] ∧ o.hidden = [] ∧ (profileOf 1).any (fun p => decide (1 % p.g = 0)) = true) ∧
    (∀ st ∈ oneStep, st.kv = 1 ∧ st.mv ≤ 32 ∧ st.nv ≤ 64) ∧ (mxRuns (.zero 1) false false 0).ctxRuns 0 = true := by decide +kernel
theorem witness_MatrixEngine_drain :
    (let kd : MxKind := .drain 2 f32Desc 0 false false false none 0
     let s := mxRuns kd true false 0
     (s.mx 0).queue = someOp kd true false 0 :: [] ∧ s.ctxRuns 0 = true ∧ s.latent = [] ∧ s.bad = [] ∧
     ((descOf f32Desc).any fun d => d.gid == 0 && okIs (s.drainList 0 ((s.mx 0).tile 2) d .rne false 0) fun l =>
       l.length == 1 && s.allEngine ((lastCodes l).map fun x => ((x.1 : Int), d.size))) = true) ∧
    (let kd : MxKind := .scale 2 1 0 0x3000 0 0 0
     let s := mxRuns kd true false 0
     (s.mx 0).queue = someOp kd true false 0 :: [] ∧ s.ctxRuns 0 = true ∧ s.latent = [] ∧ s.bad = [] ∧ s.present (modOf 0) = true ∧
     modOf (0x3000 / 2 ^ 20) = modOf 0 ∧ s.allEngine [((0x3000 : Int), 96 * ((fmtOfCode 0).getD .f32).width / 8)] = true) := by decide +kernel

/-- A record of a walk of kind REL (R251) over one row and one column that takes the block. -/
def relWalk : List Word := [0, 0, 1 + 2 ^ 32, 1, 0x80, 4, 0, 0]

/-- The index engine of core 0 with a queue of `n` walks and IOC at 2. -/
def ixQueue (n : Nat) (sel : Option (List (Int × Int))) : List Walk :=
  (List.range n).map fun i => { num := 3 + i, desc := relWalk, list := 0x3000, count := 0x4000, rel := true, order := i, doomed := false, sel := sel }

def ixReady (x y : Word) (n : Nat) (sel : Option (List (Int × Int))) : State :=
  let s := (kk x y).setIx 0 { desc := relWalk, queue := ixQueue n sel, ioc := 2, last := 2 + n, bad := [2] }
  { s with engine := [(3, true), (4, true)], ev := { base.ev with i := 0 } }

theorem witness_IndexEngine :
    (ixReady 0x1000 0 0 none).cur.kind = .k ∧ (ixReady 0x1000 0 0 none).recCheck kq 0x1000 64 = none ∧
    (ixReady 0x1000 0 0 none).ownOpen kq 0x1000 64 = false ∧
    (let w : State := { ixReady 0x1000 0 0 none with transit := [{ stored 1 2 kq with cells := [(0x103F, 5)] }] }
     w.recCheck kq 0x1000 64 = none ∧ w.ownOpen kq 0x1000 64 = true) ∧
    ((ixReady 0 0 7 none).ix 0).queue.length < 8 ∧ walkOk ((ixReady 0 0 7 none).ix 0).desc 0x3000 0x4000 = true ∧
    ((ixReady 0 0 8 none).ix 0).queue.length ≥ 8 ∧ ((ixReady 3 0 0 none).ix 0).ioc < ((ixReady 3 0 0 none).getK kq 1).toNat ∧
    ((ixReady 2 0 0 none).getK kq 1).toNat ≤ ((ixReady 2 0 0 none).ix 0).ioc := by decide +kernel
/-- The clauses on a fibre and on a part: an entry in the region of one row and column, one past its end, the only part of one. -/
theorem witness_IndexEngine_selection :
    (let nr : Nat := (relWalk.getD 2 0).toNat % 2 ^ 32
     let row0 := ((relWalk.getD 1 0).extractLsb' 0 32).toInt
     0 < nr ∧ (0 : Int) = row0 + (0 : Nat) ∧ (1 : Int) ≥ row0 + nr) ∧
    (let w3 := (relWalk.getD 3 0).toNat
     w3.testBit 2 = false ∧ w3 / 2 ^ 28 % 256 < w3 / 2 ^ 20 % 256 + 1) := by decide
theorem witness_IndexEngine_walk :
    (∀ k ∈ ixQueue 1 none,
     let s := ixReady 0 0 1 none
     (s.ix 0).queue = k :: [] ∧ s.ctxMoves 0 = true ∧ k.doomed = false ∧ wdKind k.desc = 1 ∧ k.sel = none ∧ s.clear (s.walkClaim k) = true ∧
     (match s.walkRead 0 k.desc with
       | some (_, r) => okIs r fun l => l.length == 1
       | none => false) = true) ∧
    (∀ k ∈ ixQueue 1 (some [(0, 0)]),
     let s := ixReady 0 0 1 (some [(0, 0)])
     (s.ix 0).queue = k :: [] ∧ s.ctxMoves 0 = true ∧ k.doomed = false ∧ k.sel = some [(0, 0)] ∧ s.latent = [] ∧ s.bad = [] ∧
     (let rs : List Range := [((k.list : Int), (wdOutput k.desc [(0, 0)]).1.length), ((k.count : Int), 8)]
      (∀ r ∈ rs, s.walkCause 0 r.1.toNat r.2 1 = none) ∧ s.allEngine rs = true)) := by decide +kernel

end Sys2Proof.Tests
end

