-- ==== Sys2Proof/Tests/WitnessContext.lean ====
section
/-! SUPPORT. A concrete state and operands that meet the hypotheses of each statement: traps, contexts, deques. -/

set_option Elab.async false

namespace Sys2Proof.Tests

open Sys2Proof Sys2Proof.Machine

-- Traps and the frame ------------------------------------------------------------------------------------------------------------------

/-- `handled` in another mode with a frame. -/
def moded (m : Mode) (f : Frame) (x y : Word) : State := (kk x y).setCtl kq { (kk x y).ctl kq with mode := m, frame := f }

/-- A frame after a trap of X with VQNT's code, and one after a breakpoint of K. -/
def gaugeFrame : Frame := { Frame.zero with cause := 14 * 2 ^ 32, kpc := 0x10004, tvec := 0x20004, scr := 9 }
def brkFrame : Frame := { Frame.zero with cause := 18, kpc := 0x10004, step := 8 }

def xq : SeqId := { unit := 0, kind := .x }
def qf0 : SeqId := { unit := 4, kind := .qf }

theorem witness_TrapEntry :
    (∀ q ∈ [kq, xq, qf0], (q.unit % 8 < 4 ↔ q.kind ≠ .qf ∧ q.kind ≠ .qu) ∧
      (let c := (moded .normal gaugeFrame 0 0).ctl kq
       c.mode = .normal ∧ c.wait = false ∧ c.frame.tvec ≠ 0 ∧ c.only = none)) ∧
    (∀ q ∈ [kq, qf0], isCtl q.kind = true ∧ (q.unit % 8 < 4 ↔ q.kind = .k) ∧ (base.ctl q).frame.tvec = 0 ∧ (base.ctl q).wait = false) ∧
    ((moded .handler gaugeFrame 0 0).ctl kq).mode ≠ .normal := by decide
/-- A core whose K and S have trapped in this cycle, or whose S alone has, in the stop that X then joins; `ev` names the TRAP event that the stop posted. -/
def stoppedBy (cause : Word) (ev : Option Nat) : State :=
  base.setCtl kq { base.ctl kq with mode := if ev.isSome then .stopped else .handler, joint := some (base.clock, .at 0x10004, ev)
                                    frame := { gaugeFrame with cause := cause } }

theorem witness_TrapEntry_joint :
    xq.kind ≠ .qf ∧ xq.kind ≠ .qu ∧ strmNo xq.kind = 2 ∧
    (∀ cause ∈ [6 * 2 ^ 48, 6 * 2 ^ 48 + 1], ∀ ev ∈ [none, some 7],
      (stoppedBy (BitVec.ofNat 64 cause) ev).joins xq = true ∧ ((stoppedBy (BitVec.ofNat 64 cause) ev).ctl xq).wait = false) ∧
    (∀ i, i < 2 → field ((stoppedBy (6 * 2 ^ 48) (some 7)).ctl xq).frame.cause.toNat (16 * i) 16 = 0) ∧
    field ((stoppedBy (6 * 2 ^ 48 + 1) none).ctl xq).frame.cause.toNat 0 16 ≠ 0 := by decide +kernel
theorem witness_TrapReturn :
    (∀ q ∈ [kq, qf0], isCtl q.kind = true ∧ (q.unit % 8 < 4 ↔ q.kind = .k)) ∧ base.cur = kq ∧
    ((moded .handler brkFrame 0 0).ctl kq).mode = .handler ∧ (base.ctl kq).mode ≠ .handler ∧
    ((moded .stopped brkFrame 0 0).ctl kq).mode = .stopped ∧ { moded .stopped brkFrame 0 0 with ev := { base.ev with q := kq } }.ev.q = kq ∧
    brkFrame.step = BitVec.ofNat 64 (2 ^ 3) ∧ gaugeFrame.step = 0 ∧ field brkFrame.cause.toNat 0 16 = 18 ∧
    field brkFrame.cause.toNat 32 16 ≠ 14 ∧ field gaugeFrame.cause.toNat 32 16 = 14 ∧ field gaugeFrame.cause.toNat 0 32 = 0 ∧
    (base.core 0).lheld = none := by decide
/-- The handler that skips a body instruction of X by AFTER, and the one that repeats it. -/
theorem witness_TrapReturn_skip :
    (∀ r ∈ [0x10004, 0x10005],
      let k := { base.core 0 with xpos := .at 0x10004, loop := { XLoop.closed with act := true, n := 4, q := 4, ns := 2, sl := 3, place := 5 } }
      k.lheld = none ∧ k.loop.act = true ∧ k.loop.place < k.loop.ns * k.loop.sl ∧ k.xpos = .at 0x10004 ∧
      ((BitVec.ofNat 64 r = BitVec.ofNat 64 (0x10004 ||| 1)) ↔ r = 0x10005)) := by decide
theorem witness_FrameAndContextItems :
    isCtl base.cur.kind = true ∧ ((moded .handler gaugeFrame 15 3).ctl kq).mode = .handler ∧ ((moded .handler gaugeFrame 15 3).getK kq 1).toNat < 16 ∧
    (∀ n ∈ [1, 2, 3, 4, 6, 12, 13, 14, 15], ((moded .handler gaugeFrame (BitVec.ofNat 64 n) 3).getK kq 1).toNat = n) ∧
    ((kk 14 0).ctl kq).mode ≠ .handler ∧ ((kk 14 0).getK kq 1).toNat = 14 ∧ (kk 0x20004 3).getK kq 1 = 0x20004 ∧
    (kk 3 4).getK kq 1 = 3 ∧ (kk 3 4).getK kq 2 = 4 := by decide
theorem witness_FrameAndContextItems_mend :
    (let p : XPend := { id := 1, pc := 0, cyc := 4, dst := .e 2, val := 6, map := none, keep := false, flags := 0, img := false, ref := none
                        e2 := none, sq := false, rerun := none }
     let s := (moded .handler gaugeFrame 2 1).setCore 0 { base.core 0 with pend := [p, p] }
     let n := (s.getK kq 1).toNat
     (s.ctl kq).mode = .handler ∧ n < 256 ∧ n / 2 < s.mqn kq ∧ n % 2 = 0 ∧ (s.getK kq 2).toNat < 2 ∧ n / 2 < (s.core 0).pend.length) := by
  decide +kernel
/-- An entry of L that has not arrived and a store of S that has not ended, as the mend queue lists them after X's. -/
theorem witness_FrameAndContextItems_held :
    (let e : LEntry := { id := 1, pc := 0x10004, present := false, val := 0, map := ⟨CMap.nil, [], false⟩, width := 4, plan := [], fill := 0
                         got := [], pa := none }
     let p : SPend := { pc := 0x10008, ids := [], pa := none, mark := none, sem := none, gauge := none, pay := [] }
     let s := (moded .handler gaugeFrame 3 2).setCore 0 { base.core 0 with lq := [e], spend := [p] }
     let k := s.core 0
     let held := ((k.lq.filter fun e => !e.present).map fun e => (1, e.pc)) ++ k.spend.map fun p => (3, p.pc)
     let n := (s.getK kq 1).toNat
     (s.ctl kq).mode = .handler ∧ s.cur.kind = .k ∧ k.lheld = none ∧ n < 256 ∧ k.pend.length ≤ n / 2 ∧
     held[n / 2 - k.pend.length]? = some (3, 0x10008) ∧ 4 / 2 ≥ k.pend.length + held.length ∧ n % 2 = 1 ∧ (s.getK kq 2).toNat ≥ 2 ∧
     n / 2 ≥ k.pend.length ∧ 4 / 2 ≥ s.mqn kq ∧ 256 ≥ 256) := by decide +kernel
/-- The values that TFWR takes and refuses, at the edges: a slot and a header, 0 and 17 for STEP, whose low four bits count. -/
theorem witness_FrameAndContextItems_writes :
    (let slot (w : Word) : Prop := w = 0 ∨ w.toNat / 4 % 8 ≠ 0
     slot 0x20004 ∧ ¬slot 0x20000 ∧ (gaugeFrame.kpc = 0 ↔ (0x20004 : Word) = 0) ∧ ¬(gaugeFrame.lpc = 0 ↔ (0x20004 : Word) = 0)) ∧
    field gaugeFrame.cause.toNat 32 16 = 14 ∧ field brkFrame.cause.toNat 32 16 ≠ 14 ∧ (16 : Word).toNat % 16 = 0 ∧ (17 : Word).toNat % 16 = 1 ∧
    (3 : Word).toNat % 16 = 3 ∧ ((moded .normal gaugeFrame 13 0).ctl kq).mode ≠ .handler := by decide
theorem witness_FrameAndContextItems_items :
    (∀ n ∈ [0, 1, 2, 3], ((kk (BitVec.ofNat 64 n) 0).getK kq 1).toNat = n) ∧ ((kk 4 4).getK kq 1).toNat ≥ 4 ∧ ((kk 4 4).getK kq 2).toNat ≥ 4 ∧
    0x20004 % 4 = 0 ∧ 0x20004 / 4 % 8 ≠ 0 ∧ ((kk 0x20004 3).getK kq 2).toNat < 4 ∧ 0x20002 % 4 ≠ 0 ∧ 0x20000 / 4 % 8 = 0 := by decide
theorem witness_Stops :
    (let c := base.ctl kq
     let f : EngRec := { num := 1, barge := 0, kind := 1, code := 3, addr := 0 }
     let s := base.setCtl kq { c with faults := [f], brk := [(3, 0x10004)], pos := .at 0x10004 }
     isCtl s.cur.kind = true ∧ (s.ctl kq).mode = .normal ∧ (s.ctl kq).only = none ∧ (s.ctl kq).stepDone = false ∧ (s.ctl kq).faults ≠ [] ∧
     s.pos kq = .at 0x10004 ∧ sget 0 (s.ctl kq).brk 3 = 0x10004 ∧ sfind (s.ctl kq).brkPass (strmNo .k) ≠ some 0x10004) ∧
    (∀ n ∈ [0, 1, 2, 3], let s := base.setCtl kq { base.ctl kq with only := some n, stepDone := true }
      s.cur.kind = .k ∧ (s.ctl kq).only = some n ∧ (s.ctl kq).stepDone = true) ∧
    base.pos xq = .ended ∧ (base.setPos xq (.at 0x10004)).pos xq ≠ .ended := by decide
/-- Every unit stands at a breakpoint that it has not passed, and at one that it may pass; K does in its handler too. -/
theorem witness_Stops_break :
    (∀ kd ∈ [SeqKind.k, .l, .x, .s], ∀ pass ∈ ([[], [(strmNo kd, 0x10004)]] : List (SMap Nat)),
      let q : SeqId := { unit := 0, kind := kd }
      let s := { (base.setCtl kq { base.ctl kq with brk := [(3, 0x10004)], brkPass := pass }).setPos q (.at 0x10004) with cur := q }
      (s.ctl q).mode = .normal ∧ (s.ctl q).only = none ∧ (s.ctl q).stepDone = false ∧ s.pos q = .at 0x10004 ∧ sget 0 (s.ctl q).brk 3 = 0x10004 ∧
      (sfind (s.ctl q).brkPass (strmNo kd) == some (0x10004 : Nat)) = !pass.isEmpty) ∧
    (let s := (base.setCtl kq { base.ctl kq with mode := .handler, brk := [(0, 0x10004)] }).setPos kq (.at 0x10004)
     isCtl s.cur.kind = true ∧ (s.ctl kq).mode = .handler ∧ s.pos kq = .at 0x10004 ∧ sget 0 (s.ctl kq).brk 0 = 0x10004) := by decide +kernel

-- Contexts -------------------------------------------------------------------------------------------------------------------------------

/-- A record with its operands from w1 on. -/
def recOf (kind : Word) (ops : List Word) : List Word := (kind :: ops ++ [0, 0, 0, 0, 0, 0]).take 7 ++ [0]

/-- Module 0's queue 0 with one record at 0x1000, and words at 0x2000, in host memory; the hub about to start it. -/
def hostSays (s : State) (ws : List Word) (ds : List Word) : State :=
  let at' (a : Nat) (l : List Word) : List (Nat × Byte) := cellsOf (hostKey 0 a) (l.flatMap (leBytes 8 ∘ BitVec.toNat))
  let s := { s with mem := memWrite (memWrite s.mem (at' 0x1000 ws)) (at' 0x2000 ds), ev := { s.ev with md := 0, i := 0, asid := 1 } }
  s.setHostQ 0 0 { HostQ.init with st := 1, app := 1, recs := [{ addr := 0x1000, pins := [] }] }

/-- Context 1 in another state. -/
def ctxAt (s : State) (f : Ctx → Ctx) : State := s.setCtx 0 1 (f (s.ctx 0 1))

/-- The descriptor of context 7, and one beyond the last ASID. -/
def ctxDesc (asid : Word) : List Word := [asid, 0x4000000, 4, 0x8000000, 1, 0, 0, 0]

theorem witness_ContextCreation :
    (∀ p ∈ [(7, CtxState.free), (1, .running)],
      let w := recOf 1 [0x2000]
      let s := hostSays base w (ctxDesc p.1)
      (s.chosen 0 = some (.queue 0) ∧ s.headFate 0 0 = .ready w) ∧ recKind w = 1 ∧
      (let r := s.startRec 0 0 w
       let d := wordsOfNat (memNat r.2.mem (hostKey 0 (recOp w 1)) 64) 8
       d = ctxDesc p.1 ∧ (r.2.ctx 0 p.1.toNat).st = p.2)) ∧
    (let s := hostSays base (recOf 1 [0x2000]) (ctxDesc 7)
     let r := (s.startRec 0 0 (recOf 1 [0x2000])).2
     let e := r.enterCtx 0 7 .building 0 0
     let b := e.setCtx 0 7 { e.ctx 0 7 with gtab := 0x4000000, gtsz := 4, save := 0x8000000, saveq := 1 }
     let g := b.mapFw 0 7 0x4000000 0 0 (gaugePages 4) false
     (r.ctx 0 7).pages = [] ∧ (r.ctx 0 7).waiting = [] ∧
     b.fwFits 0 7 0x4000000 0 0 (gaugePages 4) = true ∧ g.fwFits 0 7 0x8000000 1 1 2 = true) ∧
    (∀ p ∈ [(2 ^ 51, 0x8000000), (0x4000000, 2 ^ 51)],
      let s := hostSays base (recOf 1 [0x2000]) [7, BitVec.ofNat 64 p.1, 4, BitVec.ofNat 64 p.2, 1, 0, 0, 0]
      let r := (s.startRec 0 0 (recOf 1 [0x2000])).2
      let e := r.enterCtx 0 7 .building 0 0
      let b := e.setCtx 0 7 { e.ctx 0 7 with gtab := p.1, gtsz := 4, save := p.2, saveq := 1 }
      let g := b.mapFw 0 7 p.1 0 0 (gaugePages 4) false
      p.1 % 2 ^ 16 = 0 ∧ p.2 % 2 ^ 21 = 0 ∧ s.headFate 0 0 = .ready (recOf 1 [0x2000]) ∧ (r.ctx 0 7).st = .free ∧
      b.fwFits 0 7 p.1 0 0 (gaugePages 4) = (p.1 == 0x4000000) ∧ (p.1 = 0x4000000 → g.fwFits 0 7 p.2 1 1 2 = false)) ∧
    (let s := hostSays base (recOf 1 [0x2000]) (ctxDesc 2048)
     s.headFate 0 0 = .ready (recOf 1 [0x2000]) ∧ ¬(2048 < 2048)) := by decide +kernel

/-- The slot that a saved context keeps of quad 3. -/
def slot3 : SavedQuad :=
  { qn := 3, quad := Quad.init, cores := [], ctls := [], cells := [], engine := [], latent := [], bad := [], stores := [], clock := 0 }

theorem witness_Preemption :
    (∀ p ∈ [(CtxState.ready, 1), (.saved, 1), (.running, 0), (.running, 1), (.yielding, 1), (.killing, 1)],
      let w := recOf 3 [1, 5]
      let s := hostSays (ctxAt base fun c => { c with st := p.1, saveq := p.2 }) w []
      (s.chosen 0 = some (.queue 0) ∧ s.headFate 0 0 = .ready w) ∧ recKind w = 3 ∧ ((s.startRec 0 0 w).2.ctx 0 1).st = p.1 ∧
      ((s.startRec 0 0 w).2.running 0 1).foldl (fun a g => a + g.2.nq) 0 = 1 ∧ ((s.startRec 0 0 w).2.ctx 0 1).saveq = p.2) ∧
    (∀ p ∈ [(CtxState.ready, 0, true), (.saved, 0, true), (.saved, 3, false)],
      let w := recOf 4 [1]
      let s := hostSays (ctxAt base fun c => { c with st := p.1, slots := [slot3] }) w []
      let s := s.setQuad 3 { s.quad 3 with grp := p.2.1 }
      (s.chosen 0 = some (.queue 0) ∧ s.headFate 0 0 = .ready w) ∧ recKind w = 4 ∧ ((s.startRec 0 0 w).2.ctx 0 1).st = p.1 ∧
      (s.startRec 0 0 w).2.quadsBack 0 1 = p.2.2 ∧ (s.startRec 0 0 w).2.slotBad 0 1 0 = false ∧ ([slot3].map SavedQuad.qn).Nodup) := by
  decide +kernel
theorem witness_Preemption_save :
    (let s := ctxAt { base with clock := 9, ev := { base.ev with md := 0, asid := 1 } } fun c => { c with st := .yielding, limit := 9 }
     let ended := (span 0 8).foldl (fun z u => (z.setCore u Core.init)) s
     (s.ctx 0 1).st = .yielding ∧ (s.ctx 0 1).limit ≠ 0 ∧ s.clock ≥ (s.ctx 0 1).limit ∧
     (let z := ended.setCtl kq { ended.ctl kq with pos := .ended }
      (z.ctx 0 1).st = .yielding ∧ ∀ g ∈ z.running 0 1, z.groupQuiet g.2 = true)) ∧
    (let s := ctxAt { base with ev := { base.ev with md := 0, asid := 1 } } fun c => { c with st := .yielding, limit := 0 }
     (s.ctx 0 1).st = .yielding ∧ (s.ctx 0 1).limit = 0 ∧ ∃ g ∈ s.running 0 1, s.groupQuiet g.2 = false) := by decide +kernel
/-- The clause on what a restored quad holds: a slot with one core and one word of its scratchpad. -/
theorem witness_Preemption_restore :
    (let x : SavedQuad := { slot3 with cores := [(24, Core.init)], cells := [(24 * 2 ^ 20 + 8, 5)] }
     ∀ y ∈ [x], (y.cores.map Prod.fst).Nodup ∧ (y.cells.map Prod.fst).Nodup ∧ (∀ z ∈ y.cores, quadOf z.1 = quadIx 0 y.qn) ∧
       ∀ z ∈ y.cells, quadOf (z.1 / 2 ^ 20) = quadIx 0 y.qn) := by decide +kernel
theorem witness_ContextKilling :
    isCtl base.cur.kind = true ∧ (base.ctxOf kq).st = .running ∧
    (∀ st ∈ [CtxState.saved, .killing],
      let w := recOf 2 [1]
      let s := hostSays (ctxAt base fun c => { c with st := st }) w []
      (s.chosen 0 = some (.queue 0) ∧ s.headFate 0 0 = .ready w) ∧ recKind w = 2 ∧ ((s.startRec 0 0 w).2.ctx 0 1).st = st) ∧
    (∀ n ∈ [0, 1],
      let s := ctxAt { base with ev := { base.ev with md := 0, asid := 1 } } fun c =>
        { c with st := .killing, pages := c.pages.map fun p => { p with inf := n } }
      (s.ctx 0 1).st = .killing ∧ (if n = 0 then ∀ p ∈ (s.ctx 0 1).pages, p.busy = false else ∃ p ∈ (s.ctx 0 1).pages, p.busy = true)) ∧
    ((ctxAt base fun c => { c with st := .dead }).ctx 0 1).st = .dead ∧
    (∀ g ∈ [0, 3],
      let s := ctxAt (base.setQuad 3 { base.quad 3 with grp := g }) fun c => { c with st := .saved, held := true, slots := [slot3] }
      (s.ctx 0 1).st = .saved ∧ (s.ctx 0 1).held = true ∧ s.quadsBack 0 1 = (g == 0) ∧ s.slotBad 0 1 0 = false) := by decide +kernel

-- Deques --------------------------------------------------------------------------------------------------------------------------------

def someRec (b : Byte) : ContRec := b :: List.replicate 31 0

theorem witness_Deques :
    (∀ l ∈ [[], [someRec 1], [someRec 1, someRec 2]],
      let s := (kk 0x7FFE0 0).setQuad 0 { base.quad 0 with deque := [(0, l)] }
      s.cur.kind = .k ∧ s.writeCheck kq 0x7FFE0 32 32 = none ∧ s.readCheck kq 0x7FFE0 32 32 = none ∧ s.logical kq = 0 ∧ s.deque kq 0 = l ∧
      l.all (·.length == 32) = true ∧ (s.getK kq 2).toNat < 4 * (s.grpOf kq).nq ∧ s.fenceOpen kq 5 = false ∧ (s.deque kq 0).length < 256) ∧
    ((kk 0 4).getK kq 2).toNat ≥ 4 * ((kk 0 4).grpOf kq).nq ∧
    (((base.setQuad 0 { base.quad 0 with deque := [(0, List.replicate 256 (someRec 1))] }).deque kq 0).length ≥ 256) ∧
    ({ base with transit := [stored 1 1 kq] } : State).fenceOpen kq 5 = true ∧
    (kk 0x7FFFC 0).readCheck kq 0x7FFFC 4 4 = none := by decide +kernel

end Sys2Proof.Tests
end

