-- ==== Sys2Proof/Tests/WitnessHub.lean ====
section
/-! SUPPORT. A concrete state and operands that meet the hypotheses of each statement: host queues, the launch table, registers, groups. -/

set_option Elab.async false

namespace Sys2Proof.Tests

open Sys2Proof Sys2Proof.Machine

-- Queues --------------------------------------------------------------------------------------------------------------------------------

/-- Context 1 with a page of 64 KiB in HBM at 0x20000 that holds words, and queue `n` of its own, with records at addresses in it; queue
`n` moves. -/
def queued (s : State) (n : Nat) (recs : List Nat) (ws : List Word) : State :=
  let s := ctxAt s fun c => { c with pages := c.pages ++ [pageOfWord 0x20000 0x30 0] }
  let s := { s with mem := memWrite s.mem (cellsOf (pageKey 0 1 0x20000) (ws.flatMap (leBytes 8 ∘ BitVec.toNat)))
                    ev := { s.ev with md := 0, i := n, asid := 1 } }
  s.setHostQ 0 n { HostQ.init with st := 1, asid := 1, recs := recs.map fun a => { addr := a, pins := [] } }

theorem witness_QueueInstructions :
    (let s := queued (kk 0x2FFC0 63) 63 [] []
     isCtl s.cur.kind = true ∧ (s.getK kq 2).toNat = 63 ∧ (s.hostQ 0 63).st = 1 ∧ (s.hostQ 0 63).asid = s.asidOf kq ∧ (s.hostQ 0 63).recs = [] ∧
     0x2FFC0 % 64 = 0 ∧ s.runCode 0 1 0x2FFC0 64 true false = 0 ∧ s.runCode 0 1 0x30000 64 true false ≠ 0 ∧
     (s.setHostQ 0 63 { s.hostQ 0 63 with st := 4 }).hostQ 0 63 ≠ s.hostQ 0 63) ∧
    (let s := queued (kk 1 2) 1 [] []
     (s.hostQ 0 1).st ≠ 0 ∧ (s.hostQ 0 1).asid = s.asidOf kq ∧ (s.getK kq 1).toNat = 1 ∧ (s.getK kq 2).toNat = 2) ∧
    ((base.hostQ 0 64).st = 0 ∧ (base.hostQ 0 1).st = 0) ∧ ((kk 5 0xFFFF).getK kq 2).toNat < 2 ^ 16 ∧
    ((kk 5 0x10000).getK kq 2).toNat ≥ 2 ^ 16 := by decide +kernel

/-- The clauses on the pinned page and on NEXT of the record before, which stands in a page that is mapped and not sealed, and on a queue in
ERROR. -/
theorem witness_QueueInstructions_next :
    (let s := queued (kk 0x2FFC0 63) 63 [0x20000] []
     let p := s.pin 1 (s.pinsFor 0 1 [(0x2FFC0, 64)])
     ((s.ctx 0 1).pageOf 0x2FFC0).any (fun pg => decide (pg.tier ≠ 3 ∧ 0x2FFC0 + 64 ≤ pg.va + pg.size)) = true ∧
     (s.hostQ 0 63).recs.getLast?.isSome = true ∧ (p.homeNow 0 1 (0x20000 + 56)).isSome = true ∧ p.sealedAt 1 0 (0x20000 + 56) 8 = false ∧
     (let e := s.setHostQ 0 63 { s.hostQ 0 63 with st := 4 }
      (e.hostQ 0 63).st ≠ 0 ∧ (e.hostQ 0 63).st ≠ 1 ∧ e.runCode 0 1 0x2FFC0 64 true false = 0)) ∧
    ((kk 1 3).getK kq 2).toNat ≥ 3 ∧ 0x2FFC1 % 64 ≠ 0 := by decide +kernel

/-- Words of an enabled entry for kernel 1 on one quad: start, period, launch word. -/
def entryOf (start : Word) : List Word := [1, start, 1000, 1 + 2 ^ 32, 0, 0, 0, 0]

/-- Entry 255 of module 0 changed, at a time. -/
def tabled (s : State) (clock : Nat) (f : TTEntry → TTEntry) : State :=
  { s with clock := clock, ev := { s.ev with md := 0, i := 255, asid := 1 } }.setTt 0 255 (f TTEntry.zero)

theorem witness_LaunchTable :
    (let s := kkw 0x1000 255 0x1000 (entryOf 5)
     isCtl s.cur.kind = true ∧ (s.getK kq 2).toNat < 256 ∧ (s.tt 0 255).owner = none ∧ s.recCheck kq 0x1000 64 = none ∧
     s.recWriteCheck kq 0x1000 64 = none ∧ s.words kq 0x1000 8 = entryOf 5) ∧
    (let s := tabled (kk 255 255) 0 fun x => { x with owner := some 1, skipped := 0xFFFF, late := 0xFFFF }
     (s.getK kq 1).toNat < 256 ∧ (s.tt 0 255).owner = some (s.asidOf kq) ∧ (s.tt 0 255).skipped < 2 ^ 16 ∧ (s.tt 0 255).late < 2 ^ 16) ∧
    (let s := tabled (kk 0 255) 0 fun x => { x with owner := some 2 }
     (s.tt 0 255).owner ≠ none ∧ (s.tt 0 255).owner ≠ some (s.asidOf kq)) := by decide +kernel
theorem witness_LaunchTable_slot :
    (∀ clock ∈ [4, 5], ∀ due ∈ [none, some (⟨entryOf 5, 1, 0⟩ : Due)], ∀ g ∈ [0, 1],
      let s := (ctxAt (tabled base clock fun x => { x with words := entryOf 5, owner := some 1, due := due, group := g }) fun c => { c with st := .ready })
      (s.tt 0 255).owner = some 1 ∧ (s.tt 0 255).en = true ∧ (s.devTime 0 < (s.tt 0 255).begins (s.tt 0 255).slot ↔ clock = 4) ∧
      (s.tt 0 255).due = due ∧ s.ttBusy (s.tt 0 255) = (g == 1) ∧ (s.tt 0 255).steps = [] ∧ (s.ctx 0 1).st = .ready ∧
      (s.ctx 0 1).launchCause ((s.tt 0 255).word 3) = none) := by decide +kernel

/-- The slots that are skipped: passed by a time step, of a context that is SAVED, of a kernel that is not there; an entry that is off or has
no owner; and words that TTWR refuses, at the edges of the period. -/
theorem witness_LaunchTable_skip :
    (let s := tabled base 5 fun x => { x with words := entryOf 5, owner := some 1, steps := [(4, 6)] }
     s.ttBusy (s.tt 0 255) = false ∧ ∃ p ∈ (s.tt 0 255).steps, p.1 < (s.tt 0 255).begins 0 ∧ (s.tt 0 255).begins 0 < p.2) ∧
    (let s := ctxAt (tabled base 5 fun x => { x with words := entryOf 5, owner := some 1 }) fun c => { c with st := .saved }
     s.ttBusy (s.tt 0 255) = false ∧ (s.tt 0 255).steps = [] ∧ (s.ctx 0 1).st ≠ .ready ∧ (s.ctx 0 1).st ≠ .running) ∧
    (let s := tabled base 5 fun x => { x with words := (entryOf 5).set 3 (2 + 2 ^ 32), owner := some 1 }
     (s.ctx 0 1).st = .running ∧ (s.ctx 0 1).launchCause ((s.tt 0 255).word 3) = some 1) ∧
    (base.tt 0 255).owner = none ∧ ({ TTEntry.zero with owner := some 1 } : TTEntry).en = false ∧
    (let f (n : Nat) : Nat := ((entryOf 5).getD n 0).toNat
     f 0 / 4 % 2 ^ 14 = 0 ∧ f 0 < 2 ^ 28 ∧ 1000 ≤ f 2 ∧ f 2 ≤ 2 ^ 40 ∧ f 3 < 2 ^ 42) ∧
    (4 : Nat) / 4 % 2 ^ 14 ≠ 0 ∧ 999 < 1000 := by decide +kernel

/-- Records of queue 0 that can start: NOP, EVENT, WRITEV, QBIND of a free queue, of a bound one, to a context that is not there, and from. -/
def qZeroRecs : List (List Word) :=
  [recOf 0 [], recOf 0x0B [7], recOf 0x0A [0x2008, 7], recOf 5 [63, 1, 0xF3], recOf 5 [62, 1, 0], recOf 5 [63, 2, 0], recOf 5 [63, 1, 0x100]]

theorem witness_HostRecords :
    (∀ w ∈ qZeroRecs,
      let s := (hostSays base w [5]).setHostQ 0 62 { HostQ.init with st := 1, asid := 1 }
      (s.chosen 0 = some (.queue 0) ∧ s.headFate 0 0 = .ready w) ∧ s.ids ∉ (s.hostQ 0 0).pend ∧ ((s.startRec 0 0 w).2.ctx 0 1).st = .running ∧
      ((s.startRec 0 0 w).2.ctx 0 2).st = .free ∧ ((s.startRec 0 0 w).2.hostQ 0 62).st = 1 ∧ ((s.startRec 0 0 w).2.hostQ 0 63).st = 0) ∧
    base.chosen 0 ≠ some (.queue 0) ∧
    (let s := hostSays base (recOf 0x0C []) []
     s.chosen 0 = some (.queue 0) ∧ s.headFate 0 0 = .bad 1 0) ∧
    (let s := hostSays base (recOf 8 [1 + 2 ^ 32]) []
     s.chosen 0 = some (.queue 0) ∧ s.headFate 0 0 = .bad 3 0) := by decide +kernel

/-- The hub's read answers a value. -/
def reads (r : Except Nat Nat) (n : Nat) : Bool := match r with
  | .ok v => v == n
  | .error _ => false

theorem reads_eq {r : Except Nat Nat} {n : Nat} (h : reads r n = true) : r = .ok n := by
  cases r with
  | ok v => simpa [reads] using h
  | error e => simp [reads] at h

/-- Queue 63 with a WRITEV. -/
def writevRec : List Word := recOf 0x0A [0x20040, 7]
def writing : State := queued base 63 [0x20000] writevRec

theorem witness_HostRecords_writev :
    writing.chosen 0 = some (.queue 63) ∧ writing.headFate 0 63 = .ready writevRec ∧ recKind writevRec = 0x0A := by
  have hq : writing.hostQ 0 63 = { HostQ.init with st := 1, asid := 1, recs := [{ addr := 0x20000, pins := [] }] } := by decide +kernel
  have hh : writing.hubRead 0 63 0x20000 64 false = .ok (0x0A + 0x20040 * 2 ^ 64 + 7 * 2 ^ 128) := reads_eq (by decide +kernel)
  have ht : writing.hubRead 0 63 (recOp writevRec 1) 8 true = .ok 0 := reads_eq (by decide +kernel)
  exact ⟨by decide +kernel, headFate_ready hq rfl rfl hh (by decide +kernel) (by decide +kernel) (by decide)
    ((if_pos (by decide)).trans ht) (by decide +kernel), by decide⟩

/-- Queue 0 with a WAITV for the value `x` at a word that holds 5. -/
def waitvRec (x : Word) : List Word := recOf 9 [0x2000, x, 0]
def waiting (x : Word) : State := hostSays base (waitvRec x) [5]
def polling (x : Word) : State := (waiting x).setHostQ 0 0 { (waiting x).hostQ 0 0 with polled := true }

theorem waiting_ready (x : Word) (hx : x = 5 ∨ x = 6) : (waiting x).headFate 0 0 = .ready (waitvRec x) := by
  have hq : (waiting x).hostQ 0 0 = { HostQ.init with st := 1, app := 1, recs := [{ addr := 0x1000, pins := [] }] } := by
    rcases hx with rfl | rfl <;> decide +kernel
  have hh : (waiting x).hubRead 0 0 0x1000 64 false = .ok (9 + 0x2000 * 2 ^ 64 + x.toNat * 2 ^ 128) := by
    rcases hx with rfl | rfl <;> exact reads_eq (by decide +kernel)
  have ht : (waiting x).hubRead 0 0 (recOp (waitvRec x) 1) 8 false = .ok 5 := by
    rcases hx with rfl | rfl <;> exact reads_eq (by decide +kernel)
  refine headFate_ready hq rfl rfl hh ?_ ?_ ?_ ((if_pos ?_).trans ht) ?_ <;> rcases hx with rfl | rfl <;> decide +kernel

theorem witness_HostRecords_waitv (x : Word) (hx : x = 5 ∨ x = 6) :
    (waiting x).chosen 0 = some (.queue 0) ∧ (waiting x).headFate 0 0 = .ready (waitvRec x) ∧ recKind (waitvRec x) = 9 ∧
    (waiting x).waitvTrue 0 0 (waitvRec x) = (x == 5) ∧
    ((polling x).hostQ 0 0).polled = true ∧ ((polling x).hostQ 0 0).st = 1 := by
  refine ⟨chosen_zero (waiting_ready x hx), waiting_ready x hx, ?_, ?_, ?_, ?_⟩ <;> rcases hx with rfl | rfl <;> decide +kernel

/-- Without the mark, the head of the polled queue is the ready WAITV. -/
theorem witness_HostRecords_poll (x : Word) (hx : x = 5 ∨ x = 6) :
    ((polling x).setHostQ 0 0 { (polling x).hostQ 0 0 with polled := false }).headFate 0 0 = .ready (waitvRec x) := by
  have h : (polling x).setHostQ 0 0 { (polling x).hostQ 0 0 with polled := false } = waiting x := by
    rcases hx with rfl | rfl <;> decide +kernel
  rw [h, waiting_ready x hx]
theorem witness_HostRegisters :
    (∀ l ∈ [[], [0x20000]],
      let s := queued base 63 l []
      (s.hub 0).power = .ready ∧ s.ev.i < 64 ∧ (s.hostQ 0 63).st = 1 ∧ (s.hostQ 0 63).recs.length = l.length) ∧
    (base.hostQ 0 63).st ≠ 1 ∧ (base.hub 0).evheld = [] ∧ (base.hub 0).dropped = 0 ∧ (base.hub 0).power ≠ .off ∧ (base.hub 0).mbst % 2 = 0 ∧
    (∀ a ∈ [0x0100, 0x0108, 0x0120, 0x0200, 0x0208, 0x0210, 0x0220],
      ({ base with ev := { base.ev with md := 0, addr := a, val := 4 } } : State).ev.addr = a) ∧
    (State.reset.hub 1023).power = .off := by decide +kernel
/-- APPEND through BAR0 at the last queue, whose record before stands in a mapped page; EVRD with one event held and one dropped and room for
both; and with a kernel id to free. -/
theorem witness_HostRegisters_events :
    (let s := { queued base 63 [0x20000] [] with ev := { base.ev with md := 0, i := 63, asid := 1, addr := 0x10000 + 0x40 * 63, val := 0x20040 } }
     (s.hub 0).power = .ready ∧ (s.hostQ 0 63).st = 1 ∧ s.ev.addr = 0x10000 + 0x40 * 63 ∧ (s.homeNow 0 1 (0x20000 + 56)).isSome = true ∧
     s.sealedAt 1 0 (0x20000 + 56) 8 = false) ∧
    (let e : Event := { kind := 4, asid := none, src := 0, code := 0, payload := 0 }
     let h := { base.hub 0 with evheld := [e], dropped := 1, evwr := 256, evrd := 0 }
     let s := { base with ev := { base.ev with md := 0, val := 2, addr := 0x0118 } }.setHub 0 h
     (s.hub 0).power = .ready ∧ (s.hub 0).noted = [] ∧ (s.hub 0).evheld.length ≤ 1024 ∧ s.ev.val ≤ (s.hub 0).evwr ∧
     (s.hub 0).evwr - s.ev.val + 2 ≤ 2 ^ (s.hub 0).evsize ∧ (s.hub 0).evwr - 0 ≥ 2 ^ (s.hub 0).evsize ∧
     (s.hub 0).evrd ≤ (s.hub 0).evwr ∧ (s.hub 0).evwr - (s.hub 0).evrd + 2 ≤ 2 ^ 9 ∧ (s.hub 0).evwr - (s.hub 0).evrd ≥ 2 ^ 8 ∧ 8 ≤ 9 ∧ 9 ≤ 20) ∧
    (let s := { (ctxAt base fun c => c.setKernel 9 { Kernel.none with st := .refused }) with ev := { base.ev with md := 0, val := 5 } }
     let s := s.setHub 0 { s.hub 0 with noted := [(5, 1, 9)] }
     (s.hub 0).evheld = [] ∧ (s.hub 0).dropped = 0 ∧ (∃ y ∈ (s.hub 0).noted, y.1 ≤ s.ev.val ∧ ((s.ctx 0 y.2.1).kernel y.2.2).st = .refused)) := by
  decide +kernel

-- Groups ----------------------------------------------------------------------------------------------------------------------------------

/-- Context 1 READY with its kernel LOADED for 1 to `qmax` quads, no group, and queue 63 that asks for a launch. -/
def launching (qmax : Nat) (kw : Word) (f : State → State) : State :=
  let s := queued { base with groups := [] } 63 [0x20000] (recOf 8 [kw, 1, 2, 3, 4])
  let s := ctxAt s fun c => { c with st := .ready, kernels := [(1, { c.kernel 1 with st := .loaded, qmax := qmax })] }
  f (s.setQuad 0 { s.quad 0 with grp := 0 })

theorem witness_GroupLifecycle :
    (∀ p ∈ [((launching 1 (2 + 2 ^ 32) id), some 1, some 0), (launching 1 (1 + 2 * 2 ^ 32) id, some 2, some 0), (launching 1 (1 + 2 ^ 32) id, none, some 0),
        (launching 512 (1 + 512 * 2 ^ 32) id, none, some 0),
        (launching 512 (1 + 512 * 2 ^ 32) fun s => s.setQuad 511 { s.quad 511 with grp := 9 }, none, none)],
      (p.1.chosen 0 = some (.queue 63) ∧ ∃ w ∈ [recOf 8 [2 + 2 ^ 32, 1, 2, 3, 4], recOf 8 [1 + 2 ^ 32, 1, 2, 3, 4], recOf 8 [1 + 2 * 2 ^ 32, 1, 2, 3, 4],
          recOf 8 [1 + 512 * 2 ^ 32, 1, 2, 3, 4]],
        p.1.headFate 0 63 = .ready w ∧ recKind w = 8 ∧ (p.1.ctx 0 1).launchCause (recOp w 1) = p.2.1 ∧ p.1.placeGroup 0 (kwQuads (recOp w 1)) = p.2.2)) := by
  decide +kernel
theorem witness_GroupLifecycle_others :
    (let s := launching 1 0 fun s => s.setHostQ 0 63 HostQ.init
     let d : Due := ⟨entryOf 5, 1, 0⟩
     let t := tabled s 5 fun x => { x with words := entryOf 5, owner := some 1, due := some d, slot := 1 }
     t.launchDue 0 = some (.table 255) ∧ (sget TTEntry.zero (t.hub 0).tt 255).due = some d ∧ (t.ctx 0 d.owner).launchCause (d.words.getD 3 0).toNat = none ∧
     t.placeGroup 0 (kwQuads (d.words.getD 3 0).toNat) = some 0 ∧ s.launchDue 0 = none ∧ (s.ctx 0 1).st = .ready) ∧
    (let s := launching 1 0 fun s => s.setHostQ 0 63 HostQ.init
     let l : Launch := { asid := 1, kw := 1 + 2 ^ 32, args := [], q := qf0, level := 0, gid := 8 }
     let t := s.setHub 0 { s.hub 0 with pending := [l] }
     t.launchDue 0 = some (.group l.gid) ∧ (t.hub 0).pending.find? (fun y => y.gid == l.gid) = some l ∧ (t.ctx 0 1).launchCause l.kw = none ∧
     t.placeGroup 0 (kwQuads l.kw) = some 0) ∧
    (∀ running ∈ [true, false],
      let s := ctxAt { base with ev := { base.ev with md := 0, asid := 1, i := 1 } } fun c => { c with handles := 1, byHandle := [(1, 1)] }
      let s := if running then s else s.setCtl kq { s.ctl kq with pos := .ended }
      (s.ctx 0 1).st = .running ∧ (1, s.group 1) ∈ s.groups ∧ (∀ x ∈ s.groups, x = (1, s.group 1)) ∧
      (let x := s.group 1
       x.md = 0 ∧ x.asid = s.ev.asid ∧ x.handle = s.ev.i ∧ x.st = .running ∧ s.groupDone x = !running)) := by decide +kernel

/-- The scheduler held by a launch of the table, and by one of QF, for want of quads; the same two refused for their kernel; a launch that is
to stay STARTING; and a group whose context is YIELDING. -/
theorem witness_GroupLifecycle_held :
    (let full (s : State) : State := s.setQuad 511 { s.quad 511 with grp := 9 }
     let big : Word := 1 + 512 * 2 ^ 32
     let s := launching 512 0 fun s => s.setHostQ 0 63 HostQ.init
     let d : Due := ⟨(entryOf 5).set 3 big, 1, 0⟩
     let t := full (tabled s 5 fun x => { x with words := d.words, owner := some 1, due := some d, slot := 1 })
     let l : Launch := { asid := 1, kw := big.toNat, args := [], q := qf0, level := 0, gid := 8 }
     let p := full (s.setHub 0 { s.hub 0 with pending := [l], held := some (.group 8) })
     ((t.dueEntries 0).head? = some 255 ∧ t.refLacks 0 (.table 255) = true ∧ t.launchDue 0 = none ∧
      (hostSays t (recOf 0 []) []).chosen 0 = some (.queue 0) ∧ (hostSays p (recOf 0 []) []).chosen 0 = some (.queue 0)) ∧
     (p.dueEntries 0 = [] ∧ p.holding 0 = some (.group 8) ∧ p.refLacks 0 (.group 8) = true ∧
      (full (s.setHub 0 { s.hub 0 with pending := [l] })).launchDue 0 = some (.group 8) ∧ p.placeGroup 0 (kwQuads l.kw) = none ∧
      (p.ctx 0 1).launchCause l.kw = none)) ∧
    (let s := launching 1 0 fun s => s.setHostQ 0 63 HostQ.init
     let d : Due := ⟨(entryOf 5).set 3 (2 + 2 ^ 32), 1, 0⟩
     let t := tabled s 5 fun x => { x with words := d.words, owner := some 1, due := some d, slot := 1 }
     let l : Launch := { asid := 1, kw := 2 + 2 ^ 32, args := [], q := qf0, level := 0, gid := 8 }
     t.launchDue 0 = some (.table 255) ∧ (t.ctx 0 1).launchCause (d.words.getD 3 0).toNat = some 1 ∧
     (s.setHub 0 { s.hub 0 with pending := [l] }).launchDue 0 = some (.group 8) ∧ (s.ctx 0 1).launchCause l.kw = some 1) ∧
    ({ base.ev with j := 1 } : EvArgs).j = 1 ∧ base.ev.j ≠ 1 ∧
    (let s := ctxAt { base with ev := { base.ev with md := 0, asid := 1, i := 1 } } fun c =>
       { c with st := .yielding, handles := 1, byHandle := [(1, 1)] }
     (1, s.group 1) ∈ s.groups ∧ (s.group 1).handle = s.ev.i ∧ (s.group 1).st = .running ∧ (s.ctx 0 1).st = .yielding ∧
     (s.setCtl kq { s.ctl kq with pos := .ended }).groupDone (s.group 1) = true) := by decide +kernel

/-- QF of quad 0 moves, with k1 and k2. -/
def qff (x y : Word) : State := ({ base with cur := qf0 }.setK qf0 1 x).setK qf0 2 y

/-- A nest of one level, of three tiles on axis 5. -/
def tileNest : List Word := [1, 3 + 5 * 2 ^ 32, 0, 0, 0, 0, 0, 0]

theorem witness_GroupInstructions :
    (let s := qff (1 + 2 ^ 32) 0x400000
     s.cur.kind = .qf ∧ kwOk (s.getK qf0 1).toNat = true ∧ s.recCheck qf0 (s.getK qf0 2).toNat 32 = none ∧ s.fenceOpen qf0 5 = false ∧
     (s.groupsIn 0 1 GState.alive).length < 1024 ∧
     s.placeCheck qf0 (s.getK qf0 2).toNat 32 = none ∧ (qff 0 (2 ^ 52 - 16)).placeCheck qf0 (2 ^ 52 - 16) 32 ≠ none ∧
     ({ s with transit := [stored 1 4 qf0] } : State).fenceOpen qf0 5 = true) ∧
    (isCtl base.cur.kind = true ∧ (base.grpOf kq).handle = 1 ∧ ((kk 8 0).getK kq 1).toNat ≥ 8 ∧ ((kk 7 0).getK kq 1).toNat = 7) ∧
    (∀ st ∈ [GState.pending, .starting, .running, .retired, .refused],
      let s := (kk 2 0).setGroup 9 { Group.none with st := st, asid := 1 }
      let s := ctxAt s fun c => { c with handles := 2, byHandle := [(2, 9)] }
      (s.getK kq 1).toNat ≠ (s.grpOf kq).handle ∧ (s.ctxOf kq).groupOf 2 = some 9 ∧ (s.group 9).st = st) ∧
    ((kk 9 0).ctxOf kq).groupOf 9 = none := by decide +kernel
theorem witness_GroupInstructions_tiles :
    (∀ ws ∈ [tileNest, tileNest.set 1 0],
      let s := (qff 0x400000 0).write (cellsOf 0x400000 (ws.flatMap (leBytes 8 ∘ BitVec.toNat)))
      s.recCheck qf0 0x400000 64 = none ∧ (nestOf (s.words qf0 0x400000 8)).isSome = (ws == tileNest)) ∧
    (let s := (qff 0 0).setQuad 0 { base.quad 0 with nest := some [(3, 5)] }
     (s.quad 0).nest = some [(3, 5)] ∧ s.fenceOpen qf0 2 = false) ∧ (base.quad 0).nest = none ∧
    (∀ p ∈ [(0, 0, 1), (1, 0, 1), (2, 0, 1), (1, 1, 1)],
      let s := (kk 0x7FFE0 1).setQuad 0 { base.quad 0 with pass := p.1, passNest := [(3, 5)], cur := [(0, p.2.1)], hi := [(0, p.2.2)] }
      s.cur.kind = .k ∧ s.recWriteCheck kq 0x7FFE0 32 = none ∧ (s.getK kq 2).toNat < 2 ^ 32 ∧ (s.quad 0).pass = p.1 ∧
      sget 0 (s.quad 0).cur 0 = p.2.1 ∧ sget 0 (s.quad 0).hi 0 = p.2.2) := by decide +kernel

end Sys2Proof.Tests
end

