-- ==== Sys2Proof/Tests/WitnessUnits.lean ====
section
/-! SUPPORT. A concrete state and operands that meet the hypotheses of each statement: barriers, semaphores, barges, pages. -/

set_option Elab.async false

namespace Sys2Proof.Tests

open Sys2Proof Sys2Proof.Machine

-- Barriers and semaphores -----------------------------------------------------------------------------------------------------------------

/-- Quad barrier 15 of quad 0, named by k1, and k2. -/
def barred (y : Word) (b : Barrier) : State := (kk 15 y).setQuad 0 { base.quad 0 with bars := [(15, b)] }

def heldBy (c : Nat) : Held := { q := { unit := c, kind := .k }, d := 3, member := c }

theorem witness_Barriers :
    isCtl base.cur.kind = true ∧ barWord ((kk 15 0).getK kq 1) = some (0, 15) ∧ barWord 0x31F = some (3, 31) ∧ barWord 0x13F = some (1, 63) ∧
    (base.ctl kq).wait = false ∧ base.fenceOpen kq 2 = false ∧
    ({ base with transit := [stored 1 1 kq] } : State).fenceOpen kq 2 = true ∧
    base.member kq (base.barName kq 3 31) = none ∧ base.member kq (base.barName kq 0 15) = some 0 ∧
    (∀ x ∈ [(0, 3, ([] : List Held)), (0, 1, []), (1, 3, []), (0, 2, []), (2, 3, [heldBy 1])],
      let s := barred 0 { Barrier.init x.2.1 with arr := x.1, held := x.2.2 }
      ((s.fenced kq 2).acquire kq).bar (s.barName kq 0 15) = { Barrier.init x.2.1 with arr := x.1, held := x.2.2 }) ∧
    isCtl (heldBy 1).q.kind = true ∧ ctlKey (heldBy 1).q ≠ ctlKey kq ∧ bitAt 3 (heldBy 1).member = true ∧ 2 ||| 2 ^ 0 = 3 := by decide +kernel
theorem witness_Barriers_rest :
    (∀ p ∈ [(0, 1), (0, 2 ^ 31), (0xFFFFFFFF, 0), (0, 0), (0, 2 ^ 31 + 1)],
      let s := barred (BitVec.ofNat 64 p.1) { Barrier.init 3 with gen := p.2 }
      (s.getK kq 2).toNat = p.1 ∧ (s.getK kq 2).toNat < 2 ^ 32 ∧ (s.bar (s.barName kq 0 15)).gen = p.2) ∧
    ((kk 15 (2 ^ 32)).getK kq 2).toNat ≥ 2 ^ 32 ∧ (kk 0x10F 0).cur.kind = .k ∧ barWord ((kk 0x10F 0).getK kq 1) = some (1, 15) ∧
    (∀ m ∈ [0x3F, (0x40 : Nat)],
      let s := kkw 15 0x7FF80 0x7FF80 [BitVec.ofNat 64 m]
      s.recCheck kq 0x7FF80 128 = none ∧ s.placeCheck kq 0x7FF80 128 = none ∧ s.placeCheck kq (2 ^ 52 - 64) 128 ≠ none ∧
      s.maskOk kq 0 (s.read kq 0x7FF80 128) = (m == 0x3F)) := by decide +kernel
theorem witness_Semaphores :
    (∀ p ∈ [(5, 0xFFFFFFFF), (5, 5), (5, 6), (5, 2 ^ 32), (5, 2 ^ 32 + 5), (5, 2 ^ 33)],
      let s := (kk 31 (BitVec.ofNat 64 p.2)).setQuad 0 { base.quad 0 with sem := [(31, p.1)] }
      isCtl s.cur.kind = true ∧ (match s.semWord kq (s.getK kq 1).toNat with
        | .ok r => r == (0, 31)
        | .error _ => false) = true ∧ s.sem 0 31 = p.1 ∧ (s.getK kq 2).toNat = p.2 ∧ sget [] (s.quad 0).waiters 31 = [] ∧ (s.ctl kq).wait = false ∧
      s.waitsSaved kq = false) ∧
    (let w : SemWaiter := { q := kq, d := 3, amount := 7, peek := false }
     let s := (kk 31 0).setCtl kq { base.ctl kq with wait := true }
     let s := s.setHub 1 { Hub.init with power := .ready }
     let s := (s.setPort 0 0 { Port.init with st := 2, pmod := 1 }).setPort 1 0 { Port.init with st := 2, pmod := 0 }
     let s := s.setCtx 1 1 { Ctx.init with st := .saved, slots := [{ slot3 with quad := { Quad.init with waiters := [(31, [w])] } }] }
     s.waitsSaved kq = true) ∧
    (∀ x ∈ [1, (9 : Nat)],
      let w : SemWaiter := { q := { unit := 1, kind := .k }, d := 3, amount := 7, peek := false }
      let s := (kk 31 (BitVec.ofNat 64 x)).setQuad 0 { base.quad 0 with sem := [(31, 5)], waiters := [(31, [w])] }
      sget [] (s.quad 0).waiters 31 = [w] ∧ isCtl w.q.kind = true ∧ ctlKey w.q ≠ ctlKey kq ∧ (s.getK kq 2).toNat < 2 ^ 32) := by decide +kernel

-- Barges ----------------------------------------------------------------------------------------------------------------------------------

/-- A queued copy of two rows of eight bytes, 0x2000 to 0x3000 of core 0, and an atomic on a page. -/
def copyCmd : BCmd :=
  { seq := 1, enq := kq, src := 0x2000, dst := 0x3000, rows := 2, len := 8, sstr := 16, dstr := -8, aw := false, aop := 0, es := 0, xp := false
    rel := true, ds := true, ss := true, opnd := 0, cmpv := 0, desc := none, nkey := 0, pins := [], st := .queued, order := 0 }
def addCmd : BCmd := { copyCmd with dst := 0x20040, rows := 1, aw := true, aop := 1, ds := false, rel := false, opnd := 3 }

/-- Chain 0 of context 1 with commands, granules 2 and 3 of core 0 ENGINE, the first command about to move. -/
def barging (ms : List BCmd) : State :=
  let s := queued base 63 [] []
  let s := ctxAt s fun c => c.setChain 0 { seq := 0, last := 1, cmds := ms }
  { s with engine := [(2, true), (3, true)], ev := { base.ev with md := 0, asid := 1, i := 0, j := 0, val := 0 } }

theorem witness_BargeEvents :
    (∀ m ∈ [copyCmd, addCmd],
      let s := barging [m]
      ((s.ctx 0 1).chain 0).cmds[s.ev.val]? = some m ∧ m.st = .queued ∧ (s.ctx 0 1).st = .running ∧ s.clear m.claim = true ∧
      s.allEngine (m.claim.rd ++ m.claim.wr) = true ∧ s.latent = [] ∧ s.bad = []) ∧
    (let s := barging [copyCmd]
     s.allEngine ((copyCmd.pieces.map fun p => ((p.1 : Int), p.2)) ++ copyCmd.dstRows) = true ∧
     (∀ left ∈ [[(0x3000, 1), (0x3008, 2)], ([(0x4000, 1)] : List (Nat × Byte))],
       s.allEngine (left.map fun x => ((x.1 : Int), 1)) = (left.length == 2))) ∧
    copyCmd.aop = 0 ∧ copyCmd.ss = true ∧ copyCmd.ds = true ∧ copyCmd.desc = none ∧
    addCmd.aop ≠ 0 ∧ addCmd.dst % addCmd.len = 0 ∧ addCmd.len = 8 ∧
    ((barging []).home 0 1 addCmd.dst).any (fun x => (barging []).reachable 0 x.1 && !x.2.lineBad addCmd.dst) = true ∧
    ({ copyCmd with st := .done } : BCmd).st ≠ .queued ∧ copyCmd.pins = [] ∧ copyCmd.rel = true ∧ addCmd.rel = false ∧
    ((barging []).ctx 0 1 |>.chain 0).cmds = [] := by decide +kernel

/-- The running commands: nothing read, everything read, nothing written of two words, in a RUNNING and in a YIELDING context; one that may not
run; one whose turn to move a piece comes; and the ends of a retiring one: faulted, and with a pinned page. -/
theorem witness_BargeEvents_running :
    (∀ st ∈ [CmdState.reading [], .reading [[], []], .writing [(0x3000, 1), (0x3008, 2)] []], ∀ c ∈ [CtxState.running, .yielding],
      let m := { copyCmd with st := st }
      let s := ctxAt (barging [m]) fun x => { x with st := c }
      ((s.ctx 0 1).chain 0).cmds.find? (fun x => x.seq == m.seq) = some m ∧ m.st.running = true ∧ (s.ctx 0 1).st = c ∧ m.st.live = true) ∧
    (∀ r ∈ natRows copyCmd.srcRows ++ natRows copyCmd.dstRows ++ copyCmd.pieces,
      (barging []).present (modOf (r.1 / 2 ^ 20)) = true ∧ (barging []).reachable 0 (modOf (r.1 / 2 ^ 20)) = true) ∧
    copyCmd.pieces.length = 2 ∧ ((ctxAt (barging [copyCmd]) fun x => { x with st := .yielding }).ctx 0 1).st ≠ .running ∧
    (CmdState.faulted 3).live = false ∧ CmdState.faulted 3 ≠ .done ∧
    (let c := (barging []).ctx 0 1
     let one := ctxAt (barging []) fun c => { c with pages := [{ pageOfWord 0x20000 0x30 0 with inf := 1 }] }
     c.pages.length = 2 ∧ ((one.ctx 0 1).pages.map fun p => (p.va, p.poisoned)) = [(0x20000, false)]) := by decide +kernel
theorem witness_BargeEvents_piece :
    let m := { copyCmd with st := .reading [] }
    let s₀ := { barging [m] with agenda := [.copy 0 1 0 1] }
    ∃ s, s₀.advance = (.copy 0 1 0 m.seq, s) ∧ ((s.ctx 0 1).chain 0).cmds.find? (fun x => x.seq == m.seq) = some m ∧ s.latent = [] ∧
      m.pieces[0]?.isSome = true :=
  ⟨_, rfl, by decide +kernel, by decide +kernel, by decide +kernel⟩

-- Pages -----------------------------------------------------------------------------------------------------------------------------------

/-- Context 1 with the page at 0x20000 changed, k1 and k2. -/
def paged (x y : Word) (f : Page → Page) : State :=
  ctxAt (kk x y) fun c => { c with pages := c.pages ++ [f (pageOfWord 0x20000 0x30 0)] }

theorem witness_PageInstructions :
    (∀ va ∈ [0x30000, (0x20000 : Nat)],
      let s := (paged 0x1000 0 id).write (cellsOf 0x1000 ([va, 0x30, 0, 0].flatMap (leBytes 8)))
      let p := pageOfWord va 0x30 0
      isCtl s.cur.kind = true ∧ s.recCheck kq 0x1000 32 = none ∧ s.words kq 0x1000 4 = [BitVec.ofNat 64 va, 0x30, 0, 0] ∧
      entryValid 0x30 = true ∧ va % p.size = 0 ∧ (s.mapCode 0 1 va p = 0 ↔ va = 0x30000)) ∧
    (let s := paged 0x2FFFF 0x10 id
     ((s.ctxOf kq).pageOf 0x2FFFF).any (fun p => !p.fw && (pageOfWord p.va 0x10 p.bus).sz == p.sz && (pageOfWord p.va 0x10 p.bus).tier == p.tier
       && (pageOfWord p.va 0x10 p.bus).peer == p.peer) = true) ∧
    (((kk 0x10000 0).ctxOf kq).pageOf 0x10000).any (·.fw) = true ∧ ((kk 0x30000 0).ctxOf kq).pageOf 0x30000 = none ∧
    ((kk (2 ^ 52) 0).getK kq 1).toNat ≥ 2 ^ 52 ∧
    (let c := (paged 0x20000 0x10000 id).ctxOf kq
     rangeOk 0x20000 0x10000 = true ∧ c.sealCode 0x20000 0x10000 = 0 ∧ c.sealCode 0x10000 0x10000 ≠ 0 ∧ rangeOk 0x20000 0x8000 = false ∧
     (paged 0 0 id).writersOf 0 1 0x20000 0x10000 = false ∧ (paged 0 0 id).fenceOpen kq 5 = false) ∧
    (let s := ctxAt (paged 0 0 id) fun c => c.setChain 0 { seq := 0, last := 1, cmds := [addCmd] }
     s.writersOf 0 1 0x20000 0x10000 = true) := by decide +kernel
theorem witness_PageInstructions_tlbinv :
    (∀ p ∈ [(0x10000, 0), (0x20000, 0), (0x20000, 1)],
      let s := paged (BitVec.ofNat 64 p.1) 0x10000 fun x => { x with inf := p.2 }
      let c := s.ctxOf kq
      let live := c.pages.filter fun x => x.touches p.1 0x10000
      (s.ctl kq).wait = false ∧ rangeOk p.1 0x10000 = true ∧ p.1 + 0x10000 ≤ 2 ^ 51 ∧
      (if p.1 = 0x10000 then ∃ x ∈ live, x.fw = true ∨ x.inside p.1 0x10000 = false
       else ∀ x ∈ live, x.fw = false ∧ x.inside p.1 0x10000 = true ∧ x.inf = p.2 ∧ x.poisoned = false ∧ x.retired = false) ∧
      live.length = 1 ∧ (c.pages.map Page.va).Nodup) ∧
    -- pages that another TLBINV has taken out count too
    (let s := paged 0x20000 0x10000 fun x => { x with gone := [{ unit := 1, kind := .k }], inf := 1 }
     ∃ x ∈ (s.ctxOf kq).pages.filter fun x => x.touches 0x20000 0x10000, x.inf > 0) := by decide +kernel

/-- The codes of PGMAP: HBM full, a PEER page without its page, and one with it on module 1; the codes of SEAL and UNSEAL: a range with a page
that is not there, a POISONED one, a firmware page; a range and an entry that are not well formed. -/
theorem witness_PageInstructions_codes :
    (let s := paged 0x1000 0 id
     let s := s.setHub 0 { s.hub 0 with spent := [(0, 576 * 2 ^ 30)] }
     s.tierUsed 0 0 + (pageOfWord 0x30000 0x30 0).size > 576 * 2 ^ 30) ∧
    (∀ ok ∈ [true, false],
      let s := paged 0x1000 0 id
      let s := if ok then (s.setHub 1 { s.hub 1 with power := .ready }).setCtx 1 1 { Ctx.init with st := .running, pages := [pageOfWord 0x40000 0x30 0] } else s
      let p := { pageOfWord 0x40000 0x30 0 with tier := 3, peer := 1 }
      p.tier = 3 ∧ (s.present p.peer && ((s.ctx p.peer 1).pageOf 0x40000).any (fun h => h.tier < 2)) = ok) ∧
    (∀ x ∈ [(0x20000, 0x20000, false), (0x10000, 0x10000, false), (0x20000, 0x10000, true), (0x20000, 0x10000, false)],
      let c := (paged 0 0 fun p => { p with poisoned := x.2.2 }).ctxOf kq
      rangeOk x.1 x.2.1 = true ∧
      (decide ((∃ p ∈ c.pages, p.touches x.1 x.2.1 = true ∧ (p.fw = true ∨ p.inside x.1 x.2.1 = false)) ∨
        ((c.pages.filter fun p => p.touches x.1 x.2.1 && p.inside x.1 x.2.1).map Page.size).sum ≠ x.2.1) = (x.2.1 != 0x10000 || x.1 != 0x20000)) ∧
      (decide (∃ p ∈ c.pages, p.touches x.1 x.2.1 = true ∧ (p.poisoned = true ∨ p.retired = true)) = x.2.2)) ∧
    ({ base with transit := [stored 1 4 kq] } : State).fenceOpen kq 5 = true ∧
    (0x30 : Word).toNat / 2 ^ 44 = 0 ∧ ((kk 0x7FFF0 0).recCheck kq 0x7FFF0 32).isSome = true ∧
    ((kk 0x10000 0).ctxOf kq).pages.any (·.covers 0x10000) = true ∧
    ((kk 0x10000 0).ctxOf kq).pages.any (·.covers 0x50000) = false := by decide +kernel
/-- The clauses of a TLBINV that waits: the page that it took out is still in flight, or is not; another of it that starts then. -/
theorem witness_PageInstructions_tlbwait :
    (∀ n ∈ [0, 1],
      let s := paged 0x20000 0x10000 fun x => { x with gone := [kq], inf := n }
      let s := s.setCtl kq { s.ctl kq with wait := true }
      let mine := (s.ctxOf kq).pages.filter fun p => p.gone.contains kq && p.inside 0x20000 0x10000
      ((s.ctxOf kq).pages.map Page.va).Nodup ∧ (s.ctl kq).wait = true ∧ mine.length = 1 ∧ ∀ p ∈ mine, p.inf = n ∧ p.poisoned = false) ∧
    rangeOk 0x20000 0x8000 = false ∧ (paged 0 0 id).tierUsed 0 0 ≤ 576 * 2 ^ 30 := by decide +kernel

/-- The host asks at an address of context 1's page, for so many bytes. -/
def asked (va n : Nat) (data : List Byte) (f : Page → Page) : State :=
  { paged 0 0 (fun p => f { p with hv := true }) with ev := { base.ev with md := 0, asid := 1, addr := va, val := n, j := 8, i := 2, data := data } }

theorem witness_HostPages :
    (∀ p ∈ [(0x2FFF8, true), (0x2FFF9, false)],
      let s := asked p.1 8 (List.replicate 8 1) id
      s.present 0 = true ∧ s.latent = [] ∧ (s.hostReach 0 1 p.1 8 true false).isSome = p.2 ∧ (s.hostReach 0 1 p.1 8 false true).isSome = p.2 ∧
      (s.hostReach 0 1 p.1 8 true true).isSome = p.2) ∧
    (let s := asked 0x2FFF8 8 (List.replicate 8 1) id
     ((s.hostReach 0 1 0x2FFF8 8 true true).any fun ps => ps.all fun x => !x.2.sealed && x.2.basin.isNone) = true ∧
     (∀ l ∈ linesIn 0x2FFF8 8, (s.home 0 1 l).any (fun x => !x.2.lineBad l) = true) ∧ s.ev.i < 3 ∧ 0x2FFF8 % s.ev.j = 0 ∧ s.ev.j = 8) ∧
    (let s := asked 0x2FFF8 8 (List.replicate 8 1) fun p => { p with sealed := true }
     (s.hostReach 0 1 0x2FFF8 8 false true).isSome = true ∧ (s.hostReach 0 1 0x2FFF8 8 true true).isSome = true ∧
     ∃ y ∈ s.ctxs, y.1 % 2048 = 1 ∧ ∃ p ∈ y.2.pages, p.sealed = true ∧ p.va < 0x2FFF8 + 8 ∧ 0x2FFF8 < p.va + p.size ∧ p.tier ≠ 3 ∧
       y.1 / 2048 = 0) ∧
    0 < 1 ∧ 2 ^ 16 ≤ 2 ^ 16 := by decide +kernel

end Sys2Proof.Tests
end

