-- ==== Sys2Proof/Tests/WitnessPod.lean ====
section
/-! SUPPORT. A concrete state and operands that meet the hypotheses of each statement: collectives, ports and time, basins, power. -/

set_option Elab.async false

namespace Sys2Proof.Tests

open Sys2Proof Sys2Proof.Machine

-- Collectives -------------------------------------------------------------------------------------------------------------------------------

/-- ALLRED SUM of one i32 over two ranks, the K of cores 0 and 1, at a rank; session 9, time-out 1 µs. -/
def sumDesc (rank : Nat) : List Word :=
  [BitVec.ofNat 64 (rank * 2 ^ 20 + 0x3000), BitVec.ofNat 64 (rank * 2 ^ 20 + 0x4000), 1 + 3 * 2 ^ 32, BitVec.ofNat 64 (9 + rank * 2 ^ 16 + 2 ^ 28), 0x5000, 1, 0, 0]

def coreK (u : Nat) : SeqId := { unit := u, kind := .k }

def sessionAt (rank st : Nat) (msg : Option Nat) : Session :=
  { q := coreK rank, asid := 1, inst := 4, desc := sumDesc rank, table := [0, 2 ^ 20], st := st, cause := 0, since := 0, out := [1, 2, 3, 4], flags := 0
    order := rank, msg := msg, bz := none, held := false }

/-- Core 0's K with its descriptor at 0x1000, the rank table at 0x5000, and sessions. -/
def joins (ss : List Session) (d : List Word) : State :=
  let s := (kkw 0x1000 0 0x1000 d).write (cellsOf 0x5000 ([0, 2 ^ 20].flatMap (leBytes 8)))
  { s with sessions := ss }

theorem witness_CollectiveInstructions :
    (∀ ss ∈ [[], [sessionAt 1 0 none]],
      let s := joins ss (sumDesc 0)
      let w := s.words kq 0x1000 8
      isCtl s.cur.kind = true ∧ s.recCheck kq 0x1000 64 = none ∧ w = sumDesc 0 ∧ s.cdOk kq w = true ∧
      s.recCheck kq (cdRtab w) (8 * cdNp w) = none ∧ (s.words kq (cdRtab w) (cdNp w)).map BitVec.toNat = [0, 2 ^ 20] ∧
      (∀ e ∈ [0, 2 ^ 20], s.rankOk kq e = true) ∧ (s.sessions.filter fun x => x.q == kq && x.asid == s.asidOf kq) = [] ∧
      (s.sessions.filter fun x => x.asid == s.asidOf kq && cdSid x.desc == cdSid w && x.msg.isNone) = ss ∧ (∀ x ∈ ss, x.st = 0) ∧
      (s.aborted.filter fun z => z.asid == s.asidOf kq && z.sid == cdSid w && z.ranks.contains kq) = [] ∧
      (∀ x ∈ ss, cdShape x.desc = cdShape w ∧ x.table = [0, 2 ^ 20] ∧ cdRank x.desc ≠ cdRank w) ∧ rankSeq 0 = kq ∧ cdBz w = none) ∧
    (let s := joins [] ((sumDesc 0).set 3 (9 + 2 ^ 16 + 2 ^ 28))
     let w := s.words kq 0x1000 8
     s.cdOk kq w = true ∧ rankSeq ([0, 2 ^ 20].getD (cdRank w) 0) ≠ kq) ∧
    (let s := joins [] ((sumDesc 0).set 6 1)
     s.cdOk kq (s.words kq 0x1000 8) = false) ∧
    base.rankOk kq 2 = false ∧
    (∀ st ∈ [0, 1, 2, 3],
      let s : State := { kk 9 0 with sessions := [sessionAt 0 st none] }
      (s.getK kq 1).toNat < 2 ^ 16 ∧ s.session kq 1 9 = some (sessionAt 0 st none)) ∧
    base.session kq 1 9 = none := by decide +kernel

/-- A descriptor that is well formed, word by word, and one that is not; a descriptor and a rank table that cannot be read. -/
theorem witness_CollectiveInstructions_good :
    (let w := sumDesc 0
     let n (i : Nat) : Nat := (w.getD i 0).toNat
     n 2 / 2 ^ 49 = 0 ∧ field (n 3) 40 24 = 0 ∧ n 5 / 2 ^ 32 = 0 ∧ n 6 = 0 ∧ n 7 = 0 ∧ cdCount w = 1 ∧ cdRank w < cdNp w ∧ cdBz w = none ∧
     cdRtab w % 8 = 0 ∧ fmtOfCode (cdF w 32 6) = some .i32 ∧ cdSrc w % 4 = 0 ∧ cdDst w % 4 = 0 ∧ cdOp w = 0 ∧ cdRed w ≠ 3 ∧
     unitBase 0 ≤ cdSrc w ∧ cdSrc w + cdSrcLen w ≤ unitBase 0 + 0x80000 ∧ unitBase 0 ≤ cdDst w ∧ cdDst w + cdDstLen w ≤ unitBase 0 + 0x80000 ∧
     Range.meets ((cdSrc w : Int), cdSrcLen w) ((cdDst w : Int), cdDstLen w) = false) ∧
    (((sumDesc 0).set 6 1).getD 6 0).toNat ≠ 0 ∧ ((kk 0x7FFF0 0).recCheck kq 0x7FFF0 64).isSome = true ∧
    (let w := (sumDesc 0).set 4 0x7FFF8
     cdRtab w % 8 = 0 ∧ ((joins [] w).recCheck kq (cdRtab w) (8 * cdNp w)).isSome = true) := by decide +kernel
/-- Nine of them open, one under the same number, one that disagrees, one whose rank names another sequencer, and an abort that awaits it. -/
theorem witness_CollectiveInstructions_open :
    (let mine (ss : List Session) : List Session := ss.filter fun x => x.q == kq && x.asid == 1
     (mine ((List.range 8).map fun i => sessionAt 0 i none)).length ≥ 8 ∧ (∃ x ∈ mine [sessionAt 0 3 none], cdSid x.desc = cdSid (sumDesc 0))) ∧
    (let x := { sessionAt 1 0 none with desc := (sumDesc 1).set 2 (2 + 3 * 2 ^ 32) }
     x.st = 0 ∧ x.msg.isNone = true ∧ cdSid x.desc = cdSid (sumDesc 0) ∧ cdShape x.desc ≠ cdShape (sumDesc 0)) ∧
    rankSeq ([0, 2 ^ 20].getD 1 0) ≠ kq ∧
    (let x := { sessionAt 2 1 none with table := [2 ^ 21, 3 * 2 ^ 20] }
     x.st = 1 ∧ x.msg.isNone = true ∧ cdSid x.desc = cdSid (sumDesc 0) ∧ x.names kq = false) ∧
    (let s := { joins [] (sumDesc 0) with aborted := [{ asid := 1, sid := 9, inst := 4, cause := 3, ranks := [kq], bz := none }] }
     (s.aborted.filter fun z => z.asid == s.asidOf kq && z.sid == cdSid (sumDesc 0) && z.ranks.contains kq).length = 1) := by decide +kernel

/-- Both participants there, sources and destinations ENGINE, at a time, core 0's to move. -/
def both (st clock : Nat) (msg : Option Nat) : State :=
  { base with sessions := [sessionAt 0 st msg, sessionAt 1 st none], clock := clock, engine := [(3, true), (4, true), (0x103, true), (0x104, true)]
              ev := { base.ev with asid := 1, i := 9, q := kq } }

theorem witness_CollectiveSessions :
    (let s := both 0 0 none
     (s.sessions.filter (fun x => x.asid == s.ev.asid && cdSid x.desc == s.ev.i && x.st == 0)) = sessionAt 0 0 none :: [sessionAt 1 0 none] ∧
     (let ps := rankOrder (s.peers 4)
      ps.length = cdNp (sumDesc 0) ∧ (∀ y ∈ ps, y.st = 0 ∧ y.msg = none ∧ y.held = false ∧ s.runs y = true ∧ s.allEngine y.claim.rd = true ∧
        s.clear { y.claim with wr := [] } = true ∧ s.present (modOf (cdSrc y.desc / 2 ^ 20)) = true ∧
        s.reachable (modOf y.q.unit) (modOf (cdSrc y.desc / 2 ^ 20)) = true) ∧ s.latent = [] ∧ s.bad = [] ∧
      (s.readSources ps).2.isSome = true)) ∧
    (let s := both 1 0 none
     s.session kq 1 9 = some (sessionAt 0 1 none) ∧ s.runs (sessionAt 0 1 none) = true ∧ s.allEngine [((cdDst (sumDesc 0) : Int), cdDstLen (sumDesc 0))] = true ∧
     s.clear { (sessionAt 0 1 none).claim with rd := [] } = true) ∧
    (let s := both 0 1000 none
     s.session kq 1 9 = some (sessionAt 0 0 none) ∧ cdTmo (sumDesc 0) ≠ 0 ∧ s.clock ≥ 0 + cdTmo (sumDesc 0) * 1000 ∧ cdBz (sumDesc 0) = none ∧
     ∀ y ∈ s.peers 4, s.runs y = true) ∧
    (let s := both 1 0 (some 3)
     s.session kq 1 9 = some (sessionAt 0 1 (some 3)) ∧ (3 : Nat) ≠ 1) ∧ (2 ^ 32 - 1 : Nat) < 2 ^ 32 ∧
    (let s := both 0 0 none
     let s := { s with sessions := [sessionAt 0 0 none] }
     (rankOrder (s.peers 4)).length ≠ cdNp (sumDesc 0)) ∧
    (let s := both 1 0 (some 1)
     s.session kq 1 9 = some (sessionAt 0 1 (some 1))) ∧
    (let s := ctxAt (both 1 999 none) fun c => { c with st := .saved }
     s.runs (sessionAt 0 1 none) = false ∧ s.clock < 0 + cdTmo (sumDesc 0) * 1000 ∧ ∃ y ∈ s.peers 4, s.runs y = false) := by decide +kernel

-- Ports and time -----------------------------------------------------------------------------------------------------------------------------

/-- A port of module 0 in a state, training since 0, at a time; the event's lane and width. -/
def ported (st clock lane width : Nat) (l0 l1 : Bool) : State :=
  let s : State := { kk 0 0 with clock := clock, ev := { base.ev with md := 0, i := 95, j := lane, val := width } }
  s.setPort 0 95 { Port.init with st := st, l0 := l0, l1 := l1, pmod := 1, pport := 3 }

theorem witness_PortsAndTime :
    (∀ n ∈ [0, 95, 96, 0x100, 0x200, 0x4FF, 0x500], ((kk (BitVec.ofNat 64 n) 0).getK kq 1).toNat = n) ∧ isCtl base.cur.kind = true ∧
    ((ported 2 0 0 0 true true).port 0 95).up = true ∧ ((ported 1 (10 ^ 8) 1 1 false false).port 0 95).st = 1 ∧
    (ported 1 (10 ^ 8) 1 1 false false).clock ≤ 0 + 10 ^ 8 ∧ (ported 1 (10 ^ 8) 1 1 false false).clock ≥ 0 + 10 ^ 8 ∧
    ((ported 2 0 1 0 true true).port 0 95).l1 = true ∧ ((ported 3 0 0 0 true false).port 0 95).l0 = true ∧
    ((ported 3 0 0 0 true false).port 0 95).st = 3 := by decide +kernel
theorem witness_PortsAndTime_clock :
    base.present 0 = true ∧ (0 = (base.hub 0).master) ∧ base.devTime 0 + 10 ^ 6 ≤ 10 ^ 6 ∧ 10 ^ 6 - 1 < base.devTime 0 + 10 ^ 6 ∧
    (2 ^ 64 - 1 : Nat) < 2 ^ 64 ∧ base.modules = [0] ∧ base.reachable 0 0 = true := by decide +kernel

/-- Modules 0 and 1 READY and linked, context 1 on both with a deep-tier page of 2 MiB at 0x200000. -/
def pod2 (s : State) : State :=
  let s := s.setHub 1 { Hub.init with power := .ready }
  let s := (s.setPort 0 0 { Port.init with st := 2, pmod := 1 }).setPort 1 0 { Port.init with st := 2, pmod := 0 }
  let s := ctxAt s fun c => { c with pages := c.pages ++ [pageOfWord 0x200000 0x35 0] }
  s.setCtx 1 1 { Ctx.init with st := .running, pages := [pageOfWord 0x200000 0x35 0] }

/-- A module that follows module 0, which it reaches and which has its host's time, or has lost it; and one that follows nobody it reaches. -/
theorem witness_PortsAndTime_follow :
    (let s := pod2 base
     s.present 0 = true ∧ (1 : Nat) ≠ (s.hub 1).master ∧ s.present (s.hub 1).master = true ∧ s.reachable 1 (s.hub 1).master = true ∧
     1 ∈ s.modules ∧ (s.hub 1).master = 0 ∧ 5 ∉ s.modules ∧
     s.devTime 0 + 10 ^ 6 ≤ 10 ^ 6 ∧ s.devTime 1 ≤ s.devTime 0 ∧ 10 ^ 6 - 1 < s.devTime 1 + 10 ^ 6) ∧
    (let s := base.setHub 0 { base.hub 0 with master := 1023 }
     (0 : Nat) ≠ (s.hub 0).master ∧ s.present 1023 = false ∧ s.reachable 0 0 = true ∧ s.modules = [0]) ∧
    ({ base.ev with j := 1 } : EvArgs).j = 1 ∧ base.ev.j ≠ 1 ∧ base.present 1 = false := by decide +kernel

-- Basins -------------------------------------------------------------------------------------------------------------------------------------

/-- The record of group 7 on basins 0 and 2: one block, f32, one rule word (VADD of registers 1 and 2 into 8). -/
def groupRec : List Word :=
  [BitVec.ofNat 64 (7 + 2 * 2 ^ 31), BitVec.ofNat 64 (1 + 5 * 2 ^ 32), 0x200000, 0x210000, 0x220000, BitVec.ofNat 64 (3 * 2 ^ 32), BitVec.ofNat 64 (2 ^ 32), 0]
    ++ List.replicate 8 0 ++ [BitVec.ofNat 64 (encode (.vadd { xz with d := 8, a := 1, b := 2 })).1.toNat] ++ List.replicate 31 0

/-- Group 7 at step 5. -/
def someGroup : PGroup :=
  { asid := 1, words := groupRec, st := 1, prim := 0, buddy := some 2, hyp := [], hypNext := none, cur := 5, last := 0, now := [], next := [], first := some 0
    abandoned := false, decided := none, job := none, acked := true, counts := [], flg := 0, spare := [], subs := [], sx := none }

/-- That pod with group 7; core 0's K, or QU of quad 0, moves, with k1 and k2. -/
def grouped (g : PGroup) (q : SeqId) (x y : Word) : State :=
  let s := { (pod2 base).setPg g with cur := q, ev := { base.ev with asid := 1, i := 7, md := 0 } }
  (s.setK q 1 x).setK q 2 y

def quq : SeqId := { unit := 4, kind := .qu }

theorem witness_BasinPush :
    someGroup.st ≠ 5 ∧ 4 < someGroup.cur ∧ 7 ≥ someGroup.cur + 2 ∧ someGroup.abandoned = false ∧ grNblk someGroup.words = 1 ∧
    someGroup.now.lookup 0 = none ∧ (pod2 base).basinLoad 0 < 256 ∧ ({ nc := 1, got := [] } : Blk).ready ≥ 0 ∧
    (let c : Contrib := { ci := 1, nf := false, pay := [] }
     (∃ y ∈ [c], y.ci = 1) ∧ (∀ y ∈ [c], y.ci ≠ 0) ∧
     (let s := (pod2 base).setPg { someGroup with now := [(0, { nc := 2000, got := (span 1 256).map fun i => { c with ci := i } })] }
      s.basinLoad 0 ≥ 256)) := by decide +kernel
theorem witness_BasinInstructions_push :
    (let s := (grouped someGroup kq 0x1000 0).write (cellsOf 0x1000 ([7, 5, 0, 0x8000].flatMap (leBytes 8)))
     let w := s.words kq 0x1000 4
     isCtl s.cur.kind = true ∧ s.recCheck kq 0x1000 32 = none ∧ w = [7, 5, 0, 0x8000] ∧ grF w 0 21 43 = 0 ∧ grF w 1 52 12 = 0 ∧ grF w 2 24 40 = 0 ∧
     grF w 2 0 12 ≤ grF w 2 12 12 ∧ grPgid w ≠ 0 ∧ s.pg 1 7 = some someGroup ∧ s.present someGroup.md = true ∧ s.reachable (modOf 0) someGroup.md = true ∧
     s.payCheck kq 0x8000 blockLen ((grGf someGroup.words).width / 8) = none ∧ s.linked someGroup.md (2 / 2) = true ∧
     grSkip groupRec = false) ∧
    base.pg 1 7 = none ∧ grPgid [0, 5, 0, 0x8000] = 0 ∧
    (let s := grouped { someGroup with buddy := some 4 } kq 0x1000 0
     s.linked 0 (4 / 2) = false ∧ s.present 0 = true ∧ s.reachable 0 0 = true) ∧
    -- the primary has lost power, and the buddy
    (∀ b ∈ [0, 2],
      let g := { someGroup with lost := some b }
      (g.lost = some g.prim ↔ b = 0) ∧ g.lost ≠ none ∧ g.buddy = some 2) := by decide +kernel
/-- Every element of a payload at 0x8000 can be read where core 0 is there, with nothing ENGINE and nothing wrong. -/
theorem payload_reads (s : State) (ha : s.absent kq 0 = false) (he : s.engine = []) (hl : s.latent = []) (hb : s.bad = []) :
    ∀ i < blockLen, s.readCheck kq (0x8000 + 4 * i) 4 4 = none := by
  intro i hi
  have hn : blockLen = 8192 := rfl
  have hu : (0x8000 + 4 * i) / 2 ^ 20 = 0 := by omega
  have hc : s.cause14 kq (0x8000 + 4 * i) = none := by
    rw [State.cause14, if_neg (by omega)]
    simp only [hu]
    rw [if_neg (by omega), if_neg (by omega), if_neg (by simp [ha])]
  have h5 : s.cause15 kq (0x8000 + 4 * i) 4 = none := by
    rw [State.cause15, hc]
    simp only
    rw [if_neg (by omega)]
  simp [State.readCheck, h5, State.anyEngine, State.errIn, he, hl, hb, sget]
theorem witness_BasinInstructions_payload : ∀ i < blockLen, (grouped someGroup kq 0x1000 0).readCheck kq (0x8000 + 4 * i) 4 4 = none :=
  payload_reads _ (by decide +kernel) (by decide +kernel) (by decide +kernel) (by decide +kernel)
theorem witness_BasinInstructions_close :
    (∀ p ∈ [(1, 5, 1), (1, 5, 0), (1, 4, 1), (2, 5, 1), (5, 5, 1)],
      let g := { someGroup with st := p.1, now := if p.2.2 = 0 then [(0, { nc := 1, got := [{ ci := 0, nf := false, pay := [] }] })] else [] }
      let s := grouped g quq 7 (BitVec.ofNat 64 p.2.1)
      s.cur.kind = .qu ∧ (s.getK quq 1).toNat = 7 ∧ (s.getK quq 2).toNat = p.2.1 ∧ s.pg 1 7 = some g ∧ s.present g.md = true ∧
      s.reachable (modOf 4) g.md = true ∧ g.missing = p.2.2 ∧ grSkip g.words = false) ∧
    ((grouped someGroup quq (2 ^ 20) 0).getK quq 1).toNat ≥ 2 ^ 20 := by decide +kernel

def someSub : Sub := { q := kq, ofmt := 0, b0 := 0, nb := 1, dst := 0x8000, stw := 0x100, due := none, lag := 0, wait := none }

theorem witness_BasinInstructions_sub :
    (∀ subs ∈ [[], [(64, someSub)]],
      let g := { someGroup with subs := subs }
      let s := grouped g kq 7 64
      isCtl s.cur.kind = true ∧ (s.ctl kq).wait = false ∧ (s.getK kq 2).toNat = 64 ∧ s.pg 1 7 = some g ∧ s.present g.md = true ∧
      s.reachable (modOf 0) g.md = true ∧ g.st ≠ 5 ∧ g.subs.lookup 64 = (if subs = [] then none else some someSub)) ∧
    someSub.wait = none ∧
    (let s := (grouped someGroup kq 0x1000 0).write (cellsOf 0x1000 ([7, 2 ^ 20, 0x8000, 0x100].flatMap (leBytes 8)))
     let w := s.words kq 0x1000 4
     (s.getK kq 2).toNat = 0 ∧ s.recCheck kq 0x1000 32 = none ∧ w = [7, 0x100000, 0x8000, 0x100] ∧ fmtOfCode (grF w 0 20 6) = some .f32 ∧
     grF w 0 26 38 = 0 ∧ grF w 1 40 24 = 0 ∧ grF w 1 20 20 = 1 ∧ grF w 1 0 20 + 1 ≤ grNblk someGroup.words ∧
     s.payCheck kq 0x8000 (1 * blockLen) (Fmt.f32.width / 8) = none ∧ s.cause15 kq 0x100 8 = none ∧ s.pg 1 (grF w 0 0 20) = some someGroup ∧
     (span 1 64).find? (fun i => (someGroup.subs.lookup i).isNone) = some 1) := by decide +kernel
theorem witness_BasinInstructions_rule :
    (∀ y ∈ [0, 1, 2, 3],
      let s := (grouped someGroup quq 0x400000 (BitVec.ofNat 64 y)).write (cellsOf 0x400000 (groupRec.flatMap (leBytes 8 ∘ BitVec.toNat)))
      s.cur.kind = .qu ∧ (s.getK quq 2).toNat = y ∧ s.recCheck quq 0x400000 384 = none ∧ s.pg 1 7 = some someGroup) ∧
    ((grouped someGroup quq 7 1).getK quq 1).toNat < 2 ^ 20 ∧ grOk groupRec = true ∧ grOk (groupRec.set 0 0) = false ∧ grPgid groupRec = 7 ∧
    (pod2 base).registerCode quq groupRec = 0 ∧ (grouped someGroup quq 0 0).registerCode quq groupRec = 1 ∧
    grGid groupRec < 2 ^ ((pod2 base).ctxOf quq).gtsz ∧
    grOk (groupRec.set 5 (BitVec.ofNat 64 (2 ^ 20 - 1 + 3 * 2 ^ 32))) = true ∧
    grGid (groupRec.set 5 (BitVec.ofNat 64 (2 ^ 20 - 1 + 3 * 2 ^ 32))) ≥ 2 ^ ((pod2 base).ctxOf quq).gtsz := by decide +kernel
/-- The codes of a registration: a basin that is not there, one that holds 4096 groups, a page too few, a FREE gauge record, a step set at another
step. -/
theorem witness_BasinInstructions_codes :
    (base.pg 1 7 = none ∧ grBuddy groupRec / 2 = 1 ∧ base.present 1 = false) ∧
    (let s := pod2 base
     let far (n : Nat) : Bool := !(s.present n && s.reachable 0 n)
     far (grPrim groupRec / 2) = false ∧ far (grBuddy groupRec / 2) = false ∧ s.basinHolds (grPrim groupRec) < 4096 ∧
     s.basinHolds (grBuddy groupRec) < 4096 ∧ s.stateUnfit groupRec 1 0 = false ∧ s.stateUnfit groupRec 1 1 = false ∧ grGid groupRec = 0 ∧
     s.stepSet 1 (grSsid groupRec) = [] ∧ s.stateUnfit (groupRec.set 2 0x400000) 1 0 = true) ∧
    (let w := groupRec.set 5 (BitVec.ofNat 64 (3 + 3 * 2 ^ 32))
     grGid w = 3 ∧ (((pod2 base).ctx (grPrim w / 2) 1).gauge (grGid w)).st ≠ 1) ∧
    (let g := { someGroup with words := groupRec.set 0 (BitVec.ofNat 64 (8 + 2 * 2 ^ 31)), cur := 4 }
     let s := (pod2 base).setPg g
     s.pg 1 7 = none ∧ ∃ z ∈ s.stepSet 1 (grSsid groupRec), z.cur ≠ grStep0 groupRec) := by decide +kernel
theorem witness_BasinInstructions_full :
    let s : State := { pod2 base with basin := (List.range 4096).map fun n => (pgKey 1 (n + 8), someGroup) }
    s.basinHolds (grPrim groupRec) ≥ 4096 ∧ s.pg 1 7 = none := by
  have hp : grPrim groupRec = 0 := by decide +kernel
  have hl : ∀ l : List Nat, (l.map fun n => (pgKey 1 (n + 8), someGroup)).lookup (pgKey 1 7) = none := by
    intro l
    simp only [List.lookup_eq_none_iff, List.mem_map]
    rintro _ ⟨n, -, rfl⟩
    simp [pgKey]
    omega
  refine ⟨?_, ?_⟩
  · rw [State.basinHolds, hp, List.filter_eq_self.mpr (by simp [someGroup]), List.length_map, List.length_range]
  · rw [State.pg, if_pos (by decide), hl]
theorem witness_BasinInstructions_waits :
    (let s := grouped someGroup kq 7 65
     (s.ctl kq).wait = false ∧ (s.getK kq 2).toNat > 64 ∧ ((s.setCtl kq { s.ctl kq with wait := true }).ctl kq).wait = true) ∧
    (let g := { someGroup with subs := (span 1 64).map fun i => (i, someSub) }
     ∀ i ∈ span 1 64, (g.subs.lookup i).isSome = true) ∧
    ((grouped someGroup quq 0 3).getK quq 2).toNat ≥ 3 := by decide +kernel
theorem witness_BasinInstructions_stat :
    (∀ y ∈ [9, 10], ((grouped someGroup kq 7 (BitVec.ofNat 64 y)).getK kq 2).toNat = y) ∧
    (let g := { someGroup with prim := 6 }
     let s := grouped g kq 7 9
     s.pg 1 7 = some g ∧ ¬(s.present g.md = true ∧ s.reachable (modOf 0) g.md = true)) := by decide +kernel
theorem witness_BasinEvents :
    (let s : State := { grouped someGroup kq 0 0 with clock := 3000 }
     s.pg s.ev.asid s.ev.i = some someGroup ∧ someGroup.first = some 0 ∧ grTmo someGroup.words = 3 ∧ s.clock ≥ 0 + 1000 * 3 ∧
     s.present someGroup.md = true ∧ someGroup.st = 1 ∧ ({ someGroup with st := 2 } : PGroup).st = 2 ∧ ({ someGroup with first := none } : PGroup).first = none) ∧
    (let s := grouped someGroup kq 0 0
     someGroup.buddy = some 2 ∧ s.linked someGroup.md (2 / 2) = true ∧ s.linked (2 / 2) someGroup.md = true ∧ someGroup.acked = true ∧
     someGroup.job = none ∧ someGroup.decided = none ∧ s.present (2 / 2) = true ∧ s.ev.val ≠ 1 ∧
     ({ s with ev := { s.ev with val := 1 } } : State).ev.val = 1) := by decide +kernel

/-- The step before the last published one, as a delivery carries it. -/
def somePub : Publication := { step := 4, out := 1, sx := none, w := [] }

/-- Two groups of a step set that are READY together, one with a full block; the buddy out of reach; a block to commit; a quad that is not the
context's. -/
theorem witness_BasinEvents_set :
    (let a := { someGroup with st := 3, now := [(0, { nc := 1, got := [{ ci := 0, nf := true, pay := [] }] })] }
     let b := { someGroup with st := 3, words := groupRec.set 0 (BitVec.ofNat 64 (8 + 2 * 2 ^ 31)) }
     let s := ((pod2 base).setPg a).setPg b
     s.stepSet 1 0 = [a, b] ∧ a.cur = b.cur ∧ s.present a.md = true ∧ s.reachable a.md b.md = true ∧ ∃ y ∈ a.now, y.2.full = true) ∧
    (let g := { someGroup with buddy := some 4 }
     let s := grouped g kq 0 0
     g.job = none ∧ s.linked g.md (4 / 2) = false ∧ s.present g.md = true) ∧
    (let s := (grouped someGroup kq 0 0).setHub 0 Hub.init
     s.present (2 / 2) = true ∧ s.linked (2 / 2) someGroup.md = false) ∧
    (let g := { someGroup with st := 4, decided := some 1 }
     g.acked = true ∧ grNblk g.words = 1) ∧
    (grouped someGroup kq 0 0).holdsUnit 1 (0x8000 / 2 ^ 20) = true ∧ (grouped someGroup kq 0 0).holdsUnit 1 8 = false ∧
    ({ someGroup with words := groupRec.set 5 0 } : PGroup).words ≠ [] ∧ grTmo (groupRec.set 5 0) = 0 := by decide +kernel
/-- A block whose last line of state is bad, of a group with no buddy, cannot be committed. -/
theorem witness_BasinEvents_halt :
    let g := { someGroup with st := 4, decided := some 1, buddy := none }
    let s := ctxAt (pod2 base) fun c => { c with pages := c.pages.map fun p => if p.va = 0x200000 then { p with bad := [0x227FC0] } else p }
    (s.commitBlock g 0).2 = (g, false) := by
  intro g s
  have h : (s.readBlock g.md g 0).2.2 = true := by decide +kernel
  simp [State.commitBlock, h, show g.buddy = none from rfl]

theorem witness_BasinEvents_more :
    (∀ out ∈ [1, 2],
      let g := { someGroup with acked := false, job := some { step := 5, out := out, hyp := [], blks := [] } }
      let s := grouped g kq 0 0
      s.pg s.ev.asid s.ev.i = some g ∧ g.buddy = some 2 ∧ (g.job.map MirrorJob.out) = some out ∧ s.linked g.md (2 / 2) = true) ∧
    (let g := { someGroup with acked := false }
     let s := grouped g kq 0 0
     s.pg s.ev.asid s.ev.i = some g ∧ g.acked = false ∧ g.job = none ∧ g.decided = none ∧ s.linked g.md (2 / 2) = true) ∧
    (let x := { someSub with due := some somePub, wait := some 3 }
     let g := { someGroup with subs := [(64, x)] }
     let s := grouped g kq 0 0
     let s := { s with ev := { s.ev with j := 64 }, engine := (span 8 8).map fun n => (n, true) }
     s.pg s.ev.asid s.ev.i = some g ∧ g.subs.lookup s.ev.j = some x ∧ x.due = some somePub ∧ x.wait = some 3 ∧ isCtl x.q.kind = true ∧
     s.linked g.md (modOf x.q.unit) = true ∧ s.allEngine [((x.dst : Int), x.len)] = true ∧ s.latent = [] ∧ s.bad = []) ∧
    (∀ st ∈ [1, 3],
      let g := { someGroup with st := st, acked := false }
      let s := (pod2 base).setPg g
      s.stepSet 1 0 = [g] ∧ g.st = st ∧ s.present g.md = true ∧ g.acked = false) ∧
    (let g := { someGroup with st := 4, decided := some 2 }
     g.decided = some 2 ∧ (2 : Nat) ≠ 1 ∧ g.acked = true ∧ grGid g.words = 0) := by decide +kernel
/-- A group whose buddy acts for its failed primary, or whose buddy has lost power, at the end of a step. -/
theorem witness_BasinEvents_takeover :
    (let g := { someGroup with st := 4, decided := some 2, buddy := none, prim := 2, takeover := some 0 }
     g.decided = some 2 ∧ g.acked = true ∧ grGid g.words = 0 ∧ g.takeover = some 0) ∧
    (let g := { someGroup with lost := some 0 }
     let s := grouped g kq 0 0
     s.pg s.ev.asid s.ev.i = some g ∧ s.present (2 / 2) = true ∧ g.lost ≠ some 2 ∧ g.lost ≠ none ∧ g.job = none) ∧
    (let g := { someGroup with lost := some 2 }
     (grouped g kq 0 0).present g.md = true ∧ g.lost ≠ some g.prim ∧ g.lost ≠ none) := by decide +kernel

-- Power, heat, the mailbox --------------------------------------------------------------------------------------------------------------------

/-- Module 0's hub changed, an event about module 0. -/
def hubbed (i j val clock : Nat) (f : Hub → Hub) : State :=
  { base.setHub 0 (f (base.hub 0)) with clock := clock, ev := { base.ev with md := 0, i := i, j := j, val := val } }

theorem witness_PowerAndStart :
    ((State.reset.hub 0).power = .off ∧ (base.hub 0).power ≠ .off) ∧
    (∀ p ∈ [Power.waitfw, .repair, .links], ((hubbed 3 0 0 0 fun h => { h with power := p }).hub 0).power = p) ∧
    ((hubbed 0 64 0 0 id).ev.i = 0 ∧ (hubbed 0 64 0 0 id).ev.j ≤ 64) ∧
    (let s := hubbed 0 0 0 0 fun h => { h with power := .links, ports := [(3, { Port.init with st := 1 })] }
     (s.hub 0).power = .links ∧ ∃ x ∈ (s.hub 0).ports, x.2.st = 1) ∧
    (∀ p ∈ [(1, 10 ^ 10, true), (0, 10 ^ 10 - 1, true), (0, 0, false)],
      let s := hubbed 0 0 p.1 p.2.1 fun h => { h with hot := p.2.2, hotSince := 0 }
      s.present 0 = true ∧ (s.hub 0).dark = false ∧ s.ev.val = p.1 ∧ (s.hub 0).hot = p.2.2 ∧
      (s.clock ≥ (s.hub 0).hotSince + 10 ^ 10 ↔ p.2.1 = 10 ^ 10)) ∧
    (∀ u ∈ [3, 11],
      let s := hubbed u 0 0 0 id
      s.present (modOf u) = true ∧ u % 8 < 4 ∧ qnOf u ∉ (s.hub 0).broken ∧ ((s.quad (quadOf u)).grp = 0 ↔ u = 11) ∧ (s.ctx 0 1).st = .running) ∧
    (∀ p ∈ [Power.failed, .ready], ((hubbed 3 0 0 0 fun h => { h with power := p }).hub 0).power = p ∧
      (base.hub 0).dark = false) ∧
    (let s := hubbed 3 0 0 0 fun h => { h with broken := [3] }
     3 ∈ (s.hub 0).broken) ∧
    ((ctxAt (hubbed 3 0 0 0 id) fun c => { c with st := .dead }).ctx 0 1).st.killable = false ∧ (base.ctx 0 1).st.killable = true ∧
    (∀ c ∈ [1, 2, 3, 4], ∀ st ∈ [0, 3, 4],
      let s := ((hubbed 0 0 0 0 fun h => { h with mbcmd := some c, mbopnd := 95 }).setPort 0 95 { Port.init with st := st })
      (s.hub 0).mbcmd = some c ∧ (s.hub 0).mbopnd = 95 ∧ (s.port 0 95).st = st) := by decide +kernel

/-- The turns that end VERIFY and read STSTAT: an image that verifies as its signatures say, and one that fails. -/
theorem witness_PowerAndStart_turns :
    (∀ t ∈ [Turn.verify 0, .hostRead 0 0x218],
      let s₀ := { hubbed 0 0 0 0 (fun h => { h with power := .verify, fwimg := (0x1000, 8256) }) with agenda := [t] }
      ∃ s, s₀.advance = (t, s) ∧ (s.hub 0).power = .verify) ∧
    (∀ o, (signBad Config.romKeys (imageParts o).1 (imageParts o).2 1 0 = none → imageBad o = none) ∧
      (signBad Config.romKeys (imageParts o).1 (imageParts o).2 1 0 = some (1, 0) → imageBad o = some 1)) := by
  refine ⟨fun t ht => ?_, fun o => ⟨fun h => by simp [imageBad, h], fun h => by simp [imageBad, h]⟩⟩
  simp only [List.mem_cons, List.not_mem_nil, or_false] at ht
  rcases ht with rfl | rfl <;> exact ⟨_, rfl, by decide +kernel⟩

/-- The time master that the pod configuration names is in state LINKS with no port in training. -/
def linking : State :=
  let m := Config.timeMaster
  { State.reset.setHub m { Hub.init with power := .links } with ev := { State.reset.ev with md := m } }

theorem witness_PowerAndStart_links :
    linking.ev.md = Config.timeMaster ∧ (linking.hub linking.ev.md).power = .links ∧ (linking.hub linking.ev.md).ports = [] ∧ linking.basin = [] ∧
    (linking.hub linking.ev.md).evheld = [] ∧ (linking.hub linking.ev.md).dropped = 0 := by
  simp [linking, State.hub, State.setHub, State.reset, sget, sset, Hub.init]

/-- Module 1 in LINKS, with module 0 READY across its port, whose time it takes. -/
theorem witness_PowerAndStart_follows :
    (let s := (pod2 base).setHub 1 { Hub.init with power := .links, ports := [(0, { Port.init with st := 2, pmod := 0 })] }
     (s.hub 1).power = .links ∧ (∀ x ∈ (s.hub 1).ports, x.2.st ≠ 1) ∧ (s.hub 1).evheld = [] ∧ (s.hub 1).dropped = 0 ∧
     s.modules.find? (fun n => n != 1 && s.reachable 1 n) = some 0 ∧ (s.hub 0).master = 0 ∧
     (let up := (s.setHub 1 { s.hub 1 with power := .ready, master := 0 }).setHostQ 1 0 { HostQ.init with st := 1 }
      up.present 0 = true ∧ up.reachable 1 0 = true)) := by decide +kernel

end Sys2Proof.Tests
end

