-- ==== Sys2Proof/Tests/WitnessStream.lean ====
section
/-! SUPPORT. A concrete state and operands that meet the hypotheses of each statement: the streams L and S. -/

set_option Elab.async false

namespace Sys2Proof.Tests

open Sys2Proof Sys2Proof.Machine

def lq0 : SeqId := { unit := 0, kind := .l }
def sq0 : SeqId := { unit := 0, kind := .s }

/-- An f32 array of 16 by 16 in windows of 4 rows of 16, by its base; one with BCK. -/
def gridDesc (base : Nat) (bck : Nat) : List Word :=
  [BitVec.ofNat 64 base, 16 + 16 * 2 ^ 32, 1 + 2 ^ 32, 16 + 2 ^ 32, 0, BitVec.ofNat 64 (2 ^ 42 + 2 ^ 46 + 4 * 2 ^ 48 + bck * 2 ^ 52), 0, 0]

/-- L or S of core 0 with a[2], a[3], a[4], a[5] and descriptors 0 (in the scratchpad), 1 (past its end), 2 (with BCK) and 3 (rank 1). -/
def strm (kd : SeqKind) (a2 a4 : Word) (f : Core → Core) : State :=
  let s := on kd fun c => f { c with la := [(2, a2), (4, a4)], sa := [(2, a2), (4, a4)] }
  s.setGroup 1 { s.group 1 with ndesc := 4, desc := [(0, gridDesc 0x3000 0), (1, gridDesc 0x80000 0), (2, gridDesc 0x3000 1), (3, f32Desc)] }

def anEntry (id : Nat) (present : Bool) : LEntry :=
  { id := id, pc := 0, present := present, val := 0, map := .nil, width := 32, plan := List.replicate 64 (some 0x3000), fill := 0
    got := [], pa := none }

theorem witness_Loads :
    (∀ n ∈ [31, 32],
      let s := strm .l 0 0x1000 fun c => { c with lq := (span 1 n).map fun i => anEntry i true }
      s.cur.kind = .l ∧ (s.core 0).tokReady .l noTok = true ∧ (s.core 0).lq.length = n ∧ okIs (s.desc lq0 0) (fun d =>
        (List.range 64).all (fun j => (s.readElem lq0 (d.addr (Q4.mk' fun i => if i = 0 then (j : Int) / 16 else if i = 1 then (j : Int) % 16 else 0)) 4).isNone)
        && (d.indexWords 0x1000 ++ d.rowWords 0x1000 ++ d.ptrWords 0x1000).all (fun w => (s.readElem lq0 (w.1 : Int) w.2).isNone)
        && decide (d.ra ≠ d.qa) && decide (1 < d.rank) && !d.bck) = true) ∧
    (let s := strm .l 0 0x1000 id
     okIs (s.desc lq0 1) (fun d => !d.bck && (s.readElem lq0 (d.addr (Q4.mk' fun _ => 0)) 4).isSome) = true ∧
     okIs (s.desc lq0 3) (fun d => decide (d.ra = d.qa) && decide (2 ≥ d.rank)) = true ∧ okIs (s.desc lq0 2) (fun d => d.bck) = true) ∧
    (∀ b ∈ [true, false],
      let e := anEntry 2 b
      let s := strm .l 0 0 fun c => { c with lq := [anEntry 1 true] ++ e :: [anEntry 3 false] }
      let s := { s with ev := { s.ev with i := 0, j := 1 } }
      (s.core 0).lq = [anEntry 1 true] ++ e :: [anEntry 3 false] ∧ s.ev.j = [anEntry 1 true].length ∧ (∀ x ∈ [anEntry 1 true, anEntry 3 false], x.id ≠ e.id) ∧
      (s.ctl lq0).flows 1 = true ∧ s.entryLost 0 e = false ∧ e.present = b ∧ e.width ∈ [8, 16, 32] ∧ e.plan.length * e.width = 2048) := by decide +kernel

/-- The clauses of a load that an earlier one holds back, of an element that arrives, and of an entry on a module that is not there. -/
theorem witness_Loads_order :
    (let s := strm .l 0 0x3000 fun c => { c with lq := [anEntry 1 false] }
     ∃ e ∈ (s.core 0).lq, e.present = false ∧ e.plan[0]? = some (some 0x3000) ∧ sfind e.got 0 = none ∧ okIs (s.desc lq0 0) (fun d =>
       ((d.indexWords 0x3000).any fun w => w.1 < 0x3000 + 4 && decide (0x3000 < w.1 + w.2))
         && ((d.rowWords 0x3000).any fun w => w.1 < 0x3000 + 4 && decide (0x3000 < w.1 + w.2))
         && (d.ptrWords 0x3000).any fun w => w.1 < 0x3000 + 4 && decide (0x3000 < w.1 + w.2)) = true) ∧
    (let e := anEntry 2 false
     let s := strm .l 0 0 fun c => { c with lq := [anEntry 1 false] ++ e :: [] }
     (s.core 0).lq = [anEntry 1 false] ++ e :: [] ∧ e.plan[0]? = some (some 0x3000) ∧ sfind e.got 0 = none ∧
     (∃ x ∈ [anEntry 1 false], x.present = false ∧ x.plan[63]? = some (some 0x3000) ∧ 0x3000 < 0x3000 + x.width / 8)) ∧
    (let e := { anEntry 2 false with plan := List.replicate 64 (some (2 ^ 42 - 2 ^ 23)) }
     let s := strm .l 0 0 fun c => { c with lq := [] ++ e :: [] }
     (s.core 0).lq = [] ++ e :: [] ∧ s.entryLost 0 e = true) := by decide +kernel
theorem witness_Loads_element :
    ∀ b ∈ [true, false],
      let l := [anEntry 1 b]
      let e := anEntry 2 false
      let s₀ := { strm .l 0 0 (fun c => { c with lq := l ++ e :: [] }) with agenda := [.element 0 1 63] }
      ∃ s, s₀.advance = (.element 0 l.length 63, s) ∧ (s.core 0).lq = l ++ e :: [] ∧ e.plan[63]? = some (some 0x3000) ∧ s.entryLost 0 e = false ∧
        sfind e.got 63 = none := by
  intro b hb
  simp only [List.mem_cons, List.not_mem_nil, or_false] at hb
  rcases hb with rfl | rfl <;> exact ⟨_, rfl, by decide +kernel, by decide +kernel, by decide +kernel, by decide +kernel⟩

/-- A cursor of 3 elements at `pos`. -/
def aFibre (st pos : Nat) : Fibre := { Fibre.closed with st := st, desc := 0, idx := 0x1000, val := 0x2000, cnt := 3, pos := pos }

/-- A header of 3 elements on axis `fa`. -/
def aHeader (fa : Nat) : List Word := [0x1000, 0x2000, BitVec.ofNat 64 (3 + fa * 2 ^ 32), 0, 0, 0, 0, 0]

theorem witness_Fibres :
    (∀ fa ∈ [1, 2],
      let s := (strm .l 0 0x4000 id).write (cellsOf 0x4000 ((aHeader fa).flatMap (leBytes 8 ∘ BitVec.toNat)))
      s.cur.kind = .l ∧ (s.core 0).tokReady .l noTok = true ∧ s.recCheck lq0 0x4000 64 = none ∧
      okIs (s.desc lq0 0) (fun d => decide (s.read lq0 (0x4000 + 16) 8 / 2 ^ 32 % 4 < d.rank) == (fa == 1)) = true ∧
      s.read lq0 (0x4000 + 16) 8 / 2 ^ 34 = 0 ∧ s.read lq0 (0x4000 + 40) 8 = 0 ∧ s.read lq0 (0x4000 + 48) 8 = 0 ∧ s.read lq0 (0x4000 + 56) 8 = 0) ∧
    ((strm .l 0 0 id).recCheck lq0 0x80000 64).isSome = true ∧
    (∀ st ∈ [0, 1, 2], ∀ n ∈ [31, 32],
      let s := strm .l 0 0 fun c => { c with fb := [(7, aFibre st 0)], lq := (span 1 n).map fun i => anEntry i true }
      ((s.core 0).cursor 7).st = st ∧ (s.core 0).lq.length = n ∧ okIs (s.desc lq0 ((s.core 0).cursor 7).desc) (fun d =>
        (List.range 3).all fun j => (s.readElem lq0 ((0x1000 + 4 * j : Nat) : Int) 4).isNone && (s.readElem lq0 ((0x2000 : Int) + d.size * j) d.size).isNone) = true) ∧
    (∀ n ∈ [0, 1],
      let s := strm .l 0 0 fun c => { c with smark := [(15, List.replicate n [])] }
      ((s.core 0).smarks 15 > sget 0 (s.core 0).lmark 15 ↔ n = 1)) := by decide +kernel

/-- The clauses of a header and of an index that an earlier load has yet to read. -/
theorem witness_Fibres_owed :
    let e : LEntry := { anEntry 1 false with plan := List.replicate 64 (some 0x1000) }
    e.present = false ∧ e.plan[0]? = some (some 0x1000) ∧ sfind e.got 0 = none ∧ 0x1000 < 0x1000 + e.width / 8 ∧ 0x1000 < 0x1000 + 64 ∧
    (∃ w ∈ listWords (0x1000 + 4 * 0) (min 64 (3 - 0)) 4 [(0, 4)], w.1 < 0x1000 + e.width / 8 ∧ 0x1000 < w.1 + w.2) := by decide +kernel

def anSPend (sem : Option (Nat × Nat × Nat)) (ids pay : List Nat) (g : Option (Nat × GHalf)) : SPend :=
  { pc := 0, ids := ids, pa := none, mark := some 3, sem := sem, gauge := g, pay := pay }

def aStore (id lvl : Nat) (who : SeqId) : Store := { id := id, who := who, cells := [(0x3000, 5)], lvl := lvl, seen := [(who, 0)] }

theorem witness_StreamCommon :
    (∀ kd ∈ [SeqKind.l, SeqKind.s],
      let s := strm kd 0x7F000 0x7FFF8 id
      s.cur.kind = kd ∧ (s.core 0).tokReady kd noTok = true ∧ (s.ctl s.cur).req = false ∧ (∀ e ∈ (s.core 0).lq, e.present = true) ∧ (s.core 0).spend = [] ∧
      (∀ p ∈ (s.ctxOf s.cur).parts, p.src ≠ s.cur) ∧ s.readCheck s.cur 0x7FFF8 8 8 = none ∧ (s.readCheck s.cur 0x80000 8 8).isSome = true ∧
      s.flipCause s.cur 0x7F000 1 = none ∧ s.flipCause s.cur 0x7F000 2 = some 3 ∧ s.engineBusy 0x7F000 4096 = false ∧
      (let st := aStore 1 2 s.cur
       st.lvl > (1 : BitVec 3).toNat ∧ (st.fenceBy s.cur).isSome = true ∧ st.lvl ≤ (2 : BitVec 3).toNat) ∧
      s.ownOpen s.cur 0x7FFF8 8 = false ∧
      (let w : State := { s with transit := [{ aStore 1 2 s.cur with cells := [(0x7FFFF, 5)] }] }
       w.readCheck w.cur 0x7FFF8 8 8 = none ∧ w.ownOpen w.cur 0x7FFF8 8 = true)) ∧
    (let cause (s : State) (x n : Nat) : Option Nat := if x ≥ 2 ^ 42 then some 1 else if x / 2 ^ 20 % 8 ≥ 5 then some 2
       else if s.absent lq0 (x / 2 ^ 20) then some 4
       else if (x % 2 ^ 20 / 4096 + n) * 4096 > (if x / 2 ^ 20 % 8 < 4 then 0x80000 else 2 ^ 20) then some 3
       else if x % 4096 ≠ 0 then some 5 else if quadOf (x / 2 ^ 20) ≠ quadOf 0 then some 6 else none
     ([(0x7F000, 1), (0x7F000, 2), (0x7F008, 1), (2 ^ 42, 1), (5 * 2 ^ 20, 1), (8 * 2 ^ 20, 1)].map fun y => cause base y.1 y.2) =
       [none, some 3, some 5, some 1, some 2, some 4]) ∧
    (let st := { aStore 1 2 { unit := 1, kind := .k } with seen := [(lq0, 1)] }
     st.who ≠ lq0 ∧ (st.fenceBy lq0).isSome = true) ∧
    (let e : LEntry := { anEntry 1 false with plan := [some 0x7FFFC] }
     e.present = false ∧ e.plan[0]? = some (some 0x7FFFC) ∧ sfind e.got 0 = none ∧ 0x7FFF8 < 0x7FFFC + e.width / 8 ∧ 0x7FFFC < 0x7FFF8 + 8) ∧
    (¬∀ e ∈ [anEntry 1 false], e.present = true) ∧ [anSPend none [] [] none] ≠ [] ∧
    (let s := ctxAt (strm .s 0x3000 0 id) fun c => (c.setChain 0 { seq := 0, last := 1, cmds := [copyCmd] })
     s.engineBusy 0x3000 4096 = true) ∧
    (let p : GPart := { id := 1, src := sq0, gid := 3, half := GHalf.zero, ov := 0 }
     ∃ x ∈ [p], x.src = sq0) := by decide +kernel

/-- A store-queue entry of 64 elements with a map of 4 rows of 16 at the origin, and one that knows nothing. -/
def anItem (mode : MapMode) : Vec × MapV :=
  (BitVec.ofNat 2048 0x3F800000, { m := { CMap.nil with mode := mode, lw := 4, rs := Q4.mk' fun i => if i = 0 then 1 else 0, qs := Q4.mk' fun i => if i = 1 then 1 else 0 }
                                   xs := [], own := false })

theorem witness_Stores :
    (∀ n ∈ [0, 31],
      let s := strm .s 0 0x1000 fun c => { c with sq := [anItem .affine], spend := (List.range n).map fun _ => anSPend none [] [] none }
      s.cur.kind = .s ∧ (s.core 0).tokReady .s noTok = true ∧ (s.core 0).sq ≠ [] ∧ (s.core 0).spend.length < 32 ∧
      ∀ k ∈ [0, 2], okIs (s.desc sq0 k) (fun d =>
        okIs (s.storePlan sq0 d (anItem .affine) (d.storePos (anItem .affine) (d.window (originOf 0 0 d.rank) d.unitSteps) true) true) (fun p => p.cells.length == 256)
        && (d.indexWords 0x1000 ++ d.rowWords 0x1000).all (fun w => (s.readElem sq0 (w.1 : Int) w.2).isNone) && decide (d.ra ≠ d.qa) && decide (1 < d.rank)) = true) ∧
    (let s := strm .s 0 0x1000 fun c => { c with sq := [anItem .none] }
     okIs (s.desc sq0 2) (fun d => d.bck) = true ∧ ((s.core 0).sq.headD (0, .nil)).2.known = false) ∧
    (let s := strm .s 0 0 fun c => { c with sq := [anItem .affine] }
     okIs (s.desc sq0 1) (fun d => (s.writeElem sq0 [] (d.addr (Q4.mk' fun _ => 0)) 4).isSome && !d.bck) = true ∧
     okIs (s.desc sq0 3) (fun d => decide (d.ra = d.qa) && decide (2 ≥ d.rank)) = true) ∧
    ((strm .s 0 0 id).core 0).sq = [] ∧ ((strm .s 0 0 id).core 0).spend = [] := by decide +kernel
/-- The clauses of a mismatch, with and without a position that is kept, at the last position of the window; and of a store of nothing. -/
theorem witness_Stores_check :
    (let e : Vec × MapV := ((anItem .affine).1, { (anItem .affine).2 with m := { (anItem .affine).2.m with tag := 5 } })
     let s := strm .s 0 0x1000 fun c => { c with sq := [e] }
     e.2.known = true ∧ isVoid e.2 (63 * 32 / e.2.m.ew.bits) = false ∧ okIs (s.desc sq0 0) (fun d => !d.bck && d.tag != e.2.m.tag && d.gid == 0) = true) ∧
    (let e : Vec × MapV := ((anItem .explicit).1, { (anItem .explicit).2 with xs := List.replicate 64 voidCoord })
     (List.range 64).all (fun j => isVoid e.2 (j * 32 / e.2.m.ew.bits)) = true ∧ e.2.known = true) := by decide +kernel
theorem witness_Stores_events :
    (∀ g ∈ [none, some (3, GHalf.zero)],
      let p := anSPend none [9] [] g
      let s := strm .s 0 0 fun c => { c with spend := [p] }
      let s : State := { s with transit := [aStore 9 0 sq0], ev := { s.ev with i := 0 } }
      (s.core 0).spend = p :: [] ∧ (s.ctl sq0).flows 3 = true ∧ p.sem = none ∧ p.gauge = g) ∧
    (∀ l ∈ [0, 1, 3, 4],
      let s : State := { base with transit := [aStore 9 l sq0], ev := { base.ev with i := 0 } }
      s.transit[s.ev.i]? = some (aStore 9 l sq0) ∧ (s.mayRaise 0 (aStore 9 l sq0) = true ↔ l ≥ 1) ∧ (∀ x ∈ s.transit, x.id = 9 → x = aStore 9 l sq0)) ∧
    (let s := strm .s 0 0 fun c => { c with spend := [anSPend none [9] [] none] }
     let s : State := { s with transit := [aStore 9 0 sq0], ev := { s.ev with i := 0 } }
     s.mayRaise 0 (aStore 9 0 sq0) = true) ∧
    (let y := aStore 9 1 { unit := 1, kind := .k }
     let s : State := { base with transit := [aStore 8 1 sq0, { y with pre := [{ id := 8, ord := 5, kept := 0 }] }], ev := { base.ev with i := 1 } }
     s.transit[s.ev.i]? = some { y with pre := [{ id := 8, ord := 5, kept := 0 }] } ∧
     s.mayRaise 1 { y with pre := [{ id := 8, ord := 5, kept := 0 }] } = false) := by decide +kernel
/-- What an earlier store is to a later one of its stream, with one byte, one unit or neither in common, to a signal, and to a store of a stream that has
observed it; and the place of a store that reaches the scope of two streams before an earlier one, and of one that does not. -/
theorem witness_Stores_order :
    (let x := aStore 1 0 sq0
     (x.fenceBy lq0).isNone = true ∧ x.fenceBy sq0 = some 0 ∧ ({ x with seen := [(sq0, 2)] } : Store).fenceBy sq0 = some 2 ∧
     ({ x with seen := [(sq0, 0), (lq0, 1)] } : Store).fenceBy lq0 = some 1 ∧ x.who ≠ lq0 ∧ x.who = sq0 ∧
     (∃ c ∈ x.cells, ∃ d ∈ [((0x3000 : Nat), (1 : Byte))], c.1 / 1 = d.1 / 1) ∧
     (¬∃ c ∈ x.cells, ∃ d ∈ [((0x3001 : Nat), (1 : Byte))], c.1 / 1 = d.1 / 1) ∧
     (∃ c ∈ x.cells, ∃ d ∈ [((0x3001 : Nat), (1 : Byte))], c.1 / 2 ^ 20 = d.1 / 2 ^ 20) ∧
     (¬∃ c ∈ x.cells, ∃ d ∈ [((0x103000 : Nat), (1 : Byte))], c.1 / 2 ^ 20 = d.1 / 2 ^ 20)) ∧
    (let k1 : SeqId := { unit := 1, kind := .k }
     let x := aStore 1 0 sq0
     (aStore 2 2 k1).enter [x] = [aStore 2 2 k1, x] ∧ (aStore 2 1 k1).enter [x] = [x, aStore 2 1 k1] ∧
     x.lvl < commonScope x.who k1 ∧ commonScope x.who k1 ≤ 2) := by decide +kernel
theorem witness_Signals :
    (let s := strm .s 0 0x100 fun c => { c with sq := [anItem .affine] }
     s.cur.kind = .s ∧ (s.core 0).tokReady .s noTok = true ∧ (s.core 0).sq ≠ [] ∧ (s.core 0).spend.length < 32 ∧
     okIs (s.desc sq0 0) (fun d =>
       okIs (s.storePlan sq0 d (anItem .affine) (d.storePos (anItem .affine) (d.window (originOf 0 0 d.rank) d.unitSteps) true) true) fun p =>
         [4, 8].all fun n => (s.writeElem sq0 (p.cells ++ cellsOf 0x100 (List.replicate n 0)) (0x100 : Int) n).isNone
           && (s.writeElem sq0 (p.cells ++ cellsOf 0x101 (List.replicate n 0)) (0x101 : Int) n).isSome) = true ∧
     s.absent sq0 4 = false ∧ s.absent sq0 (1 * 8 + 4) = true ∧ 31 / 32 % 2 ^ 18 = 0 ∧ 32 / 32 % 2 ^ 18 ≠ 0) ∧
    (∀ x ∈ [([9], ([] : List Nat)), ([], [9]), ([], [])],
      let p := anSPend (some (0, 31, 5)) x.1 x.2 none
      let s := strm .s 0 0 fun c => { c with spend := [p] }
      let s : State := { s with transit := [aStore 9 0 sq0], ev := { s.ev with i := 0 } }
      (s.core 0).spend = p :: [] ∧ (s.ctl sq0).flows 3 = true ∧ p.sem = some (0, 31, 5) ∧ ((∃ st ∈ s.transit, st.id ∈ p.pay) ↔ x.2 = [9]) ∧
      sget [] (s.quad 0).waiters 31 = []) := by decide +kernel

end Sys2Proof.Tests
end

