-- ==== Sys2Proof/Tests/WitnessX.lean ====
section
/-! SUPPORT. A concrete state and operands that meet the hypotheses of each statement: the instructions of X. -/

set_option Elab.async false

namespace Sys2Proof.Tests

open Sys2Proof Sys2Proof.Machine

-- What each instruction needs ----------------------------------------------------------------------------------------------------------------

/-- The legal instruction `i x` can issue on core 0, nothing about its operands traps, and what it sees passes a test. -/
def xCan (s : State) (onto : XTo) (push : Bool) (p : XCtx → Bool) (x : XArgs) (i : XArgs → Instr) : Bool :=
  (i x).wf && (match xSpec (i x) with
  | some (sp, y) =>
    let k := s.xSees sp x onto
    y == x && s.cur.kind == .x && !(s.core 0).loop.act && !(s.core 0).xStall x (xLq sp x) push && (k.early k.n k.w).isNone && p k
  | none => false)

/-- v1, v2 and v3 with a map each: 16 columns in rows at the origin. -/
def gridMap (mode : MapMode) (tag : Nat) : CMap :=
  { CMap.nil with mode := mode, tag := BitVec.ofNat 16 tag, lw := 4, rs := Q4.mk' fun i => if i = 0 then 1 else 0, qs := Q4.mk' fun i => if i = 1 then 1 else 0 }
def mapped (a b : Nat) (m1 m2 : CMap) : State :=
  on .x fun c => { c with v := [(1, (BitVec.ofNat 2048 a, m1)), (2, (BitVec.ofNat 2048 b, m2)), (3, (0, m1))], nkey := 5 }

/-- v1, v2 with format code `f`, a third operand, a mode. -/
def xabc (f : BitVec 6) (c : BitVec 7) : XArgs := { xz with d := 4, a := 1, b := 2, oper := some { oz with fmt := f, fv := true, c := c } }
def xu (f : BitVec 6) : XArgs := { xz with d := 4, a := 1, oper := some { oz with fmt := f, fv := true } }
def xi (f : BitVec 6) (imm : BitVec 16) : XArgs := { xu f with imm := some imm }

/-- The value needs a noise word in mode SR where it is inexact, and its element has one exactly where its map is known. -/
def noiseIs (has : Bool) (k : XCtx) : Bool :=
  let r := addV (Machine.decode k.f (k.src k.a 0)) (Machine.decode k.f (k.src k.b 0))
  needsNoise k.f r.1 k.x.mode && (noiseAt k.c.nkey (k.view (k.mapTo .keep 32 64)) 0).isSome == has

theorem witness_XElementwise :
    (∀ p ∈ [(0, false), (3, true)], ([Instr.vadd, .vsub, .vmul, .vmin, .vmax, .vminp, .vmaxp].all
      (xCan (vv 1 2) .v false (fun k => k.f.isInt == p.2) (xabc (BitVec.ofNat 6 p.1) 0))) = true ∧
      ([Instr.vabs, .vneg, .vmov].all (xCan (vv 1 2) .v false (fun k => k.f.isInt == p.2) (xu (BitVec.ofNat 6 p.1)))) = true ∧
      ([Instr.vceq, .vcne, .vclt, .vcle].all (xCan (vv 1 2) .p false (fun k => k.f.isInt == p.2) (xabc (BitVec.ofNat 6 p.1) 0))) = true) ∧
    ([Instr.vfma, .vfms, .vfnma].all (xCan (vv 1 2) .v false (fun k => !k.f.isInt) (xabc 0 3))) = true ∧
    ([Instr.vsqrt, .vrcp, .vrsq, .vexp2, .vlog2, .vsinp, .vcosp].all (xCan (vv 1 2) .v false (fun k => !k.f.isInt) (xu 0))) = true ∧
    ([Instr.vdiv].all (xCan (vv 1 2) .v false (fun k => !k.f.isInt) (xabc 0 0))) = true ∧
    (xCan (vv 1 2) .v false (fun k => !k.f.isInt) { xabc 0 0x70 with imm := some 1 } .vcmul) = true ∧
    ([Instr.vadds, .vsubs, .vand, .vor, .vxor, .vandn, .vshl, .vshr, .vsra].all (xCan (vv 1 2) .v false (fun _ => true) (xabc 3 0))) = true ∧
    xCan (vv 1 2) .v false (fun _ => true) (xabc 0 1) .vsel = true ∧ xCan (vv 1 2) .p false (fun _ => true) (xabc 0 0) .vcun = true ∧
    (let x := { xabc 0 0 with oper := some { oz with fmt := 0, fv := true, rm := 2 } }
     xCan (vv 0x4B800000 0x3F800000) .v false (noiseIs false) x .vadd = true ∧
     xCan (mapped 0x4B800000 0x3F800000 (gridMap .affine 1) (gridMap .affine 1)) .v false (noiseIs true) x .vadd = true) := by decide +kernel

/-- The reference's row width is the instruction's, or is another. -/
def refLw (n : Nat) (same : Bool) (k : XCtx) : Bool := k.ref.any fun r => r.known && decide (r.m.lw.toNat = n) == same

theorem witness_XMovement_lanes :
    (let s := mapped 1 2 (gridMap .affine 1) (gridMap .affine 1)
     ([Instr.vxpose, .vreshp, .vbce, .vbcr, .vbcc].all (xCan s .v false (refLw 4 true) (xi 0 4))) = true ∧
     ([Instr.vxpose, .vreshp, .vbce, .vbcr, .vbcc].all (xCan s .v false (refLw 3 false) (xi 0 3))) = true ∧
     ([Instr.vxpose, .vreshp, .vbce, .vbcr, .vbcc].all (xCan (vv 1 2) .v false (fun k => !k.refKnown) (xi 0 4))) = true ∧
     ([(4, 0), (4, 3), (0x14, 0), (0x24, 3)].all fun p => [Instr.vredq, .vredr].all (xCan s .v false (refLw 4 true) (xi (BitVec.ofNat 6 p.2) (BitVec.ofNat 16 p.1)))) = true ∧
     ([Instr.vredq, .vredr].all (xCan s .v false (refLw 3 false) (xi 0 3))) = true ∧
     xCan s .v false (fun _ => true) (xabc 0 0) .vperm = true ∧
     xCan s .v false (fun _ => true) { xu 0 with oper := some { oz with fmt := 0, fv := true, c := 1 } } .vcompact = true) := by decide +kernel
theorem witness_XMovement_conversions :
    (let s := mapped 1 2 (gridMap .affine 1) (gridMap .affine 1)
     let any (_ : XCtx) : Bool := true
     -- f32 to bf16 takes two registers, f16 to f32 one; i32 to i16 and i8 to i32 stay integers
     xCan s .v false any { xabc 1 3 with b := 0 } .vcvt = true ∧ xCan s .v false any { xi 0 1 with b := 2 } .vcvt = true ∧
     xCan s .v false any { xabc 4 3 with b := 3 } .vcvt = true ∧ xCan s .v false any { xi 4 1 with b := 5 } .vcvt = true ∧
     xCan s .v false any { xabc 0 0x50 with b := 0x24, imm := some 3 } .vdq = true ∧
     xCan s .v false any { xabc 0x24 3 with imm := some 6, prf := some 1 } .vscal = true ∧
     ([1, 4].all fun f => xCan s .v false (fun k => k.f.isInt == (f == 4)) { xu (BitVec.ofNat 6 f) with a := 0x40 } .wnar) = true ∧
     xCan s .w false any { xz with d := 7 } .wzero = true ∧
     ([(1, 0), (4, 0), (0x24, 1)].all fun p => xCan s .w false (fun k => k.f.isInt == (p.1 == 4)) { xi (BitVec.ofNat 6 p.1) (BitVec.ofNat 16 p.2) with d := 7 } .wacc) = true ∧
     ([(1, 0), (4, 0), (0x24, 1)].all fun p => xCan s .w false (fun k => k.f.isInt == (p.1 == 4))
       { xabc (BitVec.ofNat 6 p.1) 3 with d := 7, b := 0, imm := some (BitVec.ofNat 16 p.2) } .wfma) = true) := by decide +kernel

/-- How many maps the operands bear, whether all are known, and whether they agree on their tags. -/
def mapsAre (n : Nat) (known same : Bool) (k : XCtx) : Bool :=
  let maps := (([k.a, k.b, k.cc].filterMap fun o => o.filter bearsMap).map k.c.mapOf)
  maps.length == n && maps.all (·.known) == known && (maps.all fun m => maps.all fun m' => m.m.tag == m'.m.tag) == same

theorem witness_XMovement_maps :
    (let s := mapped 1 2 (gridMap .affine 1) (gridMap .affine 1)
     let any (_ : XCtx) : Bool := true
     let y : XArgs := { xz with d := 4, a := 1 }
     xCan s .v false any { y with b := 2 } .cmslice = true ∧ xCan s .v false any { y with imm := some 0xE4 } .cmperm = true ∧
     xCan s .v false any y .cmget = true ∧ xCan s .v false any y .cmset = true ∧
     xCan s .none false (mapsAre 2 true true) { y with b := 2, d := 0 } .cmchk = true ∧
     xCan (vv 1 2) .none false (mapsAre 2 false true) { y with b := 2, d := 0 } .cmchk = true ∧
     xCan (mapped 1 2 (gridMap .affine 1) (gridMap .affine 2)) .none false (mapsAre 2 true false) { y with b := 2, d := 0 } .cmchk = true ∧
     (let p := { xi 0 (1 + 5 * 2 ^ 12) with b := 0x71 }
      xCan s .p false (·.refKnown) p .pcrd = true ∧ xCan (vv 1 2) .p false (fun k => !k.refKnown) p .pcrd = true) ∧
     (let p := { xu 3 with t := 3, oper := none, b := 0x70 }
      xCan s .v false (·.refKnown) p .vhash = true ∧ xCan (vv 1 2) .v false (fun k => !k.refKnown) p .vhash = true) ∧
     (let p := { xi 0 0x14 with b := 0x50 }
      xCan s .v false (·.refKnown) p .vtwid = true ∧ xCan (vv 1 2) .v false (fun k => !k.refKnown) p .vtwid = true)) := by decide +kernel

-- Queues, loops, gauges -------------------------------------------------------------------------------------------------------------------------

/-- Core 0 with a loop in a place of its body. -/
def looped (f : XLoop → XLoop) : State := on .x fun c => { c with loop := f { XLoop.closed with act := true, n := 4, q := 4, ns := 2, sl := 3 } }

theorem witness_XQueuesAndLoops_held :
    ((looped fun l => { l with place := 6 }).core 0).loop.place = ((looped id).core 0).loop.ns * ((looped id).core 0).loop.sl ∧
    ((looped fun l => { l with k := 0, place := 3 }).core 0).loop.squashed = true ∧ ((looped id).core 0).loop.squashed = false ∧
    (let x := { xz with pb := true, pa := true }
     (∃ n, n < 12 ∧ xPb x = some n ∧ ((vv 1 2).core 0).tokens n = 0) ∧ (∃ n, n < 12 ∧ xPa x = some n)) ∧
    (let x := { xabc 0 0 with a := 0x4C }
     ((xSpec (.vadd x)).any fun p => xLq p.1 x) = true ∧ ((on .x fun c => { c with lq := [anEntry 1 false] }).core 0).lq = [anEntry 1 false]) := by decide +kernel

/-- The operand check of an instruction that asks for it, and coordinates without a reference. -/
def traps (code : Nat) (x : XArgs) (s : State) (i : XArgs → Instr) : Bool :=
  (i x).wf && (match xSpec (i x) with
  | some (sp, _) =>
    let k := s.xSees sp x .v
    s.cur.kind == .x && !(s.core 0).loop.act && !(s.core 0).xStall x (xLq sp x) false && (k.early k.n k.w).map (·.code) == some code
  | none => false)

theorem witness_XQueuesAndLoops_traps :
    (let x := { xabc 0 0 with oper := some { oz with fmt := 0, fv := true, mchk := true } }
     traps 10 x (vv 1 2) .vadd = true ∧ traps 11 x (mapped 1 2 (gridMap .affine 1) (gridMap .affine 2)) .vadd = true) ∧
    traps 10 { xabc 0 0 with a := 0x60 } (vv 1 2) .vadd = true := by decide +kernel
theorem witness_XQueuesAndLoops_predicates :
    (let any (_ : XCtx) : Bool := true
     let s := vv 1 2
     ([Instr.pand, .por, .pxor].all (xCan s .p false any { xz with d := 15, a := 1, oper := some { oz with c := 2 } })) = true ∧
     ([Instr.pnot, .pmov].all (xCan s .p false any { xz with d := 15, a := 1 })) = true ∧ xCan s .p false any { xz with d := 15, imm := some 256 } .pset = true ∧
     xCan s .e false any { xz with d := 15, a := 1, b := 63 } .vmovE = true ∧ xCan s .none true any { xz with a := 1 } .xpush = true ∧
     (on .x fun c => { c with sq := List.replicate 32 (anItem .none) }).cur.kind = .x ∧
     ((on .x fun c => { c with sq := List.replicate 32 (anItem .none) }).core 0).sq.length ≥ 32) := by decide +kernel
theorem witness_XQueuesAndLoops_loops :
    (let any (_ : XCtx) : Bool := true
     xCan (vv 1 2) .none false any { xz with d := 63, a := 127 } .xwait = true ∧ xCan (vv 1 2) .none false any { xz with d := 0x12, a := 0x70 } .xloop = true ∧
     (looped id).cur.kind = .x ∧ ((looped id).core 0).loop.act = true ∧ (base.ctl kq).req = false ∧
     (xSpec (.xlend xz)).isSome = true ∧
     (∀ k ∈ [2, 3, 4], let l := ((looped fun l => { l with k := k, place := 6 }).core 0).loop
       l.act = true ∧ l.place = l.ns * l.sl ∧ l.q = l.n ∧ (l.k + 2 < min l.n l.q + l.ns ↔ k < 4)) ∧
     ((looped id).core 0).xStall { xz with pb := true } false false = true ∧ ((looped id).core 0).xStall xz false false = false) := by decide +kernel

/-- X with gauge 3 of context 1 in a state and mode, `w0` and `w1`, and e0 to name a gauge. -/
def xGauge (id st : Nat) (ovm : Bool) (w0 : Nat) (m : CMap) : State :=
  let s := on .x fun c => { c with e := [(0, BitVec.ofNat 32 id)], w := [(0, (BitVec.ofNat 4096 w0, m)), (1, (0, m))], nkey := 5 }
  ctxAt s fun c => { c with gauges := [(3, { Gauge.free with st := st, ovm := ovm })] }

/-- What VQNT finds in them: whether a noise word is lost, and how many elements overflow. -/
def quants (lost : Bool) (exceed : Bool) (k : XCtx) : Bool :=
  let map := k.mapTo (.filled (joinCoords (k.c.mapOf 64) (k.c.mapOf 65) 128 32)) 8 256
  let y := quantAll k.f (k.c.rawOf 64) (k.c.rawOf 65) 0 k.x.mode k.x.ovfB ((List.range 256).map fun j => noiseAt k.c.nkey (k.view map) j)
  y.lost == lost && (y.exceed != 0) == exceed

theorem witness_XQueuesAndLoops_gauges :
    (∀ st ∈ [0, 1, 2], ([Instr.gread, .gstat].all (xCan (xGauge 3 st false 0 .nil) .v false (fun k => k.scalar k.a == 3) { xz with d := 4, a := 0x50 })) = true ∧
      (((xGauge 3 st false 0 .nil).ctxOf kq).gauge 3).st = st) ∧
    (∀ id ∈ [0, 15, 16], xCan (xGauge id 1 false 0 .nil) .v false (fun k => k.scalar k.a == id) { xz with d := 4, a := 0x50 } .gstat = true) ∧
    (base.ctxOf kq).gtsz = 4 ∧
    (let x := { xz with d := 4, a := 0x40, imm := some 0x10, oper := some { oz with c := 0x41, fmt := 0x24, fv := true } }
     let y := { x with oper := some { oz with c := 0x41, fmt := 0x24, fv := true, rm := 2 } }
     (∀ id ∈ [0, 3, 16], xCan (xGauge id 1 false 0 .nil) .v false (fun k => (sget 0 k.c.e (k.x.immN % 16)).toNat == id) x .vqnt = true) ∧
     xCan (xGauge 3 1 false 0x3F800000 .nil) .v false (quants false false) x .vqnt = true ∧
     xCan (xGauge 3 1 false 0x7F000000 .nil) .v false (quants false true) x .vqnt = true ∧
     xCan (xGauge 3 1 true 0x7F000000 .nil) .v false (quants false true) x .vqnt = true ∧
     xCan (xGauge 3 1 false 0x3F900001 .nil) .v false (quants true false) y .vqnt = true) := by decide +kernel

/-- A result in flight. -/
def flight (cyc : Nat) (dst : XDst) (map : Option MapOut) (keep : Bool) : XPend :=
  { id := cyc, pc := 0, cyc := cyc, dst := dst, val := 6, map := map, keep := keep, flags := 1, img := false, ref := none, e2 := none, sq := false, rerun := none }

/-- Core 0 in cycle 4 of X time with writes in flight. -/
def cycle4 (pend : List XPend) (f : Core → Core) : State :=
  { on .x (fun c => f { c with xnow := 4, xnext := 5, pend := pend }) with ev := { base.ev with i := 0 } }

def dueAt (s : State) : List XPend := (s.core 0).pend.filter fun p => p.cyc == (s.core 0).xnow

theorem witness_XWriteCycle :
    (∀ p ∈ [flight 4 (.v 2) (some (.fresh (gridMap .explicit 1) [])) false, flight 4 (.v 2) (some (.keep .nil)) true, flight 4 (.w 7) (some (.keep .nil)) false,
        flight 4 (.p 15) none false, flight 4 (.e 15) none false, { flight 4 (.v 2) none false with e2 := some (3, 9) }],
      let s := cycle4 [p, flight 5 (.e 3) none false] fun c => { c with ch := [(1, { val := 0, map := .nil, prod := some 4 })] }
      (s.ctl kq).mode = .normal ∧ (s.ctl kq).only = none ∧ (s.ctl kq).stepDone = false ∧ (s.core 0).xnow < (s.core 0).xnext ∧
      dueAt s = [p] ∧ (∀ r ∈ (s.core 0).pend, r.cyc ≥ 4 ∧ r.rerun = none) ∧ p.sq = false ∧ ((dueAt s).map XPend.id).Nodup ∧
      0 ∉ (s.core 0).slotsKept 4 [p] [flight 5 (.e 3) none false] false) ∧
    dueAt (cycle4 [flight 5 (.e 3) none false] id) = [] ∧ ((moded .stopped brkFrame 0 0).ctl kq).mode ≠ .normal ∧
    (let c := { base.core 0 with v := (List.range 8).map fun i => (i, (0, { CMap.nil with mode := .explicit, slot := BitVec.ofNat 3 i })) }
     let p := flight 4 (.v 9) (some (.fresh (gridMap .explicit 1) [])) false
     ∀ i, i < 8 → i ∈ c.slotsKept 4 [p] [] false) := by decide +kernel
/-- Two writes due in one cycle: of one register, and of two registers with a map of their own each. -/
theorem witness_XWriteCycle_two :
    (let p := flight 4 (.v 2) none false
     let p' := { flight 4 (.v 2) none false with id := 5 }
     dueAt (cycle4 [p, p'] id) = [] ++ p :: [p'] ∧ p'.dst = p.dst ∧ ([p, p'].map XPend.id).Nodup) ∧
    (let p := flight 4 (.v 2) (some (.fresh (gridMap .explicit 1) [])) false
     let p' := { flight 4 (.v 3) (some (.fresh (gridMap .explicit 2) [])) false with id := 5 }
     let s := cycle4 [p, p'] id
     let used := (s.core 0).slotsKept 4 [p, p'] [] false
     dueAt s = [p, p'] ∧ 0 ∉ used ∧ 1 ∉ 0 :: used ∧ 0 ∈ 0 :: used) := by decide +kernel
/-- The clauses of a squashed instruction and of one past the end of the body, a stream at the end of its loop, and a gauge with a past. -/
theorem witness_XQueuesAndLoops_places :
    (let l := ((looped fun l => { l with k := 0, place := 3 }).core 0).loop
     l.act = true ∧ l.place ≠ l.ns * l.sl ∧ l.squashed = true) ∧
    (let l := ((looped fun l => { l with place := 6 }).core 0).loop
     l.act = true ∧ l.place = l.ns * l.sl) ∧
    (xSpec (.xwait { xz with d := 63, a := 127 })).isSome = true ∧ (∀ kd ∈ [SeqKind.l, .s], (on kd id).cur.kind = kd) ∧ isCtl base.cur.kind = true ∧
    (let g := { Gauge.free with st := 1, gen := 2, past := [(9, 1, [], true)] }
     (∀ z ∈ g.past, z.1 ≤ 9) ∧ (∃ z ∈ g.past, z.1 > 8) ∧ ∃ z ∈ g.past, z.2.2.2 ≠ g.ovm) := by decide +kernel

end Sys2Proof.Tests
end

