-- ==== Sys2Proof/Tests/WitnessMachine.lean ====
section
/-! SUPPORT. A concrete state and operands that meet the hypotheses of each statement: fetch, numbers, maps, the machine as a whole. -/

set_option Elab.async false

namespace Sys2Proof.Tests

open Sys2Proof Sys2Proof.Machine

/-- Core 0's K at a position, with a header and seven words in its line. -/
def lined (p : Pos) (h : Nat) (ws : List Nat) : State :=
  let s := { base with mem := memWrite [] (cellsOf (pageKey 0 1 placeBase) ((h :: ws).flatMap (leBytes 4))) }
  s.setPos kq p

/-- A header of the tags of slots 1 to 7, and the branch-target mark. -/
def headOf (tags : List Nat) (bt : Bool) : Nat := tags.foldr (fun t a => t + 16 * a) 0 + if bt then 2 ^ 28 else 0

theorem witness_Fetch :
    (∀ p ∈ [(0x10000, [2, 1, 1, 15, 15, 15, 15]), (0x10008, [2, 1, 1, 15, 15, 15, 15]), (0x1000C, [2, 1, 1, 3, 15, 15, 15])],
      let s := lined (.next p.1) (headOf p.2 false) []
      okIs (s.fetchLine kq 0x10000).2 (fun ws => ws.getD 0 0 == headOf p.2 false) = true ∧ ((s.fetchLine kq 0x10000).1).fetchPhase kq = .run ∧
      (((s.fetchLine kq 0x10000).1).ctxOf kq).inRegion (tagOf .k) 0x1000C = false ∧ s.pos kq = .next p.1) ∧
    tagOf .k = 1 ∧ 0x10000 / 4 % 8 < 2 ∧ 0x10008 / 4 % 8 < 3 ∧ 0x1000C / 4 % 8 < 5 ∧
    (∀ bt ∈ [true, false],
      let s := lined (.target 0x10008 0x10004) (headOf [2, 1, 1, 15, 15, 15, 15] bt) []
      okIs (s.fetchLine kq 0x10000).2 (fun ws => ws.getD 0 0 / 2 ^ 28 % 2 == (if bt then 1 else 0)) = true ∧ s.pos kq = .target 0x10008 0x10004 ∧
      0x10008 % 4 = 0 ∧ 0x10008 / 4 % 8 ≠ 0) ∧
    (∀ a ∈ [0x10006, 0x10020], (lined (.target a 0x10004) 0 []).pos kq = .target a 0x10004 ∧ (a % 4 ≠ 0 ∨ a / 4 % 8 = 0)) ∧
    base.homeNow 0 1 0x30000 = none ∧ ((paged 0 0 id).homeNow 0 1 0x20000).any (fun p => !p.2.x) = true ∧
    (let s := ctxAt base fun c => c.setKernel 1 { c.kernel 1 with region := [(tagOf .k, 0x1000C)] }
     (s.ctxOf kq).inRegion (tagOf .k) 0x1000C = true ∧ (s.ctxOf kq).inRegion (tagOf .k) 0x10008 = false) ∧
    ((lined (.next 0x10000) 0 []).core 0).loop.skip = false ∧
    (base.pos kq = .at 0x10004 ∧ (lined .ended 0 []).pos kq = .ended) := by decide +kernel
theorem witness_Fetch_line :
    (let s := lined (.next 0x10000) (headOf [2, 1, 1, 15, 15, 15, 15] false) []
     (s.homeNow 0 1 0x10000).any (fun p => p.2.x && headerOk (memNat s.mem (p.2.key p.1 1 0x10000) 4)) = true ∧
     s.touchLine 0 1 0x10000 = (s, false)) := by decide +kernel

theorem witness_Conversion :
    fmtOfCode 0 = some .f32 ∧ Fmt.f32.isFloat = true ∧ Fmt.f32.isIeee = true ∧ 0x7F7FFFFF < 2 ^ Fmt.f32.width ∧
    (Machine.decode .f32 0x7F7FFFFF).isNan = false ∧ (Machine.decode .f32 0x7F7FFFFF).isInf = false ∧ (Machine.decode .f32 0x7FC00000).isNan = true ∧
    fmtOfCode 5 = some .i8 ∧ Fmt.i8.isInt = true ∧ (intRange .i8).1 ≤ -128 ∧ 127 ≤ (intRange .i8).2 ∧
    (match Machine.decode .f32 (convert .f32 (.num false 1 0 false) .rz false 0).1 with
      | .num _ _ e false => decide (-30 ≤ e) && decide ((-30 : Int) ≤ 0)
      | _ => false) = true := by decide +kernel
/-- Dot products under profile 2, of 16 ones and 16 more, and of terms that its 27 bits cut: one product of 2^28 beside one of 1. -/
theorem witness_Conversion_dot :
    (let p : Profile := ⟨16, some 27, false⟩
     let xs : List (Val × Nat) := (List.range 16).map fun _ => (Machine.decode .f32 0x3F800000, 0)
     0 < p.g ∧ xs.length % p.g = 0 ∧ (∀ q ∈ xs ++ xs, q.1.isNan = false ∧ q.1.isInf = false) ∧ xs.length ≤ p.g) ∧
    (let ts : List Int := [2 ^ 28, 1]
     (∀ t ∈ ts, t ≠ 0 → t.natAbs.log2 ≤ 28) ∧ (∃ t ∈ ts, t ≠ 0 ∧ t.natAbs.log2 = 28) ∧ 27 ≤ 28 ∧ (1 : Int) / 2 ^ (28 - 27) * 2 ^ (28 - 27) ≠ 1) ∧
    (match Machine.decode .f32 (roundF32Sticky ⟨1, 0⟩ true).1 with
      | .num false m e false => decide (m * 2 ^ (e + 30).toNat = 2 ^ 30)
      | _ => false) = true ∧ (roundF32Sticky ⟨1, 0⟩ true).2 &&& fNX ≠ 0 ∧ (roundF32Sticky ⟨1, 0⟩ false).2 = 0 := by decide +kernel
theorem witness_MapsFollowElements :
    (∀ mode ∈ [MapMode.affine, .explicit, .none, .lost],
      let v : MapV := { m := gridMap mode 1, xs := List.replicate 64 voidCoord, own := false }
      2 ^ v.m.lw.toNat ≤ 64 ∧ (v.known = true ↔ mode = .affine ∨ mode = .explicit)) ∧ (15 : Nat) < 2 ^ 4 ∧ (15 : Nat) < 16 ∧
    (List.replicate 64 (some 63 : Option Nat)).length = 64 ∧ (∀ d, d < 4 → (Q4.mk' fun i => 3 - i : Q4 Nat).get d < 4) := by decide +kernel

theorem witness_EncodeDecodeRoundTrip :
    (Instr.addi 3 3 0x40).wf = true ∧ (Instr.addi 3 3 0x40).stream = some .k ∧ (Instr.li 3 0).wf = true ∧ (Instr.li 3 0).stream = some .k ∧
    Sys2Proof.decode .k 0x24600000 [] = some (.li 3 0) ∧ encode (.li 3 0) = encode (.li 3 0) := by decide +kernel
theorem witness_StepRunsDecodedInstruction :
    (∀ p ∈ [([1, 5, 5, 5, 5, 5, 5], 6, 1), ([1, 2, 15, 15, 15, 15, 15], 0, 1), ([2, 2, 2, 2, 2, 2, 1], 0, 7)],
      let s := { lined (.at (0x10000 + 4 * p.2.2)) (headOf p.1 false) [0x10630040] with agenda := [.seq kq] }
      s.agenda = .seq kq :: [] ∧ (s.ctl kq).mode = .normal ∧ (s.ctl kq).stepDone = false ∧ (s.ctl kq).only = none ∧ (s.phase kq).done = false ∧
      s.pos kq = .at (0x10000 + 4 * p.2.2) ∧ 1 ≤ p.2.2 ∧ (s.ctl kq).faults = [] ∧ (s.ctl kq).breaks 0 (0x10000 + 4 * p.2.2) = false ∧
      (s.homeNow 0 (s.asidOf kq) (0x10000 + 4 * p.2.2)).isSome = true ∧ p.2.2 + p.2.1 < 8 ∧
      (∀ j, j < p.2.1 → headOf p.1 false / 2 ^ (4 * (p.2.2 + 1 + j) - 4) % 16 = 5) ∧
      (p.2.2 + 1 + p.2.1 = 8 ∨ headOf p.1 false / 2 ^ (4 * (p.2.2 + 1 + p.2.1) - 4) % 16 ≠ 5)) ∧
    (let c := base.ctl kq
     let f : EngRec := { num := 1, barge := 0, kind := 1, code := 3, addr := 0 }
     let s := base.setCtl kq { c with faults := [f], brk := [(3, 0x10004)] }
     s.pos kq = .at 0x10004 ∧ (s.ctl kq).faults ≠ [] ∧ (s.ctl kq).breaks 0 0x10004 = true) ∧
    (∀ b ∈ [0x10004], (lined (.next 0x10000) 0 []).pos kq ≠ .at b) := by decide +kernel
/-- A slot whose page has ceased to translate; K in its handler; a stepped stream that is done, and one that waits for it; a core that stands. -/
theorem witness_StepRunsDecodedInstruction_rest :
    (let s := ctxAt base fun c => { c with pages := [] }
     s.homeNow 0 (s.asidOf kq) 0x10004 = none ∧ s.pos kq = .at 0x10004 ∧ (s.phase kq).done = false) ∧
    (let s := base.setCtl kq { base.ctl kq with mode := .handler }
     (s.ctl kq).mode = .handler ∧ strmNo kq.kind = 0 ∧ (s.ctl kq).joint = none ∧ strmNo xq.kind ≠ 0) ∧
    (let s := base.setCtl kq { base.ctl kq with only := some 2 }
     (s.ctl kq).mode = .normal ∧ (s.ctl kq).stepDone = false ∧ (s.ctl kq).only = some 2 ∧ 2 ≠ strmNo kq.kind ∧
     ({ s.ctl kq with stepDone := true } : Ctl).stepDone = true) ∧
    (base.setCtl kq { base.ctl kq with mode := .stopped }).ctl kq ≠ base.ctl kq := by decide +kernel
theorem witness_StepKeepsMemoryCanonical :
    Memory.wf { kk 0x100 0x77 with agenda := [.seq kq] }.mem = true ∧
    nextIs (step { kk 0x100 0x77 with agenda := [.seq kq] }) (fun _ => true) = true := by decide +kernel

end Sys2Proof.Tests
end

