-- ==== Sys2Proof/Tests/WitnessKernel.lean ====
section
/-! SUPPORT. A kernel object that passes the loader's checks, and the other hypotheses of the statement about kernels. -/

set_option Elab.async false

namespace Sys2Proof.Tests

open Sys2Proof Sys2Proof.Machine

/-- The words of an object before its signature: header, four sections (program header, K, sites, signature), and one record of K. -/
def vofWords : List Nat :=
  [0x01464F56 + 2 ^ 32, 4 * 2 ^ 32, 64, 8520, 264, 0, 0, 0,
   1, 192, 64, 0, 2 + 2 ^ 32, 256, 8, 0, 8, 264, 0, 0, 0x10, 264, 8256, 0,
   1 + 1 * 2 ^ 10 + 1 * 2 ^ 28, 0, 0, 0, 0, 0, 0, 0,
   0x10630040 * 2 ^ 32]

/-- The object: its signature block names the key whose digest begins with zeros, twice. -/
def vof : List Byte := vofWords.flatMap (leBytes 8) ++ List.replicate 8256 0

theorem vof_length : vof.length = 8520 := by decide +kernel
theorem vof_check1 : check1 vof = none := by decide +kernel
theorem vof_checks :
    (let l := objSecs vof
     let recs := objRecs vof l
     let sites := objSites vof (secOf l 8)
     check2 vof = none ∧ check3 vof l = none ∧ check4 recs = none ∧ check5 vof l recs sites = none ∧ check6 sites = none ∧ check7 vof l sites = none ∧
     check8 vof (secOf l 9) = none ∧ check9 vof (secOf l 0x0A) (secOf l 9) 4 = none ∧ check10 vof (secOf l 0x0B) (secOf l 0x0C) = none ∧
     check11 vof (secOf l 0x0D) recs = none ∧ check12 vof (secOf l 0x0E) (oF vof (secOf l 1).off 0 10) = none ∧ check13 recs = none ∧
     objSigoff vof = 264) := by decide +kernel

/-- Whatever the firmware's keys, the object passes every check of the loader once its signature block does. How a key is encoded is opaque in
the model: that some block passes is all that is assumed. -/
theorem witness_KernelRecords_object (keys : List (List Byte)) (h : signBad keys (vof.take 264) (vof.drop 264) 14 264 = none) :
    objBad keys 4 vof = none := by
  obtain ⟨h2, h3, h4, h5, h6, h7, h8, h9, h10, h11, h12, h13, hs⟩ := vof_checks
  simp only [objBad, vof_check1, h2, h3, h4, h5, h6, h7, h8, h9, h10, h11, h12, h13, hs, h, firstSome]

/-- Queue 63 of context 1 asks for the object at 0x21000, of its page at 0x20000. -/
def kloadRec : List Word := recOf 6 [0x21000, 8520]
def loading : State :=
  { queued base 63 [0x20000] [] with
    mem := memWrite (memWrite [] (cellsOf (pageKey 0 1 0x20000) (kloadRec.flatMap (leBytes 8 ∘ BitVec.toNat))))
      (cellsOf (pageKey 0 1 0x21000) (vofWords.flatMap (leBytes 8))) }

/-- The load has started: kernel 2 is LOADING. -/
def started : State :=
  let r := loading.startRec 0 63 kloadRec
  let c := r.2.ctx 0 1
  r.2.setCtx 0 1 { c.setKernel c.nextKernel { Kernel.none with st := .loading, load := some (r.1, 0x21000, 8520) } with nextKernel := c.nextKernel + 1 }

theorem started_mem : started.mem = loading.mem := by decide +kernel

theorem pageOf_second {c : Ctx} {p q : Page} {x : Nat} (hp : c.pages = [p, q]) (h1 : p.covers x = false) (h2 : q.covers x = true)
    (hq : q.gone = []) : c.frameOf x = some q := by
  simp [Ctx.frameOf, Ctx.pageOf, Ctx.listedPage, hp, h1, h2, hq]

/-- The page of the records and the object. -/
def onePage : Page := pageOfWord 0x20000 0x30 0

theorem onePage_is : onePage.va = 0x20000 ∧ onePage.size = 0x10000 ∧ onePage.bad = [] ∧ onePage.tier = 0 := by decide +kernel

theorem started_page (x : Nat) (h1 : 0x20000 ≤ x) (h2 : x < 0x30000) : (started.ctx 0 1).frameOf x = some onePage := by
  have hp : (started.ctx 0 1).pages = [{ pageOfWord placeBase 0x50 0 with fw := true }, onePage] := by decide +kernel
  have a1 : ({ pageOfWord placeBase 0x50 0 with fw := true } : Page).va + ({ pageOfWord placeBase 0x50 0 with fw := true } : Page).size ≤ 0x20000 := by decide +kernel
  obtain ⟨a2, a3, -, -⟩ := onePage_is
  refine pageOf_second hp ?_ ?_ rfl
  · rw [Page.covers, Bool.and_eq_false_iff]
    right
    exact decide_eq_false (by omega)
  · rw [Page.covers, a2, a3, Bool.and_eq_true]
    exact ⟨decide_eq_true (by omega), decide_eq_true (by omega)⟩

theorem words_length : (vofWords.flatMap (leBytes 8)).length = 264 ∧ (kloadRec.flatMap (leBytes 8 ∘ BitVec.toNat)).length = 64 := by
  decide +kernel

theorem getD_append_zeros (l : List Byte) (n i : Nat) : (l ++ List.replicate n 0).getD i 0 = l[i]?.getD 0 := by
  rw [List.getD_eq_getElem?_getD, List.getElem?_append]
  split
  · rfl
  · next h =>
    rw [List.getElem?_eq_none (Nat.le_of_not_lt h), List.getElem?_replicate]
    split <;> rfl

theorem started_byte (x : Nat) (h1 : 0x21000 ≤ x) : memGet started.mem (pageKey 0 1 0 + x) = vof.getD (x - 0x21000) 0 := by
  have hk (a : Nat) : pageKey 0 1 a = pageKey 0 1 0 + a := by simp [pageKey]
  have he : memGet [] (pageKey 0 1 0 + x) = 0 := rfl
  rw [started_mem, loading, memGet_memWrite, memGet_memWrite_other, he, lastCell_cellsOf, if_pos (by rw [hk 0x21000]; exact Nat.add_le_add_left h1 _),
    hk 0x21000, Nat.add_sub_add_left, vof, getD_append_zeros]
  intro c hc
  have := mem_cellsOf _ _ c hc
  rw [words_length.2, hk 0x20000] at this
  omega

theorem mapM_span (f : Nat → Byte) (l : List Byte) (k : Nat) (h : ∀ i, i < l.length → f (k + i) = l.getD i 0) :
    ((span k l.length).map fun x => some (f x)).mapM id = some l := by
  induction l generalizing k with
  | nil => rfl
  | cons b l ih =>
    have h0 := h 0 (by simp)
    have h1 := ih (k + 1) fun i hi => by
      have := h (i + 1) (by simpa using hi)
      rwa [show k + 1 + i = k + (i + 1) by omega]
    simp at h0
    simp [span, h0, h1]

theorem started_objectAt : started.objectAt 0 1 0x21000 8520 = (started, some vof) := by
  obtain ⟨-, -, hb, ht⟩ := onePage_is
  have hl (x : Nat) (h1 : 0x20000 ≤ x) (h2 : x < 0x30000) : started.home 0 1 x = some (0, onePage) := by
    rw [State.home, started_page x h1 h2]
    exact if_neg (by decide +kernel)
  have hn : started.latent = [] := by decide +kernel
  have hr : started.reachable 0 0 = true := by decide +kernel
  have hc : started.runCode 0 1 0x21000 8520 true false = 0 := by decide +kernel
  have hread := pageRead_clean started 0 1 0x21000 8520 (pageKey 0 1 0) fun x h1 h2 => by
    have hf := started_page x (by omega) (by omega)
    refine ⟨⟨0, _, hl x (by omega) (by omega), hr⟩, ?_, ?_⟩
    · simp [State.touchLine, hn, hl x (by omega) (by omega), Page.lineBad, hb]
    · rw [State.vkey, hf]
      simp [Page.key, pageKey, ht]
  have hm := mapM_span (fun x => memGet started.mem (pageKey 0 1 0 + x)) vof 0x21000 fun i _ => by
    rw [started_byte _ (by omega), Nat.add_sub_cancel_left]
  rw [vof_length] at hm
  rw [State.objectAt, if_neg (by rw [hc]; simp), hread]
  exact congrArg (Prod.mk started) hm

theorem witness_KernelRecords_load :
    loading.chosen 0 = some (.queue 63) ∧ loading.headFate 0 63 = .ready kloadRec ∧ recKind kloadRec = 6 ∧
    ((loading.startRec 0 63 kloadRec).2.ctx 0 ((loading.hostQ 0 63).asid)).nextKernel = 2 ∧ base.ev.j ≠ 1 ∧
    started.objectAt 0 ((loading.hostQ 0 63).asid) (recOp kloadRec 1) (recOp kloadRec 2) = (started, some vof) ∧
    (started.imageBase 0 1 2 (ceilDiv (4 * (imageWords (objRecs vof (objSecs vof))).length) (2 ^ 16))).isSome = true := by
  have hq : loading.hostQ 0 63 = { HostQ.init with st := 1, asid := 1, recs := [{ addr := 0x20000, pins := [] }] } := by decide +kernel
  have hh : loading.hubRead 0 63 0x20000 64 false = .ok (6 + 0x21000 * 2 ^ 64 + 8520 * 2 ^ 128) := reads_eq (by decide +kernel)
  refine ⟨by decide +kernel, headFate_ready hq rfl rfl hh (by decide +kernel) (by decide +kernel) (by decide)
    (if_neg (by decide)) (by decide +kernel), by decide, by decide +kernel, by decide, ?_, ?_⟩
  · rw [hq]
    exact started_objectAt
  · rw [State.imageBase, List.find?_isSome]
    exact ⟨0x30000, List.mem_cons_of_mem _ (by decide +kernel), by decide +kernel⟩

/-- An object that cannot be read, and one that no key helps: eight bytes. Kernels in the states of which KUNLOAD speaks. -/
theorem witness_KernelRecords_other :
    (let s := queued base 63 [] []
     (s.objectAt 0 1 0x30000 64).2 = none ∧ (s.objectAt 0 1 0x20000 8).2 = some (List.replicate 8 0)) ∧
    (∀ p ∈ [(0, KState.loaded), (0, .active), (0, .unloaded), (0, .refused), (0, .unloading), (0, .loading)],
      let s := queued (ctxAt base fun c => c.setKernel 1 { c.kernel 1 with st := p.2 }) 63 [0x20000] (recOf 7 [1])
      s.chosen 0 = some (.queue 63) ∧ recKind (recOf 7 [1]) = 7 ∧ recOp (recOf 7 [1]) 1 = 1 ∧
      (((s.startRec 0 63 (recOf 7 [1])).2.ctx 0 1).kernel 1).st = p.2) := by decide +kernel
theorem witness_KernelRecords_refused (keys : List (List Byte)) (n : Nat) : objBad keys n (List.replicate 8 0) = some (1, 0) := by
  rw [objBad, show check1 (List.replicate 8 0) = some (1, 0) by decide +kernel]
/-- The first checks at their edges: objects that are too short or not of this version, one whose program header says no quads. -/
theorem witness_KernelRecords_checks :
    (let h (o : List Byte) (off n : Nat) : Nat := leNat ((o.drop off).take n)
     (List.replicate 63 (0 : Byte)).length < 64 ∧ h vof 0 4 = 0x01464F56 ∧ 2 ≤ h vof 12 4 ∧ h vof 12 4 ≤ 32 ∧ h vof 4 2 = 1 ∧ h vof 8 4 ≤ 8 ∧
     (let o := vof.set 8 9
      check1 o = none ∧ h o 8 4 > 8) ∧
     (let o := vof.set 192 0
      check1 o = none ∧ h o 4 2 = 1 ∧ h o 8 4 ≤ 8 ∧ h o (secOf (objSecs o) 1).off 8 % 1024 = 0)) := by decide +kernel
theorem witness_KernelRecords_unload (st : KState) :
    let s := queued (ctxAt base fun c => c.setKernel 1 { c.kernel 1 with st := st }) 63 [0x20000] (recOf 7 [1])
    s.headFate 0 63 = .ready (recOf 7 [1]) := by
  intro s
  have hq : s.hostQ 0 63 = { HostQ.init with st := 1, asid := 1, recs := [{ addr := 0x20000, pins := [] }] } := by
    cases st <;> decide +kernel
  have hh : s.hubRead 0 63 0x20000 64 false = .ok (7 + 2 ^ 64) := by
    cases st <;> exact reads_eq (by decide +kernel)
  refine headFate_ready hq rfl rfl hh (by decide +kernel) (by decide +kernel) (by decide) (if_neg (by decide)) ?_
  cases st <;> decide +kernel

end Sys2Proof.Tests
end

section
/-! SUPPORT. Loads and stores of K, QF and QU (spec 06, R150 to R152). -/

namespace Sys2Proof.Machine

open Sys2Proof

-- Bytes of a number ------------------------------------------------------------------------------------------------------------

/-- Byte i of a word that holds a little-endian number of up to 8 bytes is byte i of the number, and zero above it (R43). -/
theorem extract_ofNat_leNat (bs : List Byte) (i : Nat) (hn : bs.length ≤ 8) :
    (BitVec.ofNat 64 (leNat bs)).extractLsb' (8 * i) 8 = bs.getD i 0 := by
  have hlt : leNat bs < 2 ^ 64 :=
    calc leNat bs < 256 ^ bs.length := leNat_lt bs
      _ ≤ 256 ^ 8 := Nat.pow_le_pow_right (by decide) hn
      _ = 2 ^ 64 := by decide
  have hdiv : ∀ (l : List Byte) (j : Nat), leNat l / 2 ^ (8 * j) % 2 ^ 8 = (l.getD j 0).toNat := by
    intro l
    induction l with
    | nil => intro j; simp [leNat]
    | cons b l ih =>
      intro j
      have hb := b.isLt
      cases j with
      | zero =>
        simp only [leNat, Nat.mul_zero, Nat.pow_zero, Nat.div_one, List.getD_cons_zero]
        omega
      | succ j =>
        have hq : leNat (b :: l) / 2 ^ 8 = leNat l := by
          rw [leNat]
          omega
        rw [Nat.mul_succ, Nat.add_comm, Nat.pow_add, ← Nat.div_div_eq_div_mul, hq, ih j, List.getD_cons_succ]
  apply BitVec.eq_of_toNat_eq
  rw [BitVec.extractLsb'_toNat, BitVec.toNat_ofNat, Nat.mod_eq_of_lt hlt, Nat.shiftRight_eq_div_pow, hdiv]

theorem getD_map_span (f : Nat → Byte) (a n i : Nat) : ((span a n).map f).getD i 0 = if i < n then f (a + i) else 0 := by
  induction n generalizing a i with
  | zero => simp [span]
  | succ n ih =>
    cases i with
    | zero => simp [span]
    | succ i =>
      rw [span, List.map_cons, List.getD_cons_succ, ih, Nat.add_right_comm, Nat.add_assoc]
      simp only [Nat.add_lt_add_iff_right]

/-- Byte i of what a read of n bytes delivers, zero-extended (R43, R150). -/
theorem State.extract_read (s : State) (q : SeqId) (a n i : Nat) (hn : n ≤ 8) :
    (BitVec.ofNat 64 (s.read q a n)).extractLsb' (8 * i) 8 = if i < n then s.byte q (a + i) else 0 := by
  rw [State.read, extract_ofNat_leNat _ _ (by simpa [State.bytes] using hn), State.bytes, getD_map_span]

/-- The cell of byte i of a number's little-endian bytes. -/
theorem lastCell_leBytes (v : Word) (a n i : Nat) (h : i < n) :
    lastCell (cellsOf a (leBytes n v.toNat)) (a + i) = some (v.extractLsb' (8 * i) 8) := by
  rw [lastCell_cellsOf, if_pos (Nat.le_add_right a i), Nat.add_sub_cancel_left, leBytes_getElem? n _ i h]
  congr 1
  apply BitVec.eq_of_toNat_eq
  rw [BitVec.extractLsb'_toNat, BitVec.toNat_ofNat, Nat.shiftRight_eq_div_pow, show (256 : Nat) = 2 ^ 8 by decide, ← Nat.pow_mul]

-- Words that a write makes good ------------------------------------------------------------------------------------------------

theorem State.healWords_rest (s : State) (a n : Nat) :
    s.healWords a n = { s with latent := (s.healWords a n).latent, bad := (s.healWords a n).bad } := by
  simp only [State.healWords]
  split <;> rfl

theorem State.healWords_transit (s : State) (a n : Nat) : (s.healWords a n).transit = s.transit := by rw [State.healWords_rest]

theorem State.healWords_ids (s : State) (a n : Nat) : (s.healWords a n).ids = s.ids := by rw [State.healWords_rest]

theorem State.byte_healWords (s : State) (a n : Nat) (q : SeqId) (x : Nat) : (s.healWords a n).byte q x = s.byte q x := by
  rw [State.healWords_rest]
  rfl

-- The effect of a store ----------------------------------------------------------------------------------------------------------

/-- The state after a K store of the low n bytes of a word has performed at core scope, before the stream goes on. -/
def State.storedK (s : State) (q : SeqId) (ea n : Nat) (v : Word) : State :=
  ((s.healWords ea n).store q 1 (cellsOf ea (leBytes n v.toNat))).2

/-- A store changes the memory's bookkeeping alone. -/
theorem State.storedK_rest (s : State) (q : SeqId) (ea n : Nat) (v : Word) :
    s.storedK q ea n v = { s with
      ids := s.ids + 1, transit := (s.storedK q ea n v).transit, latent := (s.storedK q ea n v).latent, bad := (s.storedK q ea n v).bad } := by
  have h : s.storedK q ea n v = { s.healWords ea n with ids := (s.healWords ea n).ids + 1, transit := (s.storedK q ea n v).transit } := rfl
  conv_lhs => rw [h, State.healWords_ids, State.healWords_rest]
  rfl

/-- The store joins the stores in transit at core scope (R150). -/
theorem State.storedK_transit (s : State) (q : SeqId) (ea n : Nat) (v : Word) :
    ∃ st : Store, (s.storedK q ea n v).transit = st.enter s.transit ∧ st.who = q ∧ st.lvl = 1 := by
  rw [← State.healWords_transit s ea n]
  exact ⟨_, rfl, rfl, rfl⟩

/-- Its own stream reads the stored bytes at once (R152). -/
theorem State.byte_storedK (s : State) (q : SeqId) (ea n : Nat) (v : Word) (i : Nat) (h : i < n) :
    (s.storedK q ea n v).byte q (ea + i) = v.extractLsb' (8 * i) 8 := by
  rw [State.storedK, State.byte_store, lastCell_leBytes v ea n i h, Option.getD_some]

/-- Every other byte reads as before, to every sequencer. -/
theorem State.byte_storedK_other (s : State) (q : SeqId) (ea n : Nat) (v : Word) (r : SeqId) (x : Nat) (h : x < ea ∨ x ≥ ea + n) :
    (s.storedK q ea n v).byte r x = s.byte r x := by
  rw [State.storedK, State.byte_store_other, State.byte_healWords]
  intro c hc
  have := mem_cellsOf _ _ c hc
  rw [length_leBytes] at this
  omega

-- The checks ---------------------------------------------------------------------------------------------------------------------

/-- A sound address that is no multiple of the access's size gives ADDR_FAULT with cause 5, on a read and on a write (R151). -/
theorem State.checks_misaligned (s : State) (q : SeqId) (ea n size : Nat) (h : s.cause14 q ea = none) (hm : ea % size ≠ 0) :
    s.readCheck q ea n size = some { code := tcAddr, addr := ea, info := 5 } ∧
      s.writeCheck q ea n size = some { code := tcAddr, addr := ea, info := 5 } := by
  simp [State.readCheck, State.writeCheck, State.cause15, h, hm]

/-- An address trap finds no error of a word. -/
theorem State.trapRead_addr (s : State) (q : SeqId) (a c ea n : Nat) :
    s.trapRead q { code := tcAddr, addr := a, info := c } ea n = s.trap q { code := tcAddr, addr := a, info := c } := rfl

-- The four instructions

theorem exec_kld (d a : BitVec 5) (imm : BitVec 16) (s : State) : exec (.kld d a imm) s = loadK s d a imm 8 := rfl
theorem exec_kldw (d a : BitVec 5) (imm : BitVec 16) (s : State) : exec (.kldw d a imm) s = loadK s d a imm 4 := rfl
theorem exec_kst (d a : BitVec 5) (imm : BitVec 16) (s : State) : exec (.kst d a imm) s = storeK s d a imm 8 := rfl
theorem exec_kstw (d a : BitVec 5) (imm : BitVec 16) (s : State) : exec (.kstw d a imm) s = storeK s d a imm 4 := rfl

-- What a load and a store do -----------------------------------------------------------------------------------------------------

section
variable {s : State} (d a : BitVec 5) (imm : BitVec 16) (n : Nat) (hc : isCtl s.cur.kind = true)
include hc

theorem loadK_trap {t : Trap} (h : s.readCheck s.cur (s.kea s.cur a imm) n n = some t) :
    loadK s d a imm n = .next (s.trapRead s.cur t (s.kea s.cur a imm) n) := by
  simp only [loadK, onK, hc, if_true, h]

theorem loadK_waits (h : s.readCheck s.cur (s.kea s.cur a imm) n n = none) (ho : s.ownOpen s.cur (s.kea s.cur a imm) n = true) :
    loadK s d a imm n = .next s := by
  simp only [loadK, onK, hc, if_true, h, ho]

theorem loadK_delivers (h : s.readCheck s.cur (s.kea s.cur a imm) n n = none) (ho : s.ownOpen s.cur (s.kea s.cur a imm) n = false) :
    loadK s d a imm n = .next (s.finK s.cur d (BitVec.ofNat 64 (s.read s.cur (s.kea s.cur a imm) n))) := by
  simp only [loadK, onK, hc, if_true, h, ho, Bool.false_eq_true, if_false]

theorem storeK_trap {t : Trap} (h : s.writeCheck s.cur (s.kea s.cur a imm) n n = some t) :
    storeK s d a imm n = .next (s.trapRead s.cur t (s.kea s.cur a imm) n) := by
  simp only [storeK, onK, hc, if_true, h]

theorem storeK_stores (h : s.writeCheck s.cur (s.kea s.cur a imm) n n = none) :
    storeK s d a imm n = .next ((s.storedK s.cur (s.kea s.cur a imm) n (s.getK s.cur d)).fin s.cur) := by
  simp only [storeK, onK, hc, if_true, h, State.storedK]

/-- A load from a sound address that is no multiple of its size is an address trap with cause 5 (R151). -/
theorem loadK_misaligned (h : s.cause14 s.cur (s.kea s.cur a imm) = none) (hm : s.kea s.cur a imm % n ≠ 0) :
    loadK s d a imm n = .next (s.trap s.cur { code := tcAddr, addr := s.kea s.cur a imm, info := 5 }) := by
  rw [loadK_trap d a imm n hc (s.checks_misaligned s.cur _ n n h hm).1, State.trapRead_addr]

/-- So is a store: it writes nothing. -/
theorem storeK_misaligned (h : s.cause14 s.cur (s.kea s.cur a imm) = none) (hm : s.kea s.cur a imm % n ≠ 0) :
    storeK s d a imm n = .next (s.trap s.cur { code := tcAddr, addr := s.kea s.cur a imm, info := 5 }) := by
  rw [storeK_trap d a imm n hc (s.checks_misaligned s.cur _ n n h hm).2, State.trapRead_addr]

end

/-- A load whose checks pass: it delivers the bytes where no store of its own stream to them is in flight, and waits where one is. -/
theorem loadK_spec (s : State) (d a : BitVec 5) (imm : BitVec 16) (n : Nat) (hn : n ≤ 8) (hc : isCtl s.cur.kind = true)
    (h : s.readCheck s.cur (s.kea s.cur a imm) n n = none) :
    (s.ownOpen s.cur (s.kea s.cur a imm) n = false → ∃ t v, loadK s d a imm n = .next t ∧ KNext s t s.cur d v ∧
      ∀ i, i < 8 → v.extractLsb' (8 * i) 8 = if i < n then s.byte s.cur (s.kea s.cur a imm + i) else 0) ∧
    (s.ownOpen s.cur (s.kea s.cur a imm) n = true → loadK s d a imm n = .next s) :=
  ⟨fun ho => ⟨_, _, loadK_delivers d a imm n hc h ho, KNext.fin s _ d _ hc, fun i _ => s.extract_read _ _ n i hn⟩,
    loadK_waits d a imm n hc h⟩

/-- A store whose checks pass: the low bytes of k[D] at the address, and nothing else. -/
theorem storeK_spec (s : State) (d a : BitVec 5) (imm : BitVec 16) (n : Nat) (hc : isCtl s.cur.kind = true)
    (h : s.writeCheck s.cur (s.kea s.cur a imm) n n = none) :
    ∃ t m, storeK s d a imm n = .next t ∧ KNext m t s.cur 0 0 ∧
      m = { s with ids := s.ids + 1, transit := m.transit, latent := m.latent, bad := m.bad } ∧
      (∀ i, i < n → t.byte s.cur (s.kea s.cur a imm + i) = (s.getK s.cur d).extractLsb' (8 * i) 8) ∧
      (∀ r x, x < s.kea s.cur a imm ∨ x ≥ s.kea s.cur a imm + n → t.byte r x = s.byte r x) ∧
      ∃ st : Store, t.transit = st.enter s.transit ∧ st.who = s.cur ∧ st.lvl = 1 := by
  have hk := KNext.fin0 (s.storedK s.cur (s.kea s.cur a imm) n (s.getK s.cur d)) s.cur hc
  obtain ⟨st, htr, hst⟩ := s.storedK_transit s.cur (s.kea s.cur a imm) n (s.getK s.cur d)
  refine ⟨_, _, storeK_stores d a imm n hc h, hk, State.storedK_rest .., fun i hi => ?_, fun r x hx => ?_, st, ?_, hst⟩
  · rw [hk.mem, State.byte_storedK _ _ _ _ _ i hi]
  · rw [hk.mem, State.byte_storedK_other _ _ _ _ _ _ _ hx]
  · rw [hk.rest]
    exact htr

/-- Settles O6. Each clause is the rule of a load, of a store, or of a misaligned access, for 8 and for 4 bytes. -/
theorem kMemory : Obligations.KMemory := by
  unfold Obligations.KMemory
  refine ⟨fun s d a imm hc => ?_, fun s d a imm hc => ?_, fun s d a imm hc => ?_⟩
  · simp only [List.forall_mem_cons, List.not_mem_nil, false_implies, implies_true, and_true, exec_kld, exec_kldw]
    exact ⟨loadK_spec s d a imm 8 (by decide) hc, loadK_spec s d a imm 4 (by decide) hc⟩
  · simp only [List.forall_mem_cons, List.not_mem_nil, false_implies, implies_true, and_true, exec_kst, exec_kstw]
    exact ⟨storeK_spec s d a imm 8 hc, storeK_spec s d a imm 4 hc⟩
  · intro ea h14
    simp only [List.forall_mem_cons, List.not_mem_nil, false_implies, implies_true, and_true, exec_kld, exec_kldw, exec_kst, exec_kstw]
    exact ⟨loadK_misaligned d a imm 8 hc h14, loadK_misaligned d a imm 4 hc h14, storeK_misaligned d a imm 8 hc h14,
      storeK_misaligned d a imm 4 hc h14⟩

end Sys2Proof.Machine
end

section
/-! SUPPORT. The finite values of a floating format as one strictly increasing sequence (spec 02, R45, R49). A code without its sign is a
*body*: an exponent field above t trailing bits. -/

namespace Sys2Proof.Machine

open Sys2Proof

-- Bodies -------------------------------------------------------------------------------------------------------------------------

/-- How far the quantum of a body lies above that of the smallest values: its exponent field less one, and 0 for the field 0. -/
def binade (t b : Nat) : Nat := b / 2 ^ t - 1

/-- The magnitude of a body in its own quanta: the trailing field below the implicit bit, where the exponent field is not 0. -/
def sig (t b : Nat) : Nat := b - binade t b * 2 ^ t

/-- The magnitude of a body as a multiple of the smallest positive one. -/
def bodyMag (t b : Nat) : Nat := sig t b * 2 ^ binade t b

theorem binade_mul_le (t b : Nat) : binade t b * 2 ^ t ≤ b := by
  calc binade t b * 2 ^ t ≤ b / 2 ^ t * 2 ^ t := Nat.mul_le_mul_right _ (Nat.sub_le _ _)
    _ ≤ b := Nat.div_mul_le_self _ _

theorem sig_add (t b : Nat) : sig t b + binade t b * 2 ^ t = b := Nat.sub_add_cancel (binade_mul_le t b)

theorem sig_lt (t b : Nat) : sig t b < 2 ^ (t + 1) := by
  have h := sig_add t b
  have hb : b < 2 ^ t * (b / 2 ^ t + 1) := Nat.lt_mul_div_succ b (Nat.two_pow_pos t)
  have h2 : b / 2 ^ t + 1 ≤ binade t b + 2 := by unfold binade; omega
  have h3 : 2 ^ t * (b / 2 ^ t + 1) ≤ (binade t b + 2) * 2 ^ t := Nat.mul_comm _ _ ▸ Nat.mul_le_mul_right _ h2
  rw [Nat.add_mul] at h3
  rw [Nat.pow_succ]
  omega

theorem sig_ge (t b : Nat) : binade t b = 0 ∨ 2 ^ t ≤ sig t b := by
  rcases Nat.eq_zero_or_pos (binade t b) with h | h
  · exact .inl h
  · right
    have h1 : binade t b + 1 = b / 2 ^ t := by unfold binade at h ⊢; omega
    have h2 : (binade t b + 1) * 2 ^ t ≤ b := h1 ▸ Nat.div_mul_le_self b (2 ^ t)
    have h3 := sig_add t b
    rw [Nat.add_mul] at h2
    omega

/-- A body is known by its magnitude in quanta and its quantum. -/
theorem sig_binade_unique {t m d : Nat} (hm : m < 2 ^ (t + 1)) (hd : d = 0 ∨ 2 ^ t ≤ m) :
    sig t (m + d * 2 ^ t) = m ∧ binade t (m + d * 2 ^ t) = d := by
  have hp := Nat.two_pow_pos t
  have hq : (m + d * 2 ^ t) / 2 ^ t = m / 2 ^ t + d := Nat.add_mul_div_right m d hp
  have hlt : m / 2 ^ t < 2 := (Nat.div_lt_iff_lt_mul hp).mpr (by rw [Nat.pow_succ] at hm; omega)
  have hb : binade t (m + d * 2 ^ t) = d := by
    unfold binade
    rcases hd with rfl | hd
    · omega
    · have : 1 ≤ m / 2 ^ t := (Nat.one_le_div_iff hp).mpr hd
      omega
  refine ⟨?_, hb⟩
  unfold sig
  rw [hb, Nat.add_sub_cancel]

/-- The body of m quanta at the d-th quantum; m may be the first magnitude of the next one. -/
theorem bodyMag_add {t m d : Nat} (hm : m ≤ 2 ^ (t + 1)) (hd : d = 0 ∨ 2 ^ t ≤ m) : bodyMag t (m + d * 2 ^ t) = m * 2 ^ d := by
  rcases Nat.lt_or_ge m (2 ^ (t + 1)) with h | h
  · obtain ⟨h1, h2⟩ := sig_binade_unique h hd
    rw [bodyMag, h1, h2]
  · have e : m + d * 2 ^ t = 2 ^ t + (d + 1) * 2 ^ t := by
      rw [Nat.le_antisymm hm h, Nat.pow_succ]
      ring
    obtain ⟨h1, h2⟩ := sig_binade_unique (t := t) (m := 2 ^ t) (d := d + 1)
      (Nat.pow_lt_pow_right (by decide) (Nat.lt_succ_self t)) (.inr (Nat.le_refl _))
    rw [bodyMag, e, h1, h2, Nat.le_antisymm hm h]
    ring

theorem bodyMag_eq_zero {t b : Nat} : bodyMag t b = 0 ↔ b = 0 := by
  constructor
  · intro h
    have hs : sig t b = 0 := by simpa [bodyMag] using h
    rcases sig_ge t b with hb | hb
    · have := sig_add t b
      rw [hs, hb] at this
      omega
    · have := Nat.two_pow_pos t
      omega
  · rintro rfl
    simp [bodyMag, sig]

/-- The magnitudes of the bodies grow with them. -/
theorem bodyMag_strictMono (t : Nat) : StrictMono (bodyMag t) := by
  refine strictMono_nat_of_lt_succ fun b => ?_
  have hb : b + 1 = (sig t b + 1) + binade t b * 2 ^ t := by
    have := sig_add t b
    omega
  rw [hb, bodyMag_add (sig_lt t b) ((sig_ge t b).imp id fun h => Nat.le_succ_of_le h), bodyMag]
  exact Nat.mul_lt_mul_of_pos_right (Nat.lt_succ_self _) (Nat.two_pow_pos _)

/-- No body lies strictly between two neighbours of one quantum. -/
theorem bodyMag_gap {t lo d : Nat} (hlo : lo < 2 ^ (t + 1)) (hd : d = 0 ∨ 2 ^ t ≤ lo) (b : Nat) :
    bodyMag t b ≤ lo * 2 ^ d ∨ (lo + 1) * 2 ^ d ≤ bodyMag t b := by
  rw [← bodyMag_add hlo.le hd, ← bodyMag_add hlo (hd.imp id Nat.le_succ_of_le), (bodyMag_strictMono t).le_iff_le,
    (bodyMag_strictMono t).le_iff_le]
  omega

-- Codes --------------------------------------------------------------------------------------------------------------------------

/-- The trailing bits of a format. -/
def Fmt.trail (f : Fmt) : Nat := f.prec - 1

/-- A floating format with the precision that R43 and R45 give it. -/
structure Fmt.Floating (f : Fmt) : Prop where
  float : f.isFloat = true
  prec_le : f.isB8 = true → f.prec ≤ 7
  prec_pos : 1 ≤ f.prec

theorem Fmt.Floating.trail_add {f : Fmt} (h : f.Floating) : ((f.prec : Nat) : Int) - 1 = (f.trail : Int) := by
  have := h.prec_pos
  unfold Fmt.trail
  omega

/-- The formats that R44 gives a code have the precisions of R43. -/
theorem Fmt.floating_of_code {n : Nat} {f : Fmt} (h : fmtOfCode n = some f) (hf : f.isFloat = true) : f.Floating := by
  cases f with
  | b8 k u fin =>
    have hk : 1 ≤ k ∧ k ≤ 7 := by
      unfold fmtOfCode at h
      split at h
      iterate 8 (· cases h)
      split at h
      · next hc =>
        simp only [Option.some.injEq, Fmt.b8.injEq] at h
        omega
      · cases h
    exact ⟨rfl, fun _ => hk.2, hk.1⟩
  | f32 | bf16 | f16 => exact ⟨rfl, nofun, by decide⟩
  | _ => cases hf

theorem Fmt.floating_of_ieee {f : Fmt} (h : f.isIeee = true) : f.Floating := by
  cases f with
  | f32 | bf16 | f16 => exact ⟨rfl, nofun, by decide⟩
  | _ => cases h

theorem Fmt.isB8_of_ieee {f : Fmt} (h : f.isIeee = true) : f.isB8 = false := by
  cases f with
  | b8 => cases h
  | _ => rfl

/-- The sign of a code. -/
def signCode (f : Fmt) (neg : Bool) : Nat :=
  match f with
  | .f32 => if neg then 2 ^ 31 else 0
  | .bf16 | .f16 => if neg then 2 ^ 15 else 0
  | .b8 _ u _ => if neg && !u then 128 else 0
  | _ => 0

/-- The value of a body under a sign. -/
def bodyVal (f : Fmt) (neg : Bool) (b : Nat) : Val := .num neg (sig f.trail b) (f.esub + binade f.trail b) false

/-- The greatest finite body (R45, R50). -/
def maxBody (f : Fmt) : Nat := maxFinCode f false

/-- A sign that a body can have: a binary8 format has no −0, and an unsigned one no sign (R49). -/
def signFits (f : Fmt) (neg : Bool) (b : Nat) : Prop := f.isB8 = true → neg = true → b ≠ 0 ∧ f.isUnsignedB8 = false

/-- The code of a magnitude of m quanta, d quanta above the smallest, is its sign and its body. -/
theorem codeOf_eq {f : Fmt} (hf : f.Floating) {neg : Bool} {m d : Nat} (hm0 : m = 0 → f.isB8 = false) (hm : m ≤ 2 ^ (f.trail + 1))
    (hd : d = 0 ∨ 2 ^ f.trail ≤ m) : codeOf f neg m (f.esub + d) = signCode f neg + (m + d * 2 ^ f.trail) := by
  have hp : (f.prec : Int) - 1 = f.trail := hf.trail_add
  have hp1 : f.prec - 1 = f.trail := rfl
  have hes : f.esub = f.emin - f.trail := by unfold Fmt.esub; rw [hp]
  have hpow := Nat.two_pow_pos f.trail
  unfold codeOf
  simp only [hp, hp1]
  by_cases h0 : m = 0
  · subst h0
    have hd0 : d = 0 := by omega
    subst hd0
    rw [if_pos rfl, hm0 rfl]
    change signCode f neg = _
    simp
  · have hlog1 : m.log2 ≤ f.trail + 1 := by
      have := (Nat.log2_lt h0).mpr (lt_of_le_of_lt hm (Nat.pow_lt_pow_right (by decide) (Nat.lt_succ_self _)))
      omega
    have hlog2 : f.trail ≤ m.log2 ∨ d = 0 ∧ m.log2 < f.trail := by
      rcases Nat.lt_or_ge m.log2 f.trail with h | h
      · exact .inr ⟨hd.resolve_right fun h2 => absurd ((Nat.le_log2 h0).mpr h2) (by omega), h⟩
      · exact .inl h
    rw [if_neg h0]
    rcases hlog2 with hl | ⟨rfl, hl⟩
    · have hn : ¬((m.log2 : Int) + (f.esub + d) < f.emin) := by omega
      have hE : ((m.log2 : Int) + (f.esub + d) + f.bias).toNat = m.log2 - f.trail + d + 1 := by
        have : f.emin = 1 - f.bias := rfl
        omega
      have hq1 : (f.esub + d - ((m.log2 : Int) + (f.esub + d) - f.trail)).toNat = 0 := by omega
      have hq2 : ((m.log2 : Int) + (f.esub + d) - f.trail - (f.esub + d)).toNat = m.log2 - f.trail := by omega
      rw [if_neg hn, hE, hq1, hq2]
      change signCode f neg + (m.log2 - f.trail + d + 1) * 2 ^ f.trail + (m * 2 ^ 0 / 2 ^ (m.log2 - f.trail) - 2 ^ f.trail) = _
      rcases (show m.log2 = f.trail ∨ m.log2 = f.trail + 1 by omega) with e | e
      · have hge : 2 ^ f.trail ≤ m := (Nat.le_log2 h0).mp (by omega)
        rw [e, Nat.sub_self, Nat.pow_zero, Nat.mul_one, Nat.div_one, Nat.zero_add, Nat.add_mul, Nat.one_mul]
        omega
      · have hge : 2 ^ (f.trail + 1) ≤ m := (Nat.le_log2 h0).mp e.ge
        have hm2 : m = 2 ^ f.trail * 2 := Nat.le_antisymm hm hge
        rw [e, Nat.add_sub_cancel_left, Nat.pow_zero, Nat.mul_one, Nat.pow_one, hm2, Nat.mul_div_cancel _ (by decide), Nat.add_mul,
          Nat.add_mul]
        omega
    · have hlt : (m.log2 : Int) + (f.esub + (0 : Nat)) < f.emin := by omega
      rw [if_pos hlt]
      change signCode f neg + _ = _
      simp

-- Decoding -----------------------------------------------------------------------------------------------------------------------

theorem sig_of_field_zero {t b : Nat} (h : b / 2 ^ t = 0) : sig t b = b % 2 ^ t ∧ binade t b = 0 := by
  have hb : binade t b = 0 := by rw [binade, h]
  have h2 := Nat.div_add_mod b (2 ^ t)
  rw [h] at h2
  exact ⟨by rw [sig, hb]; omega, hb⟩

theorem sig_of_field_pos {t b : Nat} (h : b / 2 ^ t ≠ 0) :
    sig t b = 2 ^ t + b % 2 ^ t ∧ ((binade t b : Nat) : Int) = (b / 2 ^ t : Nat) - 1 := by
  have hb : binade t b + 1 = b / 2 ^ t := Nat.sub_add_cancel (Nat.one_le_iff_ne_zero.mpr h)
  have h1 := sig_add t b
  have h2 := Nat.div_add_mod b (2 ^ t)
  rw [← hb, Nat.mul_comm, Nat.add_mul] at h2
  exact ⟨by omega, by rw [← hb]; simp⟩

/-- The fields of a layout are those of its body. -/
theorem decodeIeee_eq (eb tb c : Nat) :
    decodeIeee eb tb c =
      let neg := bitAt c (eb + tb)
      let b := c % 2 ^ (eb + tb)
      if b / 2 ^ tb = 2 ^ eb - 1 then if b % 2 ^ tb = 0 then .inf neg else .nan (!(bitAt c (tb - 1)))
      else .num neg (sig tb b) (1 - (2 ^ (eb - 1) - 1) - tb + binade tb b) false := by
  have hE : field c tb eb = c % 2 ^ (eb + tb) / 2 ^ tb := by
    rw [field, Nat.shiftRight_eq_div_pow, Nat.add_comm, Nat.pow_add, Nat.mod_mul_right_div_self]
  have hT : field c 0 tb = c % 2 ^ (eb + tb) % 2 ^ tb := by
    rw [field, Nat.shiftRight_zero, Nat.mod_mod_of_dvd _ (Nat.pow_dvd_pow 2 (Nat.le_add_left tb eb))]
  unfold decodeIeee
  simp only [hE, hT]
  generalize c % 2 ^ (eb + tb) = b
  by_cases h1 : b / 2 ^ tb = 2 ^ eb - 1
  · rw [if_pos h1, if_pos h1]
  · rw [if_neg h1, if_neg h1]
    by_cases h0 : b / 2 ^ tb = 0
    · obtain ⟨hs, hb⟩ := sig_of_field_zero h0
      rw [if_pos h0, hs, hb]
      simp
    · obtain ⟨hs, hb⟩ := sig_of_field_pos h0
      rw [if_neg h0, hs, hb]
      congr 1
      ring

theorem decodeIeee_split {eb tb : Nat} (c : Nat) :
    let neg := bitAt c (eb + tb)
    let b := c % 2 ^ (eb + tb)
    let top := (2 ^ eb - 1) * 2 ^ tb
    (b < top → decodeIeee eb tb c = .num neg (sig tb b) (1 - (2 ^ (eb - 1) - 1) - tb + binade tb b) false) ∧
      (b = top → decodeIeee eb tb c = .inf neg) ∧ (top < b → (decodeIeee eb tb c).isNan = true) := by
  have hb : c % 2 ^ (eb + tb) < 2 ^ eb * 2 ^ tb := Nat.pow_add 2 eb tb ▸ Nat.mod_lt c (Nat.two_pow_pos _)
  have hp := Nat.two_pow_pos tb
  have he := Nat.two_pow_pos eb
  rw [decodeIeee_eq]
  dsimp only
  generalize c % 2 ^ (eb + tb) = b at hb ⊢
  have hdm := Nat.div_add_mod b (2 ^ tb)
  have hml := Nat.mod_lt b hp
  refine ⟨fun h => ?_, fun h => ?_, fun h => ?_⟩
  · rw [if_neg ((Nat.div_lt_iff_lt_mul hp).mpr h).ne]
  · rw [if_pos (by rw [h, Nat.mul_div_cancel _ hp]), if_pos (by rw [h, Nat.mul_mod_left])]
  · have h1 : b / 2 ^ tb = 2 ^ eb - 1 := by
      have h2 := (Nat.le_div_iff_mul_le hp).mpr h.le
      have h3 := (Nat.div_lt_iff_lt_mul hp).mpr hb
      omega
    rw [if_pos h1, if_neg (by rw [h1, Nat.mul_comm] at hdm; omega)]
    rfl

/-- The IEEE formats: a body up to the greatest finite one is a number, the next is ∞, and every other a NaN (R45). -/
theorem decode_ieee {f : Fmt} (hf : f.isIeee = true) (c : Nat) :
    let neg := bitAt c (f.width - 1)
    let b := c % 2 ^ (f.width - 1)
    (b < infCode f false → decode f c = bodyVal f neg b) ∧ (b = infCode f false → decode f c = .inf neg) ∧
      (infCode f false < b → (decode f c).isNan = true) := by
  cases f with
  | f32 => exact decodeIeee_split (eb := 8) (tb := 23) c
  | bf16 => exact decodeIeee_split (eb := 8) (tb := 7) c
  | f16 => exact decodeIeee_split (eb := 5) (tb := 10) c
  | _ => cases hf

theorem maxBody_ieee {f : Fmt} (hf : f.isIeee = true) : maxBody f + 1 = infCode f false ∧ infCode f false < 2 ^ (f.width - 1) := by
  cases f with
  | f32 | bf16 | f16 => decide
  | _ => cases hf

/-- A code of an IEEE format is its sign and its body. -/
theorem signCode_add_ieee {f : Fmt} (hf : f.isIeee = true) {c : Nat} (hc : c < 2 ^ f.width) :
    signCode f (bitAt c (f.width - 1)) + c % 2 ^ (f.width - 1) = c := by
  have key : ∀ w, c < 2 ^ (w + 1) → (if bitAt c w = true then 2 ^ w else 0) + c % 2 ^ w = c := by
    intro w hw
    have h1 : c / 2 ^ w < 2 := (Nat.div_lt_iff_lt_mul (Nat.two_pow_pos w)).mpr (by rwa [Nat.pow_succ, Nat.mul_comm] at hw)
    have h2 := Nat.div_add_mod c (2 ^ w)
    unfold bitAt
    rw [Nat.shiftRight_eq_div_pow]
    generalize c / 2 ^ w = k at h1 h2 ⊢
    rcases (show k = 0 ∨ k = 1 by omega) with rfl | rfl <;> simpa using h2
  cases f with
  | f32 => exact key 31 hc
  | bf16 => exact key 15 hc
  | f16 => exact key 15 hc
  | _ => cases hf

/-- A sign and a body of an IEEE format are read back from their code. -/
theorem fields_signCode_add {f : Fmt} (hf : f.isIeee = true) {neg : Bool} {b : Nat} (hb : b < 2 ^ (f.width - 1)) :
    bitAt (signCode f neg + b) (f.width - 1) = neg ∧ (signCode f neg + b) % 2 ^ (f.width - 1) = b ∧ signCode f neg + b < 2 ^ f.width := by
  have key : ∀ w, b < 2 ^ w → bitAt ((if neg then 2 ^ w else 0) + b) w = neg ∧ ((if neg then 2 ^ w else 0) + b) % 2 ^ w = b ∧
      (if neg then 2 ^ w else 0) + b < 2 ^ (w + 1) := by
    intro w hw
    unfold bitAt
    rw [Nat.shiftRight_eq_div_pow]
    cases neg <;> simp [Nat.div_eq_of_lt hw, Nat.mod_eq_of_lt hw, Nat.pow_succ, Nat.add_div_left] <;> omega
  cases f with
  | f32 => exact key 31 hb
  | bf16 => exact key 15 hb
  | f16 => exact key 15 hb
  | _ => cases hf

theorem decode_signCode_ieee {f : Fmt} (hf : f.isIeee = true) {neg : Bool} {b : Nat} (hb : b ≤ maxBody f) :
    decode f (signCode f neg + b) = bodyVal f neg b := by
  obtain ⟨h1, h2⟩ := maxBody_ieee hf
  obtain ⟨hs, hm, -⟩ := fields_signCode_add hf (neg := neg) (show b < 2 ^ (f.width - 1) by omega)
  obtain ⟨hd, -⟩ := decode_ieee hf (signCode f neg + b)
  rw [hs, hm] at hd
  exact hd (by omega)

/-- A finite number of an IEEE format is the value of a body. -/
theorem decode_ieee_finite {f : Fmt} (hf : f.isIeee = true) {c : Nat} (hn : (decode f c).isNan = false) (hi : (decode f c).isInf = false) :
    c % 2 ^ (f.width - 1) ≤ maxBody f ∧ decode f c = bodyVal f (bitAt c (f.width - 1)) (c % 2 ^ (f.width - 1)) := by
  obtain ⟨h1, -⟩ := maxBody_ieee hf
  obtain ⟨hd, hinf, hnan⟩ := decode_ieee hf c
  rcases Nat.lt_trichotomy (c % 2 ^ (f.width - 1)) (infCode f false) with h | h | h
  · exact ⟨by omega, hd h⟩
  · rw [hinf h] at hi
    cases hi
  · rw [hnan h] at hn
    cases hn

-- The binary8 formats --------------------------------------------------------------------------------------------------------------

/-- What R49's formula gives a body of a binary8 format. -/
theorem decodeB8_formula (n : Nat) (u fin neg : Bool) (b : Nat) :
    (if b / 2 ^ (n - 1) = 0 then Val.num neg (b % 2 ^ (n - 1)) (1 - (Fmt.b8 n u fin).bias - ((n : Int) - 1)) false
      else .num neg (2 ^ (n - 1) + b % 2 ^ (n - 1)) ((b / 2 ^ (n - 1) : Nat) - (Fmt.b8 n u fin).bias - ((n : Int) - 1)) false)
      = bodyVal (.b8 n u fin) neg b := by
  have he : (Fmt.b8 n u fin).esub = 1 - (Fmt.b8 n u fin).bias - ((n : Int) - 1) := rfl
  unfold bodyVal
  rw [he, show (Fmt.b8 n u fin).trail = n - 1 from rfl]
  split
  · next h =>
    obtain ⟨hs, hb⟩ := sig_of_field_zero h
    rw [hs, hb]
    simp
  · next h =>
    obtain ⟨hs, hb⟩ := sig_of_field_pos h
    rw [hs, hb]
    congr 1
    ring

/-- A code of an unsigned binary8 format is its body. -/
theorem decode_b8_unsigned {n : Nat} {fin : Bool} (h7 : n ≤ 7) {c : Nat} (hc : c < 256) :
    decode (.b8 n true fin) c =
      if c = 255 then .nan false else if c = 254 ∧ !fin then .inf false else bodyVal (.b8 n true fin) false c := by
  rw [← decodeB8_formula n true fin false c]
  unfold decode decodeB8
  simp only [Nat.mod_eq_of_lt hc, if_true, Bool.not_true, Bool.false_and]
  rw [if_neg (by omega)]
  rfl

/-- A code of a signed binary8 format is its sign and the body below it. -/
theorem decode_b8_signed {n : Nat} {fin : Bool} (h7 : n ≤ 7) {c : Nat} (hc : c < 256) :
    decode (.b8 n false fin) c =
      if c = 128 then .nan false else if c % 128 = 127 ∧ !fin then .inf (bitAt c 7) else bodyVal (.b8 n false fin) (bitAt c 7) (c % 128) := by
  rw [← decodeB8_formula n false fin (bitAt c 7) (c % 128)]
  unfold decode decodeB8
  simp only [Nat.mod_eq_of_lt hc, if_false, Bool.not_false, Bool.true_and, Bool.false_eq_true]
  rw [if_neg (by omega)]
  rfl

/-- A code of a binary8 format that is neither NaN nor ∞ is the value of its body (R49). -/
theorem decode_b8_finite {n : Nat} {u fin : Bool} (h7 : n ≤ 7) {c : Nat} (hc : c < 256)
    (hn : (decode (.b8 n u fin) c).isNan = false) (hi : (decode (.b8 n u fin) c).isInf = false) :
    ∃ neg b, c = signCode (.b8 n u fin) neg + b ∧ b ≤ maxBody (.b8 n u fin) ∧ signFits (.b8 n u fin) neg b ∧
      decode (.b8 n u fin) c = bodyVal (.b8 n u fin) neg b := by
  cases u with
  | true =>
    rw [decode_b8_unsigned h7 hc] at hn hi ⊢
    split at hn
    · cases hn
    · next h255 =>
      rw [if_neg h255] at hi ⊢
      split at hi
      · cases hi
      · next h254 =>
        refine ⟨false, c, by simp [signCode], ?_, nofun, if_neg h254⟩
        cases fin <;> simp [maxBody, maxFinCode] at h254 ⊢ <;> omega
  | false =>
    rw [decode_b8_signed h7 hc] at hn hi ⊢
    split at hn
    · cases hn
    · next h128 =>
      rw [if_neg h128] at hi ⊢
      split at hi
      · cases hi
      · next h127 =>
        have hs : c / 128 = if bitAt c 7 then 1 else 0 := by
          simp only [bitAt, Nat.shiftRight_eq_div_pow, beq_iff_eq]
          split <;> omega
        refine ⟨bitAt c 7, c % 128, ?_, ?_, ?_, if_neg h127⟩
        · cases e : bitAt c 7 <;> simp [e, signCode] at hs ⊢ <;> omega
        · cases fin <;> simp [maxBody, maxFinCode] at h127 ⊢ <;> omega
        · intro _ e
          rw [if_pos e] at hs
          exact ⟨by omega, rfl⟩

/-- The greatest finite body of every floating format decodes to its value (R45, R50). -/
theorem decode_maxBody {f : Fmt} (hf : f.Floating) : decode f (maxBody f) = bodyVal f false (maxBody f) := by
  cases f with
  | b8 n u fin =>
    have h7 : n ≤ 7 := hf.prec_le rfl
    cases u with
    | true =>
      rw [decode_b8_unsigned h7 (by cases fin <;> simp [maxBody, maxFinCode])]
      cases fin <;> simp [maxBody, maxFinCode]
    | false =>
      rw [decode_b8_signed h7 (by cases fin <;> simp [maxBody, maxFinCode])]
      cases fin <;> simp [maxBody, maxFinCode, bitAt]
  | f32 => exact (decode_ieee (f := .f32) rfl _).1 (by decide)
  | bf16 => exact (decode_ieee (f := .bf16) rfl _).1 (by decide)
  | f16 => exact (decode_ieee (f := .f16) rfl _).1 (by decide)
  | _ => cases hf.float

/-- A code of a floating format that is neither NaN nor ∞ is a sign and a finite body, and its value is theirs. -/
theorem decode_finite {f : Fmt} (hf : f.Floating) {c : Nat} (hc : c < 2 ^ f.width) (hn : (decode f c).isNan = false)
    (hi : (decode f c).isInf = false) :
    ∃ neg b, c = signCode f neg + b ∧ b ≤ maxBody f ∧ signFits f neg b ∧ decode f c = bodyVal f neg b := by
  have ieee (h : f.isIeee = true) (h8 : f.isB8 = false) :
      ∃ neg b, c = signCode f neg + b ∧ b ≤ maxBody f ∧ signFits f neg b ∧ decode f c = bodyVal f neg b := by
    obtain ⟨hb, hd⟩ := decode_ieee_finite h hn hi
    exact ⟨_, _, (signCode_add_ieee h hc).symm, hb, fun h => absurd h (by simp [h8]), hd⟩
  cases f with
  | b8 n u fin => exact decode_b8_finite (hf.prec_le rfl) hc hn hi
  | f32 | bf16 | f16 => exact ieee rfl rfl
  | _ => cases hf.float

end Sys2Proof.Machine
end

section
/-! SUPPORT. One rounding (spec 02, R52): its quantum, its two neighbours, and which of them it picks. Magnitudes are compared as rationals. -/

namespace Sys2Proof.Machine

open Sys2Proof

-- The quantum and the lower neighbour ---------------------------------------------------------------------------------------------

/-- The exponent of the rounding quantum of a magnitude m·2^e (R52). -/
def quantum (f : Fmt) (m : Nat) (e : Int) : Int := max ((m.log2 : Int) + e) f.emin - ((f.prec : Int) - 1)

theorem quantum_def (f : Fmt) (m : Nat) (e : Int) : quantum f m e = max ((m.log2 : Int) + e) f.emin - ((f.prec : Int) - 1) := rfl

/-- How far the quantum lies above that of the smallest values. -/
def gap (f : Fmt) (m : Nat) (e : Int) : Nat := (quantum f m e - f.esub).toNat

/-- The quanta that a magnitude holds in full: its lower neighbour. -/
def below (f : Fmt) (m : Nat) (e : Int) : Nat := m * 2 ^ (e - quantum f m e).toNat / 2 ^ (quantum f m e - e).toNat

/-- What the magnitude has beyond its lower neighbour, in the unit of `magnitude_split`. -/
def beyond (f : Fmt) (m : Nat) (e : Int) : Nat := m * 2 ^ (e - quantum f m e).toNat % 2 ^ (quantum f m e - e).toNat

theorem quantum_eq (f : Fmt) (m : Nat) (e : Int) : quantum f m e = f.esub + gap f m e := by
  have : f.esub = f.emin - ((f.prec : Int) - 1) := rfl
  unfold gap quantum
  omega

section
variable {f : Fmt} {m : Nat} {e : Int}

theorem below_of_le (h : quantum f m e ≤ e) : below f m e = m * 2 ^ (e - quantum f m e).toNat ∧ beyond f m e = 0 := by
  have h0 : (quantum f m e - e).toNat = 0 := by omega
  rw [below, beyond, h0, Nat.pow_zero, Nat.div_one, Nat.mod_one]
  exact ⟨rfl, rfl⟩

theorem below_of_lt (h : e < quantum f m e) :
    m / 2 ^ (quantum f m e - e).toNat = below f m e ∧ m % 2 ^ (quantum f m e - e).toNat = beyond f m e := by
  have h0 : (e - quantum f m e).toNat = 0 := by omega
  rw [below, beyond, h0, Nat.pow_zero, Nat.mul_one]
  exact ⟨rfl, rfl⟩

/-- A magnitude of whole quanta is its own rounding, in every mode. -/
theorem roundUnbounded_exact (st : Bool) (mode : Rm) (u : Nat) (hm : m ≠ 0) (h : quantum f m e ≤ e) :
    roundUnbounded f m e st mode u = { m := below f m e, qe := quantum f m e, inexact := st } := by
  rw [(below_of_le h).1]
  unfold roundUnbounded
  rw [if_neg hm]
  exact if_pos h

/-- Toward zero a rounding is the lower neighbour. -/
theorem roundUnbounded_rz (u : Nat) (hm : m ≠ 0) :
    roundUnbounded f m e false .rz u = { m := below f m e, qe := quantum f m e, inexact := decide (beyond f m e ≠ 0) } := by
  rcases Int.lt_or_le e (quantum f m e) with h | h
  · obtain ⟨hb, hr⟩ := below_of_lt h
    unfold roundUnbounded
    simp only [← quantum_def, if_neg hm, if_neg (Int.not_le.mpr h), hb, hr]
    by_cases hc : beyond f m e = 0 <;> simp [hc]
  · rw [roundUnbounded_exact _ _ _ hm h, (below_of_le h).2]
    rfl

/-- To nearest a rounding is the upper neighbour above the halfway point and the lower one below it. A magnitude with the mark `st` lies
above the point that it reaches. -/
theorem roundUnbounded_rne (st : Bool) (u : Nat) (hm : m ≠ 0) :
    ∃ up : Bool, roundUnbounded f m e st .rne u =
        { m := below f m e + up.toNat, qe := quantum f m e, inexact := decide (beyond f m e ≠ 0) || st } ∧
      (up = true → 2 ^ (quantum f m e - e).toNat ≤ 2 * beyond f m e) ∧
      (up = false → 2 * beyond f m e ≤ 2 ^ (quantum f m e - e).toNat) ∧
      (up = false → st = true → e < quantum f m e → 2 * (beyond f m e + 1) ≤ 2 ^ (quantum f m e - e).toNat) := by
  rcases Int.lt_or_le e (quantum f m e) with h | h
  · obtain ⟨hb, hr⟩ := below_of_lt h
    have hs : 2 ^ (quantum f m e - e).toNat = 2 * 2 ^ ((quantum f m e - e).toNat - 1) := by
      rw [← Nat.pow_succ', Nat.succ_eq_add_one, Nat.sub_one_add_one (by omega)]
    unfold roundUnbounded
    simp only [← quantum_def, if_neg hm, if_neg (Int.not_le.mpr h), hb, hr]
    rw [hs]
    generalize below f m e = lo
    generalize beyond f m e = rem
    have hh : 0 < 2 ^ ((quantum f m e - e).toNat - 1) := Nat.two_pow_pos _
    generalize 2 ^ ((quantum f m e - e).toNat - 1) = half at hh ⊢
    generalize (decide ¬(if f.prec = 1 then lo = 0 ∨ ((m.log2 : Int) + e + f.bias) % 2 = 0 else lo % 2 = 0)) = tie
    rcases Nat.lt_trichotomy rem half with hlt | rfl | hgt
    · refine ⟨false, ?_, nofun, fun _ => by omega, fun _ _ _ => by omega⟩
      by_cases h0 : rem = 0 <;> cases st <;> simp [h0, hlt.ne, hlt.not_gt, hh.ne, hh.not_gt]
    · cases st with
      | false =>
        refine ⟨tie, ?_, fun _ => Nat.le_refl _, fun _ => Nat.le_refl _, nofun⟩
        cases tie <;> simp [hh.ne']
      | true => exact ⟨true, by simp, fun _ => Nat.le_refl _, nofun, nofun⟩
    · refine ⟨true, ?_, fun _ => by omega, nofun, nofun⟩
      simp [(hh.trans hgt).ne', hgt.ne', hgt]
  · obtain ⟨-, hr⟩ := below_of_le h
    rw [roundUnbounded_exact _ _ _ hm h, hr]
    exact ⟨false, rfl, nofun, fun _ => Nat.zero_le _, fun _ _ h2 => absurd h (Int.not_le.mpr h2)⟩

end

-- Magnitudes as rationals --------------------------------------------------------------------------------------------------------

theorem pow_toNat_mul_zpow {a b : Int} (h : b ≤ a) : ((2 : ℚ) ^ (a - b).toNat) * 2 ^ b = 2 ^ a := by
  rw [← zpow_natCast, ← zpow_add₀ (by norm_num), Int.toNat_of_nonneg (by omega), sub_add_cancel]

theorem zpow_pos2 (k : Int) : (0 : ℚ) < 2 ^ k := zpow_pos (by norm_num) k

section
variable (f : Fmt) (m : Nat) (e : Int)

/-- A magnitude is its full quanta and what lies beyond them, counted in a unit that divides the quantum. -/
theorem magnitude_split : ∃ g : ℚ, 0 < g ∧ (2 : ℚ) ^ quantum f m e = 2 ^ (quantum f m e - e).toNat * g ∧
    (m : ℚ) * 2 ^ e = (below f m e * 2 ^ (quantum f m e - e).toNat + beyond f m e) * g ∧ (e < quantum f m e → g = 2 ^ e) := by
  have hsum : ((m : ℚ) * 2 ^ (e - quantum f m e).toNat) = below f m e * 2 ^ (quantum f m e - e).toNat + beyond f m e := by
    have := Nat.div_add_mod (m * 2 ^ (e - quantum f m e).toNat) (2 ^ (quantum f m e - e).toNat)
    rw [Nat.mul_comm] at this
    exact_mod_cast this.symm
  rcases Int.lt_or_le e (quantum f m e) with h | h
  · refine ⟨2 ^ e, zpow_pos2 e, (pow_toNat_mul_zpow h.le).symm, ?_, fun _ => rfl⟩
    rw [← hsum, show (e - quantum f m e).toNat = 0 by omega, pow_zero, mul_one]
  · refine ⟨2 ^ quantum f m e, zpow_pos2 _, ?_, ?_, fun h2 => absurd h (Int.not_le.mpr h2)⟩
    · rw [show (quantum f m e - e).toNat = 0 by omega, pow_zero, one_mul]
    · rw [← hsum, mul_assoc, pow_toNat_mul_zpow h]

theorem beyond_lt : beyond f m e < 2 ^ (quantum f m e - e).toNat := Nat.mod_lt _ (Nat.two_pow_pos _)

/-- The lower and the upper neighbour of a magnitude. -/
def lower : ℚ := below f m e * 2 ^ quantum f m e
def upper : ℚ := (below f m e + 1) * 2 ^ quantum f m e

theorem lower_le : lower f m e ≤ m * 2 ^ e := by
  obtain ⟨g, hg, hq, hm, -⟩ := magnitude_split f m e
  have : (0 : ℚ) ≤ beyond f m e * g := by positivity
  rw [lower, hq, hm]
  linarith

theorem lt_upper : (m : ℚ) * 2 ^ e < upper f m e := by
  obtain ⟨g, hg, hq, hm, -⟩ := magnitude_split f m e
  have h : (beyond f m e : ℚ) < 2 ^ (quantum f m e - e).toNat := by exact_mod_cast beyond_lt f m e
  have := mul_lt_mul_of_pos_right h hg
  rw [upper, hq, hm]
  linarith

/-- Nothing lies beyond the lower neighbour just where it is the magnitude. -/
theorem beyond_eq_zero_iff : beyond f m e = 0 ↔ (m : ℚ) * 2 ^ e = lower f m e := by
  obtain ⟨g, hg, hq, hm, -⟩ := magnitude_split f m e
  rw [lower, hq, hm]
  constructor
  · intro h
    rw [h]
    push_cast
    ring
  · intro h
    have h2 : (beyond f m e : ℚ) * g = 0 := by linarith
    simpa [hg.ne'] using h2

variable {f m e}

theorem below_lt_pow (hf : f.Floating) : below f m e < 2 ^ (f.trail + 1) := by
  have h1 : (below f m e : ℚ) * 2 ^ quantum f m e ≤ m * 2 ^ e := lower_le f m e
  have h2 : (m : ℚ) < 2 ^ (m.log2 + 1) := by exact_mod_cast Nat.lt_log2_self
  have h3 : (m : ℚ) * 2 ^ e < 2 ^ (((m.log2 + 1 : Nat) : Int) + e) := by
    rw [zpow_add₀ (by norm_num), zpow_natCast]
    exact mul_lt_mul_of_pos_right h2 (zpow_pos2 e)
  have h4 : (2 : ℚ) ^ (((m.log2 + 1 : Nat) : Int) + e) ≤ 2 ^ (((f.trail + 1 : Nat) : Int) + quantum f m e) := by
    apply zpow_le_zpow_right₀ (by norm_num)
    have := hf.trail_add
    unfold quantum
    push_cast
    omega
  have hs : (2 : ℚ) ^ (((f.trail + 1 : Nat) : Int) + quantum f m e) = 2 ^ (f.trail + 1) * 2 ^ quantum f m e := by
    rw [zpow_add₀ (by norm_num), zpow_natCast]
  rw [hs] at h4
  have h5 : (below f m e : ℚ) < 2 ^ (f.trail + 1) := lt_of_mul_lt_mul_right (h1.trans_lt (h3.trans_le h4)) (zpow_pos2 _).le
  exact_mod_cast h5

theorem below_normal (hf : f.Floating) (hm : m ≠ 0) : gap f m e = 0 ∨ 2 ^ f.trail ≤ below f m e := by
  rcases Nat.eq_zero_or_pos (gap f m e) with h | h
  · exact .inl h
  · right
    have hq : (f.trail : Int) + quantum f m e = m.log2 + e := by
      have h1 := hf.trail_add
      have h2 : f.esub = f.emin - ((f.prec : Int) - 1) := rfl
      unfold gap quantum at h
      unfold quantum
      omega
    have h2 : (2 : ℚ) ^ m.log2 ≤ m := by exact_mod_cast Nat.log2_self_le hm
    have h3 := mul_le_mul_of_nonneg_right h2 (zpow_pos2 e).le
    rw [← zpow_natCast, ← zpow_add₀ (by norm_num), ← hq, zpow_add₀ (by norm_num), zpow_natCast] at h3
    have h4 : (2 : ℚ) ^ f.trail < below f m e + 1 := lt_of_mul_lt_mul_right (h3.trans_lt (lt_upper f m e)) (zpow_pos2 _).le
    have h5 : 2 ^ f.trail < below f m e + 1 := by exact_mod_cast h4
    omega

end

end Sys2Proof.Machine
end

section
/-! SUPPORT. Conversion of a finite value to an IEEE format (spec 02, R52, R56): its result is one of the two neighbours, and which one. -/

namespace Sys2Proof.Machine

open Sys2Proof

-- Values as rationals ------------------------------------------------------------------------------------------------------------

/-- A finite value as a rational; 0 where there is none. -/
def Val.rat : Val → ℚ
  | .num n m e _ => (sm n m : ℚ) * 2 ^ e
  | _ => 0

/-- A finite value is y·2^k. -/
def NumAt (v : Val) (k y : Int) : Prop :=
  ∃ neg m e, v = .num neg m e false ∧ k ≤ e ∧ y = (if neg then -(m : Int) else m) * 2 ^ (e - k).toNat

theorem NumAt.rat_eq {v : Val} {k y : Int} (h : NumAt v k y) : v.rat = y * 2 ^ k := by
  obtain ⟨neg, m, e, rfl, hk, rfl⟩ := h
  rw [Val.rat, sm]
  push_cast
  rw [mul_assoc, pow_toNat_mul_zpow hk]

theorem NumAt.finite {v : Val} {k y : Int} (h : NumAt v k y) : v.isNan = false ∧ v.isInf = false := by
  obtain ⟨neg, m, e, rfl, -⟩ := h
  exact ⟨rfl, rfl⟩

/-- The sign as a factor. -/
def sgn (neg : Bool) : ℚ := if neg then -1 else 1

theorem abs_sgn (neg : Bool) : |sgn neg| = 1 := by cases neg <;> simp [sgn]

theorem sm_cast (neg : Bool) (m : Nat) : ((sm neg m : Int) : ℚ) = sgn neg * m := by
  cases neg <;> simp [sm, sgn]

theorem Val.num_rat (neg : Bool) (m : Nat) (e : Int) (st : Bool) : (Val.num neg m e st).rat = sgn neg * (m * 2 ^ e) := by
  rw [Val.rat, sm_cast, mul_assoc]

theorem bodyVal_rat (f : Fmt) (neg : Bool) (b : Nat) : (bodyVal f neg b).rat = sm neg (bodyMag f.trail b) * 2 ^ f.esub := by
  rw [bodyVal, Val.rat, zpow_add₀ (by norm_num), zpow_natCast, bodyMag, sm_cast, sm_cast]
  push_cast
  ring

/-- The value of the body of m quanta. -/
theorem bodyVal_rat_add {f : Fmt} (neg : Bool) {m d : Nat} (hm : m ≤ 2 ^ (f.trail + 1)) (hd : d = 0 ∨ 2 ^ f.trail ≤ m) :
    (bodyVal f neg (m + d * 2 ^ f.trail)).rat = sm neg m * 2 ^ (f.esub + d) := by
  rw [bodyVal_rat, bodyMag_add hm hd, zpow_add₀ (by norm_num), zpow_natCast, sm_cast, sm_cast]
  push_cast
  ring

/-- No value of a format lies strictly between two neighbours. -/
theorem bodyVal_gap {f : Fmt} {lo d : Nat} (hlo : lo < 2 ^ (f.trail + 1)) (hd : d = 0 ∨ 2 ^ f.trail ≤ lo) (neg : Bool) (b : Nat) :
    (bodyVal f neg b).rat ≤ lo * 2 ^ (f.esub + d) ∨ (lo + 1) * 2 ^ (f.esub + d) ≤ (bodyVal f neg b).rat := by
  rw [bodyVal_rat, zpow_add₀ (by norm_num), zpow_natCast]
  have hp := zpow_pos2 f.esub
  cases neg with
  | true =>
    left
    have h : (0 : ℚ) ≤ bodyMag f.trail b * 2 ^ f.esub := by positivity
    have h2 : (0 : ℚ) ≤ lo * (2 ^ f.esub * 2 ^ d) := by positivity
    simp only [sm, if_true]
    push_cast
    linarith
  | false =>
    simp only [sm, Bool.false_eq_true, if_false]
    refine (bodyMag_gap hlo hd b).imp (fun h => ?_) fun h => ?_
    · have h : (bodyMag f.trail b : ℚ) ≤ lo * 2 ^ d := by exact_mod_cast h
      have := mul_le_mul_of_nonneg_right h hp.le
      push_cast
      linarith
    · have h : ((lo : ℚ) + 1) * 2 ^ d ≤ bodyMag f.trail b := by exact_mod_cast h
      have := mul_le_mul_of_nonneg_right h hp.le
      push_cast
      linarith

theorem bodyVal_neg_rat (f : Fmt) (neg : Bool) (b : Nat) : (bodyVal f (!neg) b).rat = -(bodyVal f neg b).rat := by
  rw [bodyVal_rat, bodyVal_rat, sm_cast, sm_cast]
  cases neg <;> simp [sgn]

-- The overflow test --------------------------------------------------------------------------------------------------------------

theorem magLt_add (m1 d1 m2 d2 : Nat) (e : Int) : magLt m1 (e + d1) m2 (e + d2) = decide (m1 * 2 ^ d1 < m2 * 2 ^ d2) := by
  have hp : 2 ^ d1 = 2 ^ (d1 - min d1 d2) * 2 ^ min d1 d2 := by rw [← Nat.pow_add, Nat.sub_add_cancel (Nat.min_le_left _ _)]
  have hq : 2 ^ d2 = 2 ^ (d2 - min d1 d2) * 2 ^ min d1 d2 := by rw [← Nat.pow_add, Nat.sub_add_cancel (Nat.min_le_right _ _)]
  have h1 : (e + d1 - min (e + d1) (e + d2)).toNat = d1 - min d1 d2 := by omega
  have h2 : (e + d2 - min (e + d1) (e + d2)).toNat = d2 - min d1 d2 := by omega
  unfold magLt
  dsimp only
  rw [h1, h2]
  conv_rhs => rw [hp, hq, ← Nat.mul_assoc, ← Nat.mul_assoc]
  rw [decide_eq_decide, Nat.mul_lt_mul_right (Nat.two_pow_pos _)]

/-- A magnitude exceeds max finite just where its body does. -/
theorem magLt_maxFin {f : Fmt} (hf : f.Floating) {m d : Nat} (hm : m ≤ 2 ^ (f.trail + 1)) (hd : d = 0 ∨ 2 ^ f.trail ≤ m) :
    magLt (maxFinMag f).1 (maxFinMag f).2 m (f.esub + d) = decide (maxBody f < m + d * 2 ^ f.trail) := by
  have h : maxFinMag f = (sig f.trail (maxBody f), f.esub + binade f.trail (maxBody f)) := by
    have := decode_maxBody hf
    unfold maxBody at this
    rw [maxFinMag, this]
    rfl
  rw [h, magLt_add, ← bodyMag_add hm hd, decide_eq_decide]
  exact (bodyMag_strictMono f.trail).lt_iff_lt

-- Conversion ---------------------------------------------------------------------------------------------------------------------

/-- The body of a rounded magnitude. -/
def Rounded.body (r : Rounded) (f : Fmt) : Nat := r.m + (r.qe - f.esub).toNat * 2 ^ f.trail

/-- A rounded magnitude is a count of quanta of a format, none of them finer than its smallest. -/
structure Rounded.Fits (r : Rounded) (f : Fmt) (d : Nat) : Prop where
  qe : r.qe = f.esub + d
  le : r.m ≤ 2 ^ (f.trail + 1)
  normal : d = 0 ∨ 2 ^ f.trail ≤ r.m

theorem Rounded.Fits.body_eq {r : Rounded} {f : Fmt} {d : Nat} (h : r.Fits f d) : r.body f = r.m + d * 2 ^ f.trail := by
  rw [Rounded.body, h.qe, add_sub_cancel_left, Int.toNat_natCast]

/-- The code of a rounded magnitude of an IEEE format, with ∞ or max finite above the finite ones, and its flags (R56). -/
theorem convertIeee_rounded {f : Fmt} (hf : f.isIeee = true) (neg : Bool) {m : Nat} {e : Int} {st : Bool} (mode : Rm) (u : Nat)
    {r : Rounded} {d : Nat} (hx : m ≠ 0 ∨ st = true) (hr : roundUnbounded f m e st mode u = r) (h : r.Fits f d) :
    convertIeee f (.num neg m e st) mode u =
      if maxBody f < r.body f then (if mode = .rz then maxFinCode f neg else infCode f neg, fOF ||| fNX)
      else (signCode f neg + r.body f, if r.inexact then fNX ||| (if magBelowPow m e f.emin then fUF else 0) else 0) := by
  have h8 : f.isB8 = false := Fmt.isB8_of_ieee hf
  have hfl := Fmt.floating_of_ieee hf
  have hc := codeOf_eq hfl (neg := neg) (fun _ => h8) h.le h.normal
  have hlt := magLt_maxFin hfl h.le h.normal
  rw [← h.qe] at hc hlt
  have hx' : ¬(m = 0 ∧ (!st) = true) := by
    simpa [imp_iff_not_or] using hx
  simp only [convertIeee, if_neg hx', hr, hlt, hc, h.body_eq, decide_eq_true_eq]
  split
  · cases mode <;> rfl
  · rfl

/-- Zero converts to the zero of its sign, exactly. -/
theorem convertIeee_zero {f : Fmt} (hf : f.isIeee = true) (neg : Bool) (e : Int) (mode : Rm) (u : Nat) :
    convertIeee f (.num neg 0 e false) mode u = (signCode f neg + 0, 0) := by
  cases f with
  | f32 | bf16 | f16 => rfl
  | _ => cases hf

theorem maxFinCode_ieee {f : Fmt} (hf : f.isIeee = true) (neg : Bool) : maxFinCode f neg = signCode f neg + maxBody f := by
  cases f with
  | f32 | bf16 | f16 => cases neg <;> rfl
  | _ => cases hf

theorem decode_infCode {f : Fmt} (hf : f.isIeee = true) (neg : Bool) : decode f (infCode f neg) = .inf neg := by
  cases f with
  | f32 | bf16 | f16 => cases neg <;> decide
  | _ => cases hf

/-- What a conversion in a mode other than toward zero delivers where it is finite: the rounded value, and NX just where it is inexact. -/
theorem convertIeee_finite {f : Fmt} (hf : f.isIeee = true) (neg : Bool) {m : Nat} {e : Int} {st : Bool} {mode : Rm} (u : Nat)
    {r : Rounded} {d : Nat} (hx : m ≠ 0 ∨ st = true) (hr : roundUnbounded f m e st mode u = r) (h : r.Fits f d) (hz : mode ≠ .rz)
    (hi : (decode f (convertIeee f (.num neg m e st) mode u).1).isInf = false) :
    (decode f (convertIeee f (.num neg m e st) mode u).1).rat = sgn neg * (r.m * 2 ^ r.qe) ∧
      ((convertIeee f (.num neg m e st) mode u).2 &&& fNX ≠ 0 ↔ r.inexact = true) := by
  rw [convertIeee_rounded hf neg mode u hx hr h, if_neg hz] at hi ⊢
  split at hi
  · rw [decode_infCode hf] at hi
    cases hi
  · next hle =>
    rw [if_neg hle]
    constructor
    · rw [decode_signCode_ieee hf (Nat.le_of_not_lt hle), h.body_eq, bodyVal_rat_add neg h.le h.normal, h.qe, sm_cast, mul_assoc]
    · cases r.inexact
      · simp
      · cases magBelowPow m e f.emin <;> simp [fNX, fUF]

/-- Toward zero no magnitude is enlarged: what is delivered is the rounded value, or the greatest finite one below it. -/
theorem convertIeee_rz_le {f : Fmt} (hf : f.isIeee = true) (neg : Bool) {m : Nat} {e : Int} (u : Nat) {r : Rounded} {d : Nat}
    (hx : m ≠ 0) (hr : roundUnbounded f m e false .rz u = r) (h : r.Fits f d) :
    |(decode f (convertIeee f (.num neg m e false) .rz u).1).rat| ≤ r.m * 2 ^ r.qe := by
  have key (b : Nat) (hb : b ≤ maxBody f) (hr : b ≤ r.body f) : |(decode f (signCode f neg + b)).rat| ≤ r.m * 2 ^ r.qe := by
    have hm := (bodyMag_strictMono f.trail).monotone hr
    rw [h.body_eq, bodyMag_add h.le h.normal] at hm
    have hm : (bodyMag f.trail b : ℚ) ≤ r.m * 2 ^ d := by exact_mod_cast hm
    rw [decode_signCode_ieee hf hb, bodyVal_rat, sm_cast, abs_mul, abs_mul, abs_sgn, abs_of_pos (zpow_pos2 _), Nat.abs_cast, h.qe,
      zpow_add₀ (by norm_num), zpow_natCast]
    have := mul_le_mul_of_nonneg_right hm (zpow_pos2 f.esub).le
    linarith
  rw [convertIeee_rounded hf neg .rz u (.inl hx) hr h, if_pos rfl]
  split
  · next hlt =>
    rw [maxFinCode_ieee hf]
    exact key _ (Nat.le_refl _) hlt.le
  · next hle => exact key _ (Nat.le_of_not_lt hle) (Nat.le_refl _)

/-- The neighbours of a magnitude are counts of quanta of the format. -/
theorem fits_neighbour {f : Fmt} (hf : f.Floating) {m : Nat} {e : Int} (hm : m ≠ 0) (up i : Bool) :
    Rounded.Fits { m := below f m e + up.toNat, qe := quantum f m e, inexact := i } f (gap f m e) := by
  have h1 := below_lt_pow (m := m) (e := e) hf
  have h2 := below_normal (e := e) hf hm
  refine ⟨quantum_eq f m e, ?_, h2.imp id fun h => Nat.le_add_right_of_le h⟩
  cases up with
  | false => exact h1.le
  | true => exact h1

end Sys2Proof.Machine
end

section
/-! SUPPORT. Rounding to nearest (spec 02, R52, R56, R66): no finite value of the format is closer, with and without the sticky ε. -/

namespace Sys2Proof.Machine

open Sys2Proof

-- Neighbours -----------------------------------------------------------------------------------------------------------------------

/-- Of y and z, none lies closer to x than y. -/
def Nearest (x y z : ℚ) : Prop := (z < y → y + z ≤ 2 * x) ∧ (y < z → 2 * x ≤ y + z)

theorem Nearest.neg {x y z : ℚ} (h : Nearest (-x) (-y) (-z)) : Nearest x y z := by
  obtain ⟨h1, h2⟩ := h
  exact ⟨fun hlt => by have := h2 (by linarith); linarith, fun hlt => by have := h1 (by linarith); linarith⟩

section
variable {lo hi x y z : ℚ} (h1 : lo ≤ x) (h2 : x ≤ hi) (hz : z ≤ lo ∨ hi ≤ z)
include h1 hz

/-- Where halfway goes down, any z below y is strictly further away. -/
theorem further_below (hlt : z < y) (hy : y = lo ∨ (y = hi ∧ lo + hi < 2 * x)) : y + z < 2 * x := by
  rcases hy with rfl | ⟨rfl, h⟩ <;> rcases hz with hz | hz <;> linarith

include h2

/-- The chosen one of two neighbours is nearest to what lies between them, among all that do not. -/
theorem nearest_of_neighbour (hy : (y = lo ∧ 2 * x ≤ lo + hi) ∨ (y = hi ∧ lo + hi ≤ 2 * x)) : Nearest x y z := by
  unfold Nearest
  rcases hy with ⟨rfl, h⟩ | ⟨rfl, h⟩ <;> rcases hz with hz | hz <;> constructor <;> intro hlt <;> linarith

/-- Where halfway goes up, any z above y is strictly further away. -/
theorem further_above (hlt : y < z) (hy : (y = lo ∧ 2 * x < lo + hi) ∨ y = hi) : 2 * x < y + z := by
  rcases hy with ⟨rfl, h⟩ | rfl <;> rcases hz with hz | hz <;> linarith

end

-- The neighbour that is picked -----------------------------------------------------------------------------------------------------

section
variable (f : Fmt) (m : Nat) (e : Int)

/-- The picked neighbour. -/
def picked (up : Bool) : ℚ := ((below f m e + up.toNat : Nat) : ℚ) * 2 ^ quantum f m e

theorem picked_false : picked f m e false = lower f m e := by simp [picked, lower]

theorem picked_true : picked f m e true = upper f m e := by simp [picked, upper]

variable {f m e}

/-- To nearest: the neighbour that is picked, and that the rounding is inexact just where it differs from the magnitude. -/
theorem rne_neighbour (u : Nat) (hm : m ≠ 0) :
    ∃ up i : Bool, roundUnbounded f m e false .rne u = { m := below f m e + up.toNat, qe := quantum f m e, inexact := i } ∧
      (up = true → lower f m e + upper f m e ≤ 2 * (m * 2 ^ e)) ∧ (up = false → 2 * (m * 2 ^ e) ≤ lower f m e + upper f m e) ∧
      (i = true ↔ picked f m e up ≠ m * 2 ^ e) := by
  obtain ⟨up, hr, h1, h2, -⟩ := roundUnbounded_rne (f := f) (e := e) false u hm
  obtain ⟨g, hg, hq, hx, -⟩ := magnitude_split f m e
  refine ⟨up, _, hr, fun h => ?_, fun h => ?_, ?_⟩
  · have h1 : (2 : ℚ) ^ (quantum f m e - e).toNat ≤ 2 * beyond f m e := by exact_mod_cast h1 h
    have := mul_le_mul_of_nonneg_right h1 hg.le
    rw [lower, upper, hx, hq]
    linarith
  · have h2 : 2 * (beyond f m e : ℚ) ≤ 2 ^ (quantum f m e - e).toNat := by exact_mod_cast h2 h
    have := mul_le_mul_of_nonneg_right h2 hg.le
    rw [lower, upper, hx, hq]
    linarith
  · rw [Bool.or_false, decide_eq_true_eq, ne_eq, ne_eq, beyond_eq_zero_iff, not_iff_not]
    cases up with
    | false => rw [picked_false, eq_comm]
    | true =>
      have h4 : beyond f m e ≠ 0 := by
        have := h1 rfl
        have := Nat.two_pow_pos (quantum f m e - e).toNat
        omega
      rw [ne_eq, beyond_eq_zero_iff] at h4
      rw [picked_true]
      exact ⟨fun h => absurd h h4, fun h => absurd h (lt_upper f m e).ne'⟩

/-- To nearest with the mark `st`, for a magnitude that its quantum cuts: what lies strictly between it and the next multiple of its
unit is rounded. -/
theorem rne_sticky_neighbour (u : Nat) (hm : m ≠ 0) (he : e < quantum f m e) :
    ∃ up : Bool, roundUnbounded f m e true .rne u = { m := below f m e + up.toNat, qe := quantum f m e, inexact := true } ∧
      (up = true → lower f m e + upper f m e ≤ 2 * (m * 2 ^ e)) ∧ (up = false → 2 * ((m + 1) * 2 ^ e) ≤ lower f m e + upper f m e) ∧
      ((m : ℚ) + 1) * 2 ^ e ≤ upper f m e := by
  obtain ⟨up, hr, h1, -, h2⟩ := roundUnbounded_rne (f := f) (e := e) true u hm
  obtain ⟨g, hg, hq, hx, hge⟩ := magnitude_split f m e
  have hb : (beyond f m e : ℚ) + 1 ≤ 2 ^ (quantum f m e - e).toNat := by exact_mod_cast beyond_lt f m e
  rw [Bool.or_true] at hr
  refine ⟨up, hr, fun h => ?_, fun h => ?_, ?_⟩
  · have h1 : (2 : ℚ) ^ (quantum f m e - e).toNat ≤ 2 * beyond f m e := by exact_mod_cast h1 h
    have := mul_le_mul_of_nonneg_right h1 hg.le
    rw [lower, upper, hx, hq]
    linarith
  · have h2 : 2 * ((beyond f m e : ℚ) + 1) ≤ 2 ^ (quantum f m e - e).toNat := by exact_mod_cast h2 h rfl he
    have := mul_le_mul_of_nonneg_right h2 hg.le
    rw [lower, upper, add_mul, hx, hq, one_mul, ← hge he]
    linarith
  · have := mul_le_mul_of_nonneg_right hb hg.le
    rw [upper, add_mul, hx, hq, one_mul, ← hge he]
    linarith

/-- No value of the format lies strictly between the neighbours. -/
theorem bodyVal_not_between (hf : f.Floating) (hm : m ≠ 0) (neg : Bool) (b : Nat) :
    (bodyVal f neg b).rat ≤ lower f m e ∨ upper f m e ≤ (bodyVal f neg b).rat := by
  rw [lower, upper, quantum_eq]
  exact bodyVal_gap (below_lt_pow hf) (below_normal hf hm) neg b

/-- The picked neighbour of a number between the two, under either sign. -/
theorem picked_nearest (hf : f.Floating) (hm : m ≠ 0) {x : ℚ} {up : Bool} (hlo : lower f m e ≤ x) (hhi : x ≤ upper f m e)
    (h1 : up = true → lower f m e + upper f m e ≤ 2 * x) (h2 : up = false → 2 * x ≤ lower f m e + upper f m e) (neg n : Bool) (b : Nat) :
    Nearest (sgn neg * x) (sgn neg * picked f m e up) (bodyVal f n b).rat := by
  have hp : (picked f m e up = lower f m e ∧ 2 * x ≤ lower f m e + upper f m e) ∨
      (picked f m e up = upper f m e ∧ lower f m e + upper f m e ≤ 2 * x) := by
    cases up with
    | false => exact .inl ⟨picked_false f m e, h2 rfl⟩
    | true => exact .inr ⟨picked_true f m e, h1 rfl⟩
  cases neg with
  | false => simpa [sgn] using nearest_of_neighbour hlo hhi (bodyVal_not_between hf hm n b) hp
  | true =>
    apply Nearest.neg
    rw [← bodyVal_neg_rat]
    simpa [sgn] using nearest_of_neighbour hlo hhi (bodyVal_not_between hf hm (!n) b) hp

end

-- Conversion to nearest ------------------------------------------------------------------------------------------------------------

/-- To nearest: where the result is finite, no value of the format is closer, and NX is set just where it differs. -/
theorem convertIeee_nearest {f : Fmt} (hf : f.isIeee = true) (neg : Bool) (m : Nat) (e : Int) (u : Nat)
    (hi : (decode f (convertIeee f (.num neg m e false) .rne u).1).isInf = false) :
    (∀ n b, Nearest (Val.num neg m e false).rat (decode f (convertIeee f (.num neg m e false) .rne u).1).rat (bodyVal f n b).rat) ∧
      ((convertIeee f (.num neg m e false) .rne u).2 &&& fNX ≠ 0 ↔
        (decode f (convertIeee f (.num neg m e false) .rne u).1).rat ≠ (Val.num neg m e false).rat) := by
  have hfl := Fmt.floating_of_ieee hf
  rw [Val.num_rat]
  by_cases hm : m = 0
  · subst hm
    have hy : (decode f (convertIeee f (.num neg 0 e false) .rne u).1).rat = 0 := by
      rw [convertIeee_zero hf, decode_signCode_ieee hf (Nat.zero_le _), bodyVal_rat, bodyMag_eq_zero.mpr rfl, sm_cast]
      simp
    rw [hy, convertIeee_zero hf]
    exact ⟨fun n b => ⟨fun h => by simpa using h.le, fun h => by simpa using h.le⟩, by simp⟩
  · obtain ⟨up, i, hr, h1, h2, hx⟩ := rne_neighbour (f := f) (e := e) u hm
    obtain ⟨hv, hn⟩ := convertIeee_finite hf neg u (.inl hm) hr (fits_neighbour hfl hm up i) nofun hi
    have hv : (decode f (convertIeee f (.num neg m e false) .rne u).1).rat = sgn neg * picked f m e up := hv
    rw [hv, hn, hx]
    refine ⟨picked_nearest hfl hm (lower_le f m e) (lt_upper f m e).le h1 h2 neg, ?_⟩
    cases neg <;> simp [sgn]

-- The sticky rounding of a dot product ---------------------------------------------------------------------------------------------

/-- A dyadic number as a rational. -/
def Dy.rat (v : Dy) : ℚ := v.m * 2 ^ v.e

/-- What R66 asks of a rounding of x to y against a value z: none is closer; and with something lost, which lies above x, none above y is as
close. -/
def StickyNearest (lost : Bool) (x y z : ℚ) : Prop :=
  (z < y → y + z ≤ 2 * x) ∧ (y < z → if lost then 2 * x < y + z else 2 * x ≤ y + z)

theorem StickyNearest.zero (lost : Bool) (z : ℚ) : StickyNearest lost 0 0 z := by
  refine ⟨fun h => by linarith, fun h => ?_⟩
  cases lost <;> simp [h, h.le]

/-- A magnitude with more digits than f32 holds is cut. -/
theorem lt_quantum_f32 {m : Nat} {e : Int} (h : 2 ^ 24 ≤ m) : e < quantum .f32 m e := by
  have h2 : 24 ≤ m.log2 := (Nat.le_log2 (by omega)).mpr h
  have h3 : ((Fmt.f32.prec : Nat) : Int) - 1 = 23 := rfl
  unfold quantum
  omega

/-- The unit in which ε is open: 2^64 of it make one unit of the number. -/
theorem finer_unit (m : Nat) (e : Int) : ((m * 2 ^ 64 : Nat) : ℚ) * 2 ^ (e - 64) = m * 2 ^ e := by
  have h := pow_toNat_mul_zpow (show e - 64 ≤ e by omega)
  rw [show (e - (e - 64)).toNat = 64 by omega] at h
  rw [Nat.cast_mul, mul_assoc, ← h]
  norm_num

/-- A conversion to nearest of a magnitude that f32 cuts, with the mark `st`: the neighbour that it picks. -/
theorem convert_sticky_nearest (neg : Bool) {m : Nat} {e : Int} (h : 2 ^ 24 ≤ m)
    (hi : (decode .f32 (convertIeee .f32 (.num neg m e true) .rne 0).1).isInf = false) :
    ∃ up, (decode .f32 (convertIeee .f32 (.num neg m e true) .rne 0).1).rat = sgn neg * picked .f32 m e up ∧
      (convertIeee .f32 (.num neg m e true) .rne 0).2 &&& fNX ≠ 0 ∧
      (up = true → lower .f32 m e + upper .f32 m e ≤ 2 * (m * 2 ^ e)) ∧
      (up = false → 2 * ((m + 1) * 2 ^ e) ≤ lower .f32 m e + upper .f32 m e) ∧
      ((m : ℚ) + 1) * 2 ^ e ≤ upper .f32 m e := by
  have hm : m ≠ 0 := by omega
  obtain ⟨up, hr, h1, h2, h3⟩ := rne_sticky_neighbour (f := .f32) 0 hm (lt_quantum_f32 (e := e) h)
  obtain ⟨hv, hn⟩ := convertIeee_finite rfl neg 0 (.inl hm) hr (fits_neighbour (Fmt.floating_of_ieee rfl) hm up true) nofun hi
  exact ⟨up, hv, hn.mpr rfl, h1, h2, h3⟩

section
variable {m : Nat} {e : Int} {x : ℚ} (h : 2 ^ 24 ≤ m) (n : Bool) (b : Nat)
include h

/-- A positive magnitude that the mark `st` raises by an ε. -/
theorem sticky_above (hx : m * 2 ^ e = x) (hi : (decode .f32 (convertIeee .f32 (.num false m e true) .rne 0).1).isInf = false) :
    StickyNearest true x (decode .f32 (convertIeee .f32 (.num false m e true) .rne 0).1).rat (bodyVal .f32 n b).rat := by
  have hfl : Fmt.f32.Floating := Fmt.floating_of_ieee rfl
  have hm : m ≠ 0 := by omega
  obtain ⟨up, hv, -, h1, h2, -⟩ := convert_sticky_nearest false h hi
  have he := zpow_pos2 e
  have hlo := lower_le .f32 m e
  have hhi := lt_upper .f32 m e
  rw [add_mul, one_mul, hx] at h2
  rw [hx] at h1 hlo hhi
  have near := picked_nearest hfl hm hlo hhi.le h1 (fun h => by linarith [h2 h]) false n b
  rw [sgn, if_neg (by decide), one_mul] at hv
  rw [sgn, if_neg (by decide), one_mul, one_mul] at near
  rw [hv]
  refine ⟨near.1, fun hlt => further_above hlo hhi.le (bodyVal_not_between hfl hm n b) hlt ?_⟩
  cases up with
  | false => exact .inl ⟨picked_false .., by linarith [h2 rfl]⟩
  | true => exact .inr (picked_true ..)

/-- A negative magnitude that an ε, which raises the number, takes from: the mark `st` on the next smaller magnitude. -/
theorem sticky_below (hx : (m + 1) * 2 ^ e = x) (hi : (decode .f32 (convertIeee .f32 (.num true m e true) .rne 0).1).isInf = false) :
    StickyNearest true (-x) (decode .f32 (convertIeee .f32 (.num true m e true) .rne 0).1).rat (bodyVal .f32 n b).rat := by
  have hfl : Fmt.f32.Floating := Fmt.floating_of_ieee rfl
  have hm : m ≠ 0 := by omega
  obtain ⟨up, hv, -, h1, h2, h3⟩ := convert_sticky_nearest true h hi
  have he := zpow_pos2 e
  have hlt : (m : ℚ) * 2 ^ e < x := by linarith
  have hlo := (lower_le .f32 m e).trans hlt.le
  rw [hx] at h2 h3
  have near := picked_nearest hfl hm hlo h3 (fun h => by linarith [h1 h]) h2 true n b
  rw [sgn, if_pos rfl, neg_one_mul] at hv
  rw [sgn, if_pos rfl, neg_one_mul, neg_one_mul] at near
  rw [hv]
  refine ⟨near.1, fun hgt => ?_⟩
  have hpick : picked .f32 m e up = lower .f32 m e ∨ picked .f32 m e up = upper .f32 m e ∧ lower .f32 m e + upper .f32 m e < 2 * x := by
    cases up with
    | false => exact .inl (picked_false ..)
    | true => exact .inr ⟨picked_true .., by linarith [h1 rfl]⟩
  have key := further_below hlo (bodyVal_not_between hfl hm (!n) b) (by rw [bodyVal_neg_rat]; linarith) hpick
  rw [bodyVal_neg_rat] at key
  rw [if_pos rfl]
  linarith

end

/-- What is lost above a zero leaves a zero, and sets NX and UF. -/
theorem roundF32Sticky_zero {v : Dy} (h : v.m = 0) (lost : Bool) :
    roundF32Sticky v lost = (signCode .f32 false + 0, if lost then fNX ||| fUF else 0) := by
  cases lost with
  | false => simp [roundF32Sticky, h, signCode]
  | true =>
    have hc : convertIeee .f32 (.num false 0 (v.e - 64) true) .rne 0 = (signCode .f32 false + 0, fNX ||| fUF) := by
      rw [convertIeee_rounded (d := 0) rfl false .rne 0 (.inr rfl) (r := { m := 0, qe := Fmt.f32.esub, inexact := true }) rfl
        ⟨rfl, by decide, .inl rfl⟩]
      rfl
    simpa [roundF32Sticky, h] using hc

/-- With nothing lost, the rounding is the conversion. -/
theorem roundF32Sticky_exact {v : Dy} (h : v.m ≠ 0) :
    roundF32Sticky v false = convertIeee .f32 (.num (decide (v.m < 0)) v.m.natAbs v.e false) .rne 0 := by
  simp [roundF32Sticky, h, Dy.toVal]

theorem roundF32Sticky_lost_pos {v : Dy} (h : 0 < v.m) :
    roundF32Sticky v true = convertIeee .f32 (.num false (v.m.natAbs * 2 ^ 64) (v.e - 64) true) .rne 0 := by
  simp only [roundF32Sticky, Bool.not_true, Bool.false_eq_true, if_false, if_neg (Int.not_lt.mpr h.le)]

theorem roundF32Sticky_lost_neg {v : Dy} (h : v.m < 0) :
    roundF32Sticky v true = convertIeee .f32 (.num true (v.m.natAbs * 2 ^ 64 - 1) (v.e - 64) true) .rne 0 := by
  simp only [roundF32Sticky, Bool.not_true, Bool.false_eq_true, if_false, if_pos h]

/-- The magnitude and sign of a dyadic number. -/
theorem Dy.rat_eq (v : Dy) : v.rat = sgn (decide (v.m < 0)) * (v.m.natAbs * 2 ^ v.e) := by
  have h : (v.m : ℚ) = sgn (decide (v.m < 0)) * v.m.natAbs := by
    rw [← sm_cast, sm]
    congr 1
    split
    · next h => have := of_decide_eq_true h; omega
    · next h => have := of_decide_eq_false (by simpa using h : decide (v.m < 0) = false); omega
  rw [Dy.rat, ← mul_assoc, ← h]

/-- R66's rounding: nearest, a tie going up where something was lost, and NX just where something was lost or the result differs. -/
theorem roundF32Sticky_nearest (v : Dy) (lost : Bool) (hi : (decode .f32 (roundF32Sticky v lost).1).isInf = false) :
    (∀ n b, StickyNearest lost v.rat (decode .f32 (roundF32Sticky v lost).1).rat (bodyVal .f32 n b).rat) ∧
      ((roundF32Sticky v lost).2 &&& fNX ≠ 0 ↔ lost = true ∨ (decode .f32 (roundF32Sticky v lost).1).rat ≠ v.rat) := by
  have hx := v.rat_eq
  by_cases h0 : v.m = 0
  · have hv : v.rat = 0 := by simp [Dy.rat, h0]
    have hy : (decode .f32 (signCode .f32 false + 0)).rat = 0 := by
      rw [decode_signCode_ieee rfl (Nat.zero_le _), bodyVal_rat, bodyMag_eq_zero.mpr rfl]
      simp [sm]
    rw [roundF32Sticky_zero h0, hv, hy]
    refine ⟨fun n b => StickyNearest.zero _ _, ?_⟩
    cases lost <;> simp [fNX, fUF]
  have hm : v.m.natAbs ≠ 0 := by omega
  cases lost with
  | false =>
    rw [roundF32Sticky_exact h0] at hi ⊢
    have h := convertIeee_nearest (f := .f32) rfl _ _ _ _ hi
    rw [Val.num_rat, ← hx] at h
    simpa [StickyNearest, Nearest] using h
  | true =>
    rcases Int.lt_or_gt_of_ne h0 with hneg | hpos
    · rw [roundF32Sticky_lost_neg hneg] at hi ⊢
      obtain ⟨-, -, hn, -⟩ := convert_sticky_nearest true (by omega) hi
      rw [hx, decide_eq_true hneg, sgn, if_pos rfl, neg_one_mul]
      have hu : (((v.m.natAbs * 2 ^ 64 - 1 : Nat) : ℚ) + 1) * 2 ^ (v.e - 64) = v.m.natAbs * 2 ^ v.e := by
        rw [← finer_unit, ← Nat.cast_add_one, Nat.sub_add_cancel (by omega)]
      exact ⟨fun n b => sticky_below (by omega) n b hu hi, by simpa using hn⟩
    · rw [roundF32Sticky_lost_pos hpos] at hi ⊢
      obtain ⟨-, -, hn, -⟩ := convert_sticky_nearest false (by omega) hi
      rw [hx, decide_eq_false (by omega), sgn, if_neg (by decide), one_mul]
      exact ⟨fun n b => sticky_above (by omega) n b (finer_unit _ _) hi, by simpa using hn⟩

/-- The code of a rounding is ∞ or a finite number: never a NaN. -/
theorem roundF32Sticky_code (v : Dy) (lost : Bool) :
    ∃ neg b, (roundF32Sticky v lost).1 = signCode .f32 neg + b ∧ b ≤ infCode .f32 false := by
  have hfl : Fmt.f32.Floating := Fmt.floating_of_ieee rfl
  have key (neg : Bool) (m : Nat) (e : Int) (st : Bool) (hm : m ≠ 0) :
      ∃ n b, (convertIeee .f32 (.num neg m e st) .rne 0).1 = signCode .f32 n + b ∧ b ≤ infCode .f32 false := by
    obtain ⟨up, hr, -⟩ := roundUnbounded_rne (f := .f32) (e := e) st 0 hm
    rw [convertIeee_rounded rfl neg .rne 0 (.inl hm) hr (fits_neighbour hfl hm up _)]
    split
    · exact ⟨neg, infCode .f32 false, by cases neg <;> rfl, Nat.le_refl _⟩
    · next h =>
      have := (maxBody_ieee (f := .f32) rfl).1
      exact ⟨neg, _, rfl, by omega⟩
  by_cases h0 : v.m = 0
  · exact ⟨false, 0, by rw [roundF32Sticky_zero h0], Nat.zero_le _⟩
  cases lost with
  | false => exact roundF32Sticky_exact h0 ▸ key _ _ _ _ (by omega)
  | true =>
    rcases Int.lt_or_gt_of_ne h0 with hneg | hpos
    · exact roundF32Sticky_lost_neg hneg ▸ key _ _ _ _ (by omega)
    · exact roundF32Sticky_lost_pos hpos ▸ key _ _ _ _ (by omega)

end Sys2Proof.Machine
end

section
/-! SUPPORT. Conversions that are exact, and those to an integer format (spec 02, R47, R55 to R57). -/

namespace Sys2Proof.Machine

open Sys2Proof

-- Values that a format holds -------------------------------------------------------------------------------------------------------

theorem sig_fits (f : Fmt) (b : Nat) (i : Bool) :
    Rounded.Fits { m := sig f.trail b, qe := f.esub + binade f.trail b, inexact := i } f (binade f.trail b) :=
  ⟨rfl, (sig_lt _ _).le, sig_ge _ _⟩

section
variable {f : Fmt} (hf : f.Floating)
include hf

/-- A value of a format lies on its own quantum. -/
theorem quantum_bodyVal {b : Nat} (h : sig f.trail b ≠ 0) :
    quantum f (sig f.trail b) (f.esub + binade f.trail b) = f.esub + binade f.trail b := by
  have h1 : (sig f.trail b).log2 < f.trail + 1 := (Nat.log2_lt h).mpr (sig_lt _ _)
  have h2 : binade f.trail b = 0 ∨ f.trail ≤ (sig f.trail b).log2 := (sig_ge f.trail b).imp id fun h2 => (Nat.le_log2 h).mpr h2
  have h3 := hf.trail_add
  have h4 : f.esub = f.emin - ((f.prec : Int) - 1) := rfl
  unfold quantum
  omega

theorem roundUnbounded_bodyVal {b : Nat} (h : sig f.trail b ≠ 0) (mode : Rm) (u : Nat) :
    roundUnbounded f (sig f.trail b) (f.esub + binade f.trail b) false mode u =
      { m := sig f.trail b, qe := f.esub + binade f.trail b, inexact := false } := by
  have hq := quantum_bodyVal hf h
  rw [roundUnbounded_exact _ _ _ h hq.le, (below_of_le hq.le).1, hq, sub_self]
  simp

/-- A finite body is above no finite one. -/
theorem magLt_sig {b : Nat} (hb : b ≤ maxBody f) :
    magLt (maxFinMag f).1 (maxFinMag f).2 (sig f.trail b) (f.esub + binade f.trail b) = false := by
  rw [magLt_maxFin hf (sig_lt _ _).le (sig_ge _ _), sig_add]
  exact decide_eq_false (Nat.not_lt.mpr hb)

theorem codeOf_sig {b : Nat} (neg : Bool) (h : sig f.trail b ≠ 0) :
    codeOf f neg (sig f.trail b) (f.esub + binade f.trail b) = signCode f neg + b := by
  rw [codeOf_eq hf (fun h0 => absurd h0 h) (sig_lt _ _).le (sig_ge _ _), sig_add]

end

theorem sig_eq_zero {t b : Nat} : sig t b = 0 ↔ b = 0 := by
  rw [← bodyMag_eq_zero (t := t) (b := b), bodyMag, Nat.mul_eq_zero, or_iff_left (Nat.two_pow_pos _).ne']

/-- A value that a binary8 format holds converts to its own code. -/
theorem convertB8_bodyVal {f : Fmt} (hf : f.Floating) (h8 : f.isB8 = true) {neg : Bool} {b : Nat} (hb : b ≤ maxBody f) (hs : signFits f neg b)
    (mode : Rm) (ovf : Bool) (u : Nat) : convertB8 f (bodyVal f neg b) mode ovf u = (signCode f neg + b, 0) := by
  by_cases h : sig f.trail b = 0
  · have hb0 : b = 0 := sig_eq_zero.mp h
    subst hb0
    have hneg : neg = false := by
      cases neg with
      | false => rfl
      | true => exact absurd rfl (hs h8 rfl).1
    subst hneg
    cases f with
    | b8 => simp [convertB8, bodyVal, h, signCode]
    | _ => cases h8
  · have hu : (f.isUnsignedB8 && neg) = false := by
      cases neg with
      | false => exact Bool.and_false _
      | true => rw [(hs h8 rfl).2, Bool.false_and]
    have hunder : b8Underflows f (sig f.trail b) (f.esub + binade f.trail b) false = false := by
      simp only [b8Underflows, magBelowPow, h, decide_false, Bool.false_or, Bool.and_eq_false_iff, decide_eq_false_iff_not]
      right
      omega
    simp only [convertB8, bodyVal, h, false_and, if_false, hu, Bool.false_eq_true, hunder, roundUnbounded_bodyVal hf h,
      magLt_sig hf hb, codeOf_sig hf neg h]

/-- A value that an IEEE format holds converts to its own code. -/
theorem convertIeee_bodyVal {f : Fmt} (hf : f.isIeee = true) {neg : Bool} {b : Nat} (hb : b ≤ maxBody f) (mode : Rm) (u : Nat) :
    convertIeee f (bodyVal f neg b) mode u = (signCode f neg + b, 0) := by
  have hfl := Fmt.floating_of_ieee hf
  by_cases h : sig f.trail b = 0
  · rw [bodyVal, h, sig_eq_zero.mp h]
    exact convertIeee_zero hf neg _ mode u
  · have hbody : Rounded.body { m := sig f.trail b, qe := f.esub + binade f.trail b, inexact := false } f = b := by
      rw [(sig_fits f b false).body_eq, sig_add]
    rw [bodyVal, convertIeee_rounded hf neg mode u (.inl h) (roundUnbounded_bodyVal hfl h mode u) (sig_fits f b false), hbody,
      if_neg (Nat.not_lt.mpr hb)]
    rfl

theorem convert_b8 {f : Fmt} (h : f.isB8 = true) (x : Val) (mode : Rm) (ovf : Bool) (u : Nat) :
    convert f x mode ovf u = convertB8 f x mode ovf u := if_pos h

theorem convert_ieee {f : Fmt} (h : f.isIeee = true) (x : Val) (mode : Rm) (ovf : Bool) (u : Nat) :
    convert f x mode ovf u = convertIeee f x mode u := by
  rw [convert, Fmt.isB8_of_ieee h, if_neg (by decide), if_pos h]

/-- A floating format is binary8 or IEEE. -/
theorem Fmt.b8_or_ieee {f : Fmt} (h : f.isFloat = true) : f.isB8 = true ∨ f.isIeee = true := by
  cases f with
  | b8 => exact .inl rfl
  | f32 | bf16 | f16 => exact .inr rfl
  | _ => cases h

/-- A value that a float format holds converts to its own code in every mode and raises nothing (R55, R56). -/
theorem convert_decode {f : Fmt} (hf : f.Floating) {c : Nat} (hc : c < 2 ^ f.width) (hn : (decode f c).isNan = false)
    (hi : (decode f c).isInf = false) (mode : Rm) (ovf : Bool) (u : Nat) : convert f (decode f c) mode ovf u = (c, 0) := by
  obtain ⟨neg, b, rfl, hb, hs, hd⟩ := decode_finite hf hc hn hi
  rw [hd]
  rcases Fmt.b8_or_ieee hf.float with h | h
  · rw [convert_b8 h, convertB8_bodyVal hf h hb hs]
  · rw [convert_ieee h, convertIeee_bodyVal h hb]

/-- A NaN converts to the canonical NaN, and a signalling one raises NV (R47). -/
theorem convert_nan {f : Fmt} (hf : f.isFloat = true) {v : Val} (hv : v.isNan = true) (mode : Rm) (ovf : Bool) (u : Nat) :
    convert f v mode ovf u = (nanCode f, if v.isSnan then fNV else 0) := by
  cases v with
  | nan s =>
    rcases Fmt.b8_or_ieee hf with h | h
    · exact convert_b8 h _ _ _ _
    · exact convert_ieee h _ _ _ _
  | inf | num => cases hv

/-- An integer in range converts to its two's-complement code (R57). -/
theorem convert_ofInt {f : Fmt} (hf : f.isInt = true) {z : Int} (h1 : (intRange f).1 ≤ z) (h2 : z ≤ (intRange f).2) (mode : Rm)
    (ovf : Bool) (u : Nat) :
    convert f (Val.ofInt z) mode ovf u = ((z % 2 ^ f.width).toNat, 0) := by
  have hc : convert f (Val.ofInt z) mode ovf u = convertInt f (Val.ofInt z) mode := by
    cases f with
    | i32 | i16 | i8 | u8 => rfl
    | _ => cases hf
  have hr : roundInt z.natAbs 0 false mode = (z.natAbs, false) := by simp [roundInt]
  have hz : (if decide (z < 0) = true then -(z.natAbs : Int) else z.natAbs) = z := by
    simp only [decide_eq_true_eq]
    split <;> omega
  rw [hc]
  simp only [convertInt, Val.ofInt, hr, hz, if_neg (Int.not_lt.mpr h1), if_neg (Int.not_lt.mpr h2), Bool.false_eq_true, if_false, wrapNat]
  push_cast
  rfl

-- Rounding, on integers at a common scale --------------------------------------------------------------------------------------------

/-- A finite code of an IEEE format is at a scale a value of the format. -/
theorem NumAt.body {f : Fmt} (hf : f.isIeee = true) {c : Nat} {k z : Int} (h : NumAt (decode f c) k z) :
    ∃ neg b, (z : ℚ) * 2 ^ k = (bodyVal f neg b).rat := by
  obtain ⟨hn, hi⟩ := h.finite
  obtain ⟨-, hd⟩ := decode_ieee_finite hf hn hi
  exact ⟨_, _, by rw [← h.rat_eq, hd]⟩

/-- Toward zero no magnitude is enlarged (R52, R56). -/
theorem convert_rz_natAbs_le {f : Fmt} (hf : f.isIeee = true) {neg : Bool} {m : Nat} {e k x y : Int} (ovf : Bool) (u : Nat)
    (hx : NumAt (.num neg m e false) k x) (hy : NumAt (decode f (convert f (.num neg m e false) .rz ovf u).1) k y) : y.natAbs ≤ x.natAbs := by
  have hfl := Fmt.floating_of_ieee hf
  have hx := hx.rat_eq
  have hy := hy.rat_eq
  have hle : |(decode f (convert f (.num neg m e false) .rz ovf u).1).rat| ≤ |(Val.num neg m e false).rat| := by
    rw [convert_ieee hf, Val.num_rat, abs_mul, abs_sgn, one_mul, abs_of_nonneg (a := (m : ℚ) * 2 ^ e) (by positivity)]
    by_cases hm : m = 0
    · subst hm
      rw [convertIeee_zero hf, decode_signCode_ieee hf (Nat.zero_le _), bodyVal_rat, bodyMag_eq_zero.mpr rfl, sm_cast]
      simp
    · exact (convertIeee_rz_le hf neg u hm (roundUnbounded_rz u hm) (fits_neighbour hfl hm false _)).trans (lower_le f m e)
  rw [hx, hy, abs_mul, abs_mul, mul_le_mul_iff_left₀ (abs_pos.mpr (zpow_pos2 k).ne')] at hle
  have h : |y| ≤ |x| := by exact_mod_cast hle
  rw [Int.abs_eq_natAbs, Int.abs_eq_natAbs] at h
  exact_mod_cast h

/-- The order of nearness at a common scale is that of the integers. -/
theorem StickyNearest.unscale {lost : Bool} {k x y z : Int} (h : StickyNearest lost (x * 2 ^ k) (y * 2 ^ k) (z * 2 ^ k)) :
    (z < y → y + z ≤ 2 * x) ∧ (y < z → if lost then 2 * x < y + z else 2 * x ≤ y + z) := by
  have hp := zpow_pos2 k
  have hadd : (y : ℚ) * 2 ^ k + z * 2 ^ k = ((y + z : Int) : ℚ) * 2 ^ k := by push_cast; ring
  have hmul : 2 * ((x : ℚ) * 2 ^ k) = ((2 * x : Int) : ℚ) * 2 ^ k := by push_cast; ring
  unfold StickyNearest at h
  simp only [hadd, hmul, mul_lt_mul_iff_left₀ hp, mul_le_mul_iff_left₀ hp, Int.cast_lt, Int.cast_le] at h
  exact h

/-- To nearest no finite code lies closer to the value than the result (R52, R56). -/
theorem convert_rne_nearest {f : Fmt} (hf : f.isIeee = true) {neg : Bool} {m : Nat} {e k x y z : Int} (ovf : Bool) (u c : Nat)
    (hx : NumAt (.num neg m e false) k x) (hy : NumAt (decode f (convert f (.num neg m e false) .rne ovf u).1) k y)
    (hz : NumAt (decode f c) k z) : (y - x).natAbs ≤ (z - x).natAbs := by
  rw [convert_ieee hf] at hy
  obtain ⟨n, b, hz⟩ := hz.body hf
  have h := (convertIeee_nearest hf neg m e u hy.finite.2).1 n b
  rw [hx.rat_eq, hy.rat_eq, ← hz] at h
  obtain ⟨h1, h2⟩ := StickyNearest.unscale (lost := false) h
  simp only [Bool.false_eq_true, if_false] at h2
  omega

/-- R66's rounding at a common scale. -/
theorem roundF32Sticky_scaled {v : Dy} {lost : Bool} {k x y : Int} (hx : v.rat = x * 2 ^ k)
    (hy : NumAt (decode .f32 (roundF32Sticky v lost).1) k y) :
    ((roundF32Sticky v lost).2 &&& fNX ≠ 0 ↔ lost = true ∨ y ≠ x) ∧
      ∀ (z : Int) (c : Nat), NumAt (decode .f32 c) k z →
        (z < y → y + z ≤ 2 * x) ∧ (y < z → if lost then 2 * x < y + z else 2 * x ≤ y + z) := by
  obtain ⟨hnear, hnx⟩ := roundF32Sticky_nearest v lost hy.finite.2
  rw [hx, hy.rat_eq] at hnear hnx
  refine ⟨?_, fun z c hz => ?_⟩
  · rw [hnx, ne_eq, ne_eq, mul_left_inj' (zpow_pos2 k).ne', Int.cast_inj]
  · obtain ⟨n, b, hz⟩ := hz.body rfl
    have h := hnear n b
    rw [← hz] at h
    exact h.unscale

end Sys2Proof.Machine
end

section
/-! SUPPORT. Frozen dot products (spec 02, R65 to R67): one group as integers at a common scale, and groups one after another. -/

namespace Sys2Proof.Machine

open Sys2Proof

-- Dyadic numbers at a scale --------------------------------------------------------------------------------------------------------

/-- A dyadic number is y·2^k; a zero is it at every scale. -/
def Dy.At (v : Dy) (k y : Int) : Prop := (v.m = 0 ∧ y = 0) ∨ (k ≤ v.e ∧ y = v.m * 2 ^ (v.e - k).toNat)

theorem Dy.At.rat_eq {v : Dy} {k y : Int} (h : v.At k y) : v.rat = y * 2 ^ k := by
  rcases h with ⟨hm, rfl⟩ | ⟨hk, rfl⟩
  · simp [Dy.rat, hm]
  · rw [Dy.rat]
    push_cast
    rw [mul_assoc, pow_toNat_mul_zpow hk]

theorem Dy.At.eq_zero_iff {v : Dy} {k y : Int} (h : v.At k y) : v.m = 0 ↔ y = 0 := by
  rcases h with ⟨hm, hy⟩ | ⟨-, rfl⟩
  · simp [hm, hy]
  · simp

theorem NumAt.dy {v : Val} {k y : Int} (h : NumAt v k y) : v.dy.At k y := by
  obtain ⟨neg, m, e, rfl, hk, rfl⟩ := h
  exact .inr ⟨hk, rfl⟩

theorem Dy.At.neg {v : Dy} {k y : Int} (h : v.At k y) : (⟨-v.m, v.e⟩ : Dy).At k (-y) := by
  rcases h with ⟨hm, rfl⟩ | ⟨hk, rfl⟩
  · exact .inl ⟨by simp [hm], rfl⟩
  · exact .inr ⟨hk, by simp⟩

/-- A power of two between a scale and an exponent splits at a third one between them. -/
theorem pow_toNat_split {a b c : Int} (h1 : c ≤ b) (h2 : b ≤ a) : (2 : Int) ^ (a - c).toNat = 2 ^ (a - b).toNat * 2 ^ (b - c).toNat := by
  rw [← pow_add]
  congr 1
  omega

theorem Dy.At.add {a b : Dy} {k x y : Int} (ha : a.At k x) (hb : b.At k y) : (a.add b).At k (x + y) := by
  unfold Dy.add
  by_cases h1 : a.m = 0
  · rw [if_pos h1, ha.eq_zero_iff.mp h1, zero_add]
    exact hb
  by_cases h2 : b.m = 0
  · rw [if_neg h1, if_pos h2, hb.eq_zero_iff.mp h2, add_zero]
    exact ha
  obtain ⟨ka, rfl⟩ := ha.resolve_left fun h => h1 h.1
  obtain ⟨kb, rfl⟩ := hb.resolve_left fun h => h2 h.1
  rw [if_neg h1, if_neg h2]
  refine .inr ⟨le_min ka kb, ?_⟩
  dsimp only
  rw [add_mul, mul_assoc, mul_assoc, ← pow_toNat_split (le_min ka kb) (min_le_left _ _), ← pow_toNat_split (le_min ka kb) (min_le_right _ _)]

theorem Dy.At.sum {l : List Dy} {T : List Int} {k : Int} (h : List.Forall₂ (fun v y => v.At k y) l T) : (Dy.sum l).At k T.sum := by
  have key (l : List Dy) (T : List Int) (h : List.Forall₂ (fun v y => v.At k y) l T) :
      ∀ a x, a.At k x → (l.foldl Dy.add a).At k (x + T.sum) := by
    induction h with
    | nil => intro a x ha; simpa using ha
    | cons h1 _ ih =>
      intro a x ha
      rw [List.foldl_cons, List.sum_cons, ← add_assoc]
      exact ih _ _ (ha.add h1)
  simpa [Dy.sum] using key l T h Dy.zero 0 (.inl ⟨rfl, rfl⟩)

/-- Dyadic numbers are equal just where their integers at a scale are. -/
theorem Dy.At.eq_iff {a b : Dy} {k x y : Int} (ha : a.At k x) (hb : b.At k y) : Dy.eq a b = true ↔ x = y := by
  rw [Dy.eq, beq_iff_eq, (ha.add hb.neg).eq_zero_iff]
  omega

theorem log2_mul_two_pow {m : Nat} (n : Nat) (h : m ≠ 0) : (m * 2 ^ n).log2 = m.log2 + n := by
  have hp := Nat.two_pow_pos n
  rw [Nat.log2_eq_iff (Nat.mul_ne_zero h hp.ne'), Nat.pow_add, Nat.add_right_comm, Nat.pow_add]
  exact ⟨Nat.mul_le_mul_right _ (Nat.log2_self_le h), Nat.mul_lt_mul_of_pos_right Nat.lt_log2_self hp⟩

/-- The place of the leading bit. -/
theorem Dy.At.exp_eq {v : Dy} {k y : Int} (h : v.At k y) (hy : y ≠ 0) : v.exp = y.natAbs.log2 + k := by
  obtain ⟨hk, rfl⟩ := h.resolve_left fun h => hy h.2
  have hm : v.m.natAbs ≠ 0 := by
    intro h0
    exact hy (by rw [Int.natAbs_eq_zero.mp h0, zero_mul])
  rw [Dy.exp, Int.natAbs_mul, Int.natAbs_pow, show Int.natAbs 2 = 2 from rfl, log2_mul_two_pow _ hm]
  push_cast
  omega

/-- What R66 makes of a term of a group whose greatest one has its leading bit at L: floor to a multiple of q = 2^(L − w). -/
def alignTo (w L : Nat) (t : Int) : Int := if w ≤ L then t / 2 ^ (L - w) * 2 ^ (L - w) else t

theorem Dy.At.floorTo {v : Dy} {k y : Int} (h : v.At k y) (w L : Nat) : (v.floorTo ((L : Int) + k - w)).At k (alignTo w L y) := by
  unfold Dy.floorTo alignTo
  rcases h with ⟨hm, rfl⟩ | ⟨hk, rfl⟩
  · left
    constructor
    · split
      · exact hm
      · simp [hm]
    · simp
  · by_cases hle : (L : Int) + k - w ≤ v.e
    · rw [if_pos hle]
      refine .inr ⟨hk, ?_⟩
      split
      · refine Int.ediv_mul_cancel (Dvd.dvd.mul_left (pow_dvd_pow 2 ?_) _)
        omega
      · rfl
    · have hw : w ≤ L := by omega
      rw [if_neg hle, if_pos hw]
      refine .inr ⟨by simp only; omega, ?_⟩
      have hs := pow_toNat_split (a := (L : Int) + k - w) (b := v.e) (c := k) hk (by omega)
      have hL : L - w = ((L : Int) + k - w - k).toNat := by omega
      dsimp only
      rw [hL, hs, Int.mul_ediv_mul_of_pos_left _ _ (by positivity)]

-- One group ------------------------------------------------------------------------------------------------------------------------

/-- The greatest leading place among terms. -/
def topExp (t : Dy) (ts : List Dy) : Int := ts.foldl (fun k u => max k u.exp) t.exp

theorem topExp_le_iff (t : Dy) (ts : List Dy) (M : Int) : topExp t ts ≤ M ↔ ∀ u ∈ t :: ts, u.exp ≤ M := by
  have key (ts : List Dy) (a : Int) : ts.foldl (fun k u => max k u.exp) a ≤ M ↔ a ≤ M ∧ ∀ u ∈ ts, u.exp ≤ M := by
    induction ts generalizing a with
    | nil => simp
    | cons u ts ih => rw [List.foldl_cons, ih, List.forall_mem_cons, max_le_iff, and_assoc]
  rw [topExp, key, List.forall_mem_cons]

theorem topExp_eq {t : Dy} {ts : List Dy} {M : Int} (h : ∀ u ∈ t :: ts, u.exp ≤ M) (hM : ∃ u ∈ t :: ts, u.exp = M) :
    topExp t ts = M := by
  obtain ⟨u, hu, rfl⟩ := hM
  exact le_antisymm ((topExp_le_iff ..).mpr h) ((topExp_le_iff ..).mp (le_refl _) u hu)

/-- The sum S of a group's terms as R66 forms it, and whether something was lost. -/
def groupSum (w : Option Nat) (ts : List Dy) : Dy × Bool :=
  match w with
  | none => (Dy.sum ts, false)
  | some w =>
    match ts.filter fun t => t.m != 0 with
    | [] => (Dy.zero, false)
    | t :: rest =>
      let S := Dy.sum (ts.map fun u => u.floorTo (topExp t rest - w))
      (S, !(Dy.eq S (Dy.sum ts)))

/-- A group's terms, with the accumulator where it joins INSIDE. -/
def groupTerms (p : Profile) (a : Dy) (terms : List Dy) : List Dy := if p.inside then terms ++ [a] else terms

/-- What a group rounds: its sum, and the accumulator where that joins after. -/
def groupTotal (p : Profile) (a : Dy) (terms : List Dy) : Dy :=
  if p.inside then (groupSum p.w (groupTerms p a terms)).1 else a.add (groupSum p.w (groupTerms p a terms)).1

/-- One group on a finite accumulator rounds its total once. -/
theorem dotGroup_finite (p : Profile) {acc : Val} (h : acc.isInf = false) (terms : List Dy) :
    dotGroup p acc terms =
      let r := roundF32Sticky (groupTotal p acc.dy terms) (groupSum p.w (groupTerms p acc.dy terms)).2
      (decode .f32 r.1, r.2) := by
  obtain ⟨g, w, inside⟩ := p
  rw [dotGroup, if_neg (by simp [h])]
  cases w with
  | none => rfl
  | some w =>
    simp only [groupTotal, groupSum, groupTerms]
    split <;> rfl

theorem dotGroup_inf (p : Profile) {acc : Val} (h : acc.isInf = true) (terms : List Dy) : dotGroup p acc terms = (acc, 0) := by
  rw [dotGroup, if_pos h]

/-- What R66 makes of a term under a profile's W: aligned, and under EXACT left as it is. -/
def alignTerm (w : Option Nat) (L : Nat) (t : Int) : Int :=
  match w with
  | some w => alignTo w L t
  | none => t

theorem alignTerm_zero (w : Option Nat) (L : Nat) : alignTerm w L 0 = 0 := by
  cases w <;> simp [alignTerm, alignTo]

theorem forall₂_exists_right {α β : Type} {R : α → β → Prop} {l : List α} {m : List β} (h : List.Forall₂ R l m) :
    ∀ a ∈ l, ∃ b ∈ m, R a b := by
  induction h with
  | nil => simp
  | cons h _ ih =>
    rw [List.forall_mem_cons]
    exact ⟨⟨_, List.mem_cons_self .., h⟩, fun a ha => (ih a ha).imp fun _ hb => ⟨List.mem_cons_of_mem _ hb.1, hb.2⟩⟩

theorem forall₂_exists_left {α β : Type} {R : α → β → Prop} {l : List α} {m : List β} (h : List.Forall₂ R l m) :
    ∀ b ∈ m, ∃ a ∈ l, R a b := forall₂_exists_right h.flip

/-- The greatest leading place among the terms of a group that are not zero. -/
theorem topExp_at {ts rest : List Dy} {t : Dy} {T : List Int} {k : Int} {L : Nat} (h : List.Forall₂ (fun v y => v.At k y) ts T)
    (hf : (ts.filter fun t => t.m != 0) = t :: rest) (hle : ∀ t ∈ T, t ≠ 0 → t.natAbs.log2 ≤ L)
    (htop : (∀ t ∈ T, t = 0) ∨ ∃ t ∈ T, t ≠ 0 ∧ t.natAbs.log2 = L) : topExp t rest = L + k := by
  have hmem (u : Dy) : u ∈ t :: rest ↔ u ∈ ts ∧ u.m ≠ 0 := by rw [← hf, List.mem_filter, bne_iff_ne]
  apply topExp_eq
  · intro u hu
    obtain ⟨hu, hm⟩ := (hmem u).mp hu
    obtain ⟨y, hy, hat⟩ := forall₂_exists_right h u hu
    have hy0 : y ≠ 0 := fun h0 => hm (hat.eq_zero_iff.mpr h0)
    have := hle y hy hy0
    rw [hat.exp_eq hy0]
    omega
  · rcases htop with h0 | ⟨y, hy, hy0, hL⟩
    · obtain ⟨hu, hm⟩ := (hmem t).mp (List.mem_cons_self ..)
      obtain ⟨y, hy, hat⟩ := forall₂_exists_right h t hu
      exact absurd (hat.eq_zero_iff.mpr (h0 y hy)) hm
    · obtain ⟨u, hu, hat⟩ := forall₂_exists_left h y hy
      exact ⟨u, (hmem u).mpr ⟨hu, fun h0 => hy0 (hat.eq_zero_iff.mp h0)⟩, by rw [hat.exp_eq hy0, hL]⟩

/-- A group's sum is that of its aligned terms, and it has lost something just where that is not the sum of the terms. -/
theorem groupSum_at (w : Option Nat) {ts : List Dy} {T : List Int} {k : Int} {L : Nat} (h : List.Forall₂ (fun v y => v.At k y) ts T)
    (hle : ∀ t ∈ T, t ≠ 0 → t.natAbs.log2 ≤ L) (htop : (∀ t ∈ T, t = 0) ∨ ∃ t ∈ T, t ≠ 0 ∧ t.natAbs.log2 = L) :
    (groupSum w ts).1.At k (T.map (alignTerm w L)).sum ∧ (groupSum w ts).2 = ((T.map (alignTerm w L)).sum != T.sum) := by
  cases w with
  | none =>
    have he : T.map (alignTerm none L) = T := List.map_id T
    rw [he]
    exact ⟨Dy.At.sum h, by simp [groupSum]⟩
  | some w =>
    rw [groupSum]
    split
    · next hf =>
      have hz : ∀ y ∈ T, y = 0 := by
        intro y hy
        obtain ⟨u, hu, hat⟩ := forall₂_exists_left h y hy
        have := List.filter_eq_nil_iff.mp hf u hu
        exact hat.eq_zero_iff.mp (by simpa using this)
      have hs : T.sum = 0 := List.sum_eq_zero hz
      have hs2 : (T.map (alignTerm (some w) L)).sum = 0 := by
        refine List.sum_eq_zero fun x hx => ?_
        obtain ⟨y, hy, rfl⟩ := List.mem_map.mp hx
        rw [hz y hy, alignTerm_zero]
      rw [hs, hs2]
      exact ⟨.inl ⟨rfl, rfl⟩, rfl⟩
    · next t rest hf =>
      have hsum : (Dy.sum (ts.map fun u => u.floorTo (topExp t rest - w))).At k (T.map (alignTerm (some w) L)).sum := by
        rw [topExp_at h hf hle htop]
        refine Dy.At.sum ?_
        rw [List.forall₂_map_left_iff, List.forall₂_map_right_iff]
        exact h.imp fun _ _ hat => hat.floorTo w L
      refine ⟨hsum, ?_⟩
      have he := hsum.eq_iff (Dy.At.sum h)
      rw [Bool.eq_iff_iff, Bool.not_eq_true', bne_iff_ne, ne_eq, ← he, Bool.not_eq_true]

-- Special values and the delivered code --------------------------------------------------------------------------------------------

/-- Every factor pair's product is finite. -/
def AllFinite (prods : List (Val × Nat)) : Prop := ∀ q ∈ prods, q.1.isNan = false ∧ q.1.isInf = false

theorem AllFinite.any_nan {prods : List (Val × Nat)} (h : AllFinite prods) : (prods.any fun p => p.1.isNan) = false := by
  rw [List.any_eq_false]
  intro q hq
  rw [(h q hq).1]
  decide

theorem AllFinite.filter_inf {prods : List (Val × Nat)} (h : AllFinite prods) : (prods.map (·.1)).filter Val.isInf = [] := by
  rw [List.filter_eq_nil_iff]
  intro v hv
  obtain ⟨q, hq, rfl⟩ := List.mem_map.mp hv
  rw [(h q hq).2]
  decide

/-- With finite terms alone there is nothing special to settle (R65). -/
theorem dotSpecial_finite {c : Val} {prods : List (Val × Nat)} (hn : c.isNan = false) (hi : c.isInf = false) (h : AllFinite prods) :
    dotSpecial c prods = none := by
  simp only [dotSpecial, hn, h.any_nan, Bool.or_false, Bool.false_eq_true, if_false, List.filter_cons, hi, h.filter_inf]
  rfl

/-- An infinite accumulator among finite products is the result (R65). -/
theorem dotSpecial_inf (neg : Bool) {prods : List (Val × Nat)} (h : AllFinite prods) :
    dotSpecial (.inf neg) prods = some (infCode .f32 neg, 0) := by
  have hn : (Val.inf neg).isNan = false := rfl
  have hi : (Val.inf neg).isInf = true := rfl
  simp only [dotSpecial, hn, h.any_nan, Bool.or_false, Bool.false_eq_true, if_false, List.filter_cons, hi, if_true, h.filter_inf]
  cases neg <;> rfl

/-- The accumulator and every product are −0. -/
def negZeros (c : Val) (prods : List (Val × Nat)) : Bool := c.isZero && c.isNeg && prods.all fun q => q.1.isZero && q.1.isNeg

theorem zeroSign_eq (c : Val) (prods : List (Val × Nat)) (r : Nat) :
    zeroSign c prods r = if r % 0x80000000 = 0 then (if negZeros c prods then 0x80000000 else 0) else r := rfl

/-- A code of an f32 number or infinity. -/
def OutCode (c : Nat) : Prop := ∃ neg b, c = signCode .f32 neg + b ∧ b ≤ infCode .f32 false

theorem signCode_f32_mod {neg : Bool} {b : Nat} (hb : b ≤ infCode .f32 false) : (signCode .f32 neg + b) % 0x80000000 = b := by
  have hb : b ≤ 0x7F800000 := hb
  have hs : signCode .f32 neg = 0 ∨ signCode .f32 neg = 0x80000000 := by cases neg <;> simp [signCode]
  omega

/-- Such a code is a number of its body, or the code of ∞. -/
theorem OutCode.cases {c : Nat} (h : OutCode c) :
    (∃ neg b, c = signCode .f32 neg + b ∧ b ≤ maxBody .f32 ∧ decode .f32 c = bodyVal .f32 neg b ∧ c % 0x80000000 = b) ∨
      ∃ neg, c = infCode .f32 neg ∧ decode .f32 c = .inf neg := by
  obtain ⟨neg, b, rfl, hb⟩ := h
  have hmax : maxBody .f32 + 1 = infCode .f32 false := rfl
  rcases Nat.lt_or_ge b (infCode .f32 false) with hlt | hge
  · exact .inl ⟨neg, b, rfl, by omega, decode_signCode_ieee rfl (by omega), signCode_f32_mod hb⟩
  · have e : signCode .f32 neg + b = infCode .f32 neg := by
      rw [Nat.le_antisymm hb hge]
      cases neg <;> rfl
    exact .inr ⟨neg, e, e ▸ decode_infCode rfl neg⟩

/-- The groups of a reduction, from an accumulator: the last accumulator and the flags of all of them. -/
def dotRun (p : Profile) (acc : Val) (prods : List (Val × Nat)) : Val × Nat := dotGroups p prods.length acc (prods.map (·.1.dy)) 0

/-- A dot product of finite terms delivers the code of the last accumulator, a zero with the sign of R65. -/
theorem frozenDot_eq {p : Profile} {c : Val} {prods : List (Val × Nat)} (hn : c.isNan = false) (hi : c.isInf = false) (h : AllFinite prods)
    {code fl : Nat} (hc : OutCode code) (hg : dotRun p c prods = (decode .f32 code, fl)) :
    frozenDot p c prods = (zeroSign c prods code, fl) := by
  have hfl : Fmt.f32.Floating := Fmt.floating_of_ieee rfl
  unfold dotRun at hg
  rw [frozenDot, dotSpecial_finite hn hi h, zeroSign_eq]
  simp only [hg]
  rcases hc.cases with ⟨neg, b, hcode, -, hd, hmod⟩ | ⟨neg, hcode, hd⟩
  · rw [hd, hmod]
    simp only [bodyVal]
    by_cases hb : b = 0
    · rw [if_pos (sig_eq_zero.mpr hb), if_pos hb]
      rfl
    · rw [if_neg (fun h0 => hb (sig_eq_zero.mp h0)), if_neg hb, codeOf_sig hfl neg (fun h0 => hb (sig_eq_zero.mp h0)), hcode]
  · rw [hd, hcode]
    cases neg <;> rfl

/-- A rounding of a group is such a code. -/
theorem outCode_roundF32Sticky (v : Dy) (lost : Bool) : OutCode (roundF32Sticky v lost).1 := roundF32Sticky_code v lost

-- One group, on integers -----------------------------------------------------------------------------------------------------------

theorem dotGroups_nil (p : Profile) (n : Nat) (acc : Val) (fl : Nat) : dotGroups p n acc [] fl = (acc, fl) := by
  cases n <;> rfl

theorem dotGroups_cons (p : Profile) (n : Nat) (acc : Val) {terms : List Dy} (fl : Nat) (h : terms ≠ []) :
    dotGroups p (n + 1) acc terms fl =
      dotGroups p n (dotGroup p acc (terms.take p.g)).1 (terms.drop p.g) (fl ||| (dotGroup p acc (terms.take p.g)).2) := by
  cases terms with
  | nil => exact absurd rfl h
  | cons t ts => rfl

/-- The integers of a group's terms, with the accumulator's where it joins INSIDE. -/
def groupInts (p : Profile) (C : Int) (T : List Int) : List Int := if p.inside then T ++ [C] else T

/-- A dot product of one group: the exact total of its aligned terms, rounded once (R66). -/
theorem frozenDot_one_group (p : Profile) {c : Val} {qs : List (Val × Nat)} {k C : Int} {T : List Int} {L : Nat} (hc : NumAt c k C)
    (hq : List.Forall₂ (fun q t => NumAt q.1 k t) qs T) (h0 : 0 < qs.length) (hg : qs.length ≤ p.g)
    (hle : ∀ t ∈ groupInts p C T, t ≠ 0 → t.natAbs.log2 ≤ L)
    (htop : (∀ t ∈ groupInts p C T, t = 0) ∨ ∃ t ∈ groupInts p C T, t ≠ 0 ∧ t.natAbs.log2 = L) :
    let S := ((groupInts p C T).map (alignTerm p.w L)).sum
    let lost := S != (groupInts p C T).sum
    ∃ v : Dy, v.At k (if p.inside then S else C + S) ∧
      frozenDot p c qs = (zeroSign c qs (roundF32Sticky v lost).1, (roundF32Sticky v lost).2) := by
  have hdy : List.Forall₂ (fun v y => v.At k y) (qs.map (·.1.dy)) T := by
    rw [List.forall₂_map_left_iff]
    exact hq.imp fun _ _ h => h.dy
  have hts : List.Forall₂ (fun v y => v.At k y) (groupTerms p c.dy (qs.map (·.1.dy))) (groupInts p C T) := by
    unfold groupTerms groupInts
    split
    · exact List.rel_append hdy (.cons hc.dy .nil)
    · exact hdy
  obtain ⟨hS, hlost⟩ := groupSum_at p.w hts hle htop
  have hfin : AllFinite qs := fun q hq' => by
    obtain ⟨t, -, ht⟩ := forall₂_exists_right hq q hq'
    exact ht.finite
  intro S lost
  refine ⟨groupTotal p c.dy (qs.map (·.1.dy)), ?_, ?_⟩
  · unfold groupTotal
    split
    · exact hS
    · exact hc.dy.add hS
  · refine frozenDot_eq hc.finite.1 hc.finite.2 hfin (outCode_roundF32Sticky _ _) ?_
    obtain ⟨n, hn⟩ : ∃ n, qs.length = n + 1 := ⟨qs.length - 1, by omega⟩
    have hne : qs.map (·.1.dy) ≠ [] := by
      intro h
      rw [List.map_eq_nil_iff.mp h] at h0
      exact absurd h0 (by decide)
    rw [dotRun, hn, dotGroups_cons p n c 0 hne, List.take_of_length_le (by simpa using hg),
      List.drop_of_length_le (by simpa using hg), dotGroups_nil, dotGroup_finite p hc.finite.2, hlost]
    simp [S, lost]

end Sys2Proof.Machine
end

section
/-! SUPPORT. A frozen dot product in two instructions (spec 02, R67), and the statement about conversion. -/

namespace Sys2Proof.Machine

open Sys2Proof

-- Groups one after another -----------------------------------------------------------------------------------------------------------

section
variable {p : Profile} (hg : 0 < p.g)
include hg

/-- Any fuel that suffices gives the same. -/
theorem dotGroups_fuel {n : Nat} (acc : Val) (terms : List Dy) (fl : Nat) (hn : terms.length ≤ n) :
    dotGroups p n acc terms fl = dotGroups p terms.length acc terms fl := by
  induction n using Nat.strong_induction_on generalizing acc terms fl with
  | _ n ih =>
    by_cases h : terms = []
    · rw [h, dotGroups_nil, dotGroups_nil]
    · obtain ⟨l, hl⟩ : ∃ l, terms.length = l + 1 := ⟨terms.length - 1, by have := List.length_pos_iff.mpr h; omega⟩
      obtain ⟨m, rfl⟩ : ∃ m, n = m + 1 := ⟨n - 1, by omega⟩
      have hd : (terms.drop p.g).length ≤ l := by rw [List.length_drop]; omega
      rw [hl, dotGroups_cons p m acc fl h, dotGroups_cons p l acc fl h, ih m (by omega) _ _ _ (by omega)]
      by_cases hlm : l = m
      · rw [hlm, ih m (by omega) _ _ _ (by omega)]
      · rw [ih l (by omega) _ _ _ hd]

/-- The groups of a run: the first, and then those of the rest. -/
theorem dotGroups_step (acc : Val) {terms : List Dy} (fl : Nat) (h : terms ≠ []) :
    dotGroups p terms.length acc terms fl = dotGroups p (terms.drop p.g).length (dotGroup p acc (terms.take p.g)).1 (terms.drop p.g)
      (fl ||| (dotGroup p acc (terms.take p.g)).2) := by
  obtain ⟨l, hl⟩ : ∃ l, terms.length = l + 1 := ⟨terms.length - 1, by have := List.length_pos_iff.mpr h; omega⟩
  rw [hl, dotGroups_cons p l acc fl h, dotGroups_fuel hg _ _ _ (by rw [List.length_drop]; omega)]

/-- What every group keeps, all of them keep. -/
theorem dotGroups_induct {P : Val → Prop} {Q : Dy → Prop} (hstep : ∀ acc ts, P acc → (∀ t ∈ ts, Q t) → P (dotGroup p acc ts).1)
    {acc : Val} (terms : List Dy) (fl : Nat) (h : P acc) (hq : ∀ t ∈ terms, Q t) : P (dotGroups p terms.length acc terms fl).1 := by
  induction hl : terms.length using Nat.strong_induction_on generalizing acc terms fl with
  | _ n ih =>
    subst hl
    by_cases hnil : terms = []
    · rwa [hnil, dotGroups_nil]
    · have hlen := List.length_pos_iff.mpr hnil
      rw [dotGroups_step hg acc fl hnil]
      exact ih _ (by rw [List.length_drop]; omega) _ _ (hstep _ _ h fun t ht => hq t (List.mem_of_mem_take ht))
        (fun t ht => hq t (List.mem_of_mem_drop ht)) rfl

/-- The flags of the groups add up. -/
theorem dotGroups_flags (acc : Val) (terms : List Dy) (fl : Nat) :
    dotGroups p terms.length acc terms fl =
      ((dotGroups p terms.length acc terms 0).1, fl ||| (dotGroups p terms.length acc terms 0).2) := by
  induction hl : terms.length using Nat.strong_induction_on generalizing acc terms fl with
  | _ n ih =>
    subst hl
    by_cases hnil : terms = []
    · rw [hnil, dotGroups_nil, dotGroups_nil, Nat.or_zero]
    · have hlen := List.length_pos_iff.mpr hnil
      have hd : (terms.drop p.g).length < terms.length := by rw [List.length_drop]; omega
      rw [dotGroups_step hg acc fl hnil, dotGroups_step hg acc 0 hnil, ih _ hd _ _ _ rfl, ih _ hd _ _ (0 ||| _) rfl, Nat.zero_or, Nat.or_assoc]

/-- The groups of a reduction whose first part is whole groups: those of the first part, then those of the second on its accumulator. -/
theorem dotGroups_append (acc : Val) (xs ys : List Dy) (fl : Nat) (hd : p.g ∣ xs.length) :
    dotGroups p (xs ++ ys).length acc (xs ++ ys) fl =
      dotGroups p ys.length (dotGroups p xs.length acc xs fl).1 ys (dotGroups p xs.length acc xs fl).2 := by
  induction hl : xs.length using Nat.strong_induction_on generalizing acc xs fl with
  | _ n ih =>
    subst hl
    by_cases hnil : xs = []
    · rw [hnil, List.nil_append, dotGroups_nil]
    · have hle : p.g ≤ xs.length := Nat.le_of_dvd (List.length_pos_iff.mpr hnil) hd
      have hlt : (xs.drop p.g).length < xs.length := by rw [List.length_drop]; omega
      rw [dotGroups_step hg acc fl hnil, dotGroups_step hg acc fl (by simp [hnil]), List.take_append_of_le_length hle,
        List.drop_append_of_le_length hle]
      exact ih _ hlt _ _ _ (by rw [List.length_drop]; exact (Nat.dvd_sub hd (Nat.dvd_refl _))) rfl

/-- An infinite accumulator stays, and raises nothing. -/
theorem dotGroups_inf {acc : Val} (h : acc.isInf = true) (terms : List Dy) : dotGroups p terms.length acc terms 0 = (acc, 0) := by
  induction hl : terms.length using Nat.strong_induction_on generalizing terms with
  | _ n ih =>
    subst hl
    by_cases hnil : terms = []
    · rw [hnil, dotGroups_nil]
    · have hlen := List.length_pos_iff.mpr hnil
      have hd : (terms.drop p.g).length < terms.length := by rw [List.length_drop]; omega
      rw [dotGroups_step hg acc 0 hnil, dotGroup_inf p h, Nat.or_zero]
      exact ih _ hd _ rfl

/-- Of a finite accumulator the groups see the number alone. -/
theorem dotGroups_congr {acc acc' : Val} {terms : List Dy} (hnil : terms ≠ []) (h : acc.isInf = false) (h' : acc'.isInf = false)
    (hdy : acc'.dy = acc.dy) : dotGroups p terms.length acc' terms 0 = dotGroups p terms.length acc terms 0 := by
  rw [dotGroups_step hg acc 0 hnil, dotGroups_step hg acc' 0 hnil, dotGroup_finite p h, dotGroup_finite p h', hdy]

/-- From an f32 accumulator the groups lead to another. -/
theorem dotGroups_outCode {code : Nat} (hc : OutCode code) (terms : List Dy) :
    ∃ code', OutCode code' ∧ (dotGroups p terms.length (decode .f32 code) terms 0).1 = decode .f32 code' := by
  refine dotGroups_induct hg (P := fun v => ∃ code', OutCode code' ∧ v = decode .f32 code') (Q := fun _ => True)
    (fun acc ts h _ => ?_) terms 0 ⟨code, hc, rfl⟩ fun _ _ => trivial
  cases hi : acc.isInf with
  | true =>
    rw [dotGroup_inf p hi]
    exact h
  | false =>
    rw [dotGroup_finite p hi]
    exact ⟨_, outCode_roundF32Sticky _ _, rfl⟩

end

-- Zeros ----------------------------------------------------------------------------------------------------------------------------

theorem Dy.sum_zero {ts : List Dy} (h : ∀ t ∈ ts, t.m = 0) : (Dy.sum ts).m = 0 := by
  have hat : List.Forall₂ (fun v y => v.At 0 y) ts (ts.map fun _ => 0) := by
    rw [List.forall₂_map_right_iff, List.forall₂_same]
    exact fun t ht => .inl ⟨h t ht, rfl⟩
  rw [(Dy.At.sum hat).eq_zero_iff]
  simp

/-- A finite zero. -/
def Val.FiniteZero (v : Val) : Prop := v.isInf = false ∧ v.dy.m = 0

/-- A group of zeros on a zero is a zero. -/
theorem dotGroup_zero (p : Profile) {acc : Val} {ts : List Dy} (h : acc.FiniteZero) (hz : ∀ t ∈ ts, t.m = 0) :
    (dotGroup p acc ts).1.FiniteZero := by
  obtain ⟨hi, ha⟩ := h
  have hgt : ∀ t ∈ groupTerms p acc.dy ts, t.m = 0 := by
    unfold groupTerms
    split
    · simpa [or_imp, forall_and, ha] using hz
    · exact hz
  have hsum : (groupSum p.w (groupTerms p acc.dy ts)).1.m = 0 ∧ (groupSum p.w (groupTerms p acc.dy ts)).2 = false := by
    have hfil : (groupTerms p acc.dy ts).filter (fun t => t.m != 0) = [] := by
      rw [List.filter_eq_nil_iff]
      intro t ht
      simp [hgt t ht]
    cases p.w with
    | none => exact ⟨Dy.sum_zero hgt, rfl⟩
    | some w =>
      have hs : groupSum (some w) (groupTerms p acc.dy ts) = (Dy.zero, false) := by simp only [groupSum, hfil]
      rw [hs]
      exact ⟨rfl, rfl⟩
  have htot : (groupTotal p acc.dy ts).m = 0 := by
    unfold groupTotal
    split
    · exact hsum.1
    · rw [Dy.add, if_pos ha]
      exact hsum.1
  rw [dotGroup_finite p hi, hsum.2, roundF32Sticky_zero htot]
  dsimp only
  rw [decode_signCode_ieee rfl (Nat.zero_le _)]
  exact ⟨rfl, rfl⟩

theorem dotGroups_zero {p : Profile} (hg : 0 < p.g) {acc : Val} (h : acc.FiniteZero) {ts : List Dy} (hz : ∀ t ∈ ts, t.m = 0) :
    (dotGroups p ts.length acc ts 0).1.FiniteZero :=
  dotGroups_induct hg (P := Val.FiniteZero) (Q := fun t => t.m = 0) (fun _ _ h1 h2 => dotGroup_zero p h1 h2) ts 0 h hz

theorem Val.dy_zero_of_isZero {v : Val} (h : v.isZero = true) : v.dy.m = 0 := by
  cases v with
  | num n m e st =>
    have hm : m = 0 := by
      simp only [Val.isZero, Bool.and_eq_true, beq_iff_eq] at h
      exact h.1
    simp [Val.dy, sm, hm]
  | nan | inf => cases h

-- A reduction and its parts --------------------------------------------------------------------------------------------------------

section
variable {p : Profile} (hg : 0 < p.g)
include hg

theorem dotRun_append (acc : Val) {xs : List (Val × Nat)} (ys : List (Val × Nat)) (hd : p.g ∣ xs.length) :
    dotRun p acc (xs ++ ys) = ((dotRun p (dotRun p acc xs).1 ys).1, (dotRun p acc xs).2 ||| (dotRun p (dotRun p acc xs).1 ys).2) := by
  have h := dotGroups_append hg acc (xs.map (·.1.dy)) (ys.map (·.1.dy)) 0 (by rwa [List.length_map])
  rw [dotGroups_flags hg _ (ys.map _), ← List.map_append, List.length_map, List.length_map, List.length_map] at h
  exact h

theorem dotRun_outCode {code : Nat} (hc : OutCode code) (prods : List (Val × Nat)) :
    ∃ code', OutCode code' ∧ (dotRun p (decode .f32 code) prods).1 = decode .f32 code' := by
  have h := dotGroups_outCode hg hc (prods.map (·.1.dy))
  rwa [List.length_map] at h

theorem dotRun_inf {acc : Val} (h : acc.isInf = true) (prods : List (Val × Nat)) : dotRun p acc prods = (acc, 0) := by
  have h := dotGroups_inf hg h (prods.map (·.1.dy))
  rwa [List.length_map] at h

theorem dotRun_congr {acc acc' : Val} {prods : List (Val × Nat)} (hnil : prods ≠ []) (h : acc.isInf = false) (h' : acc'.isInf = false)
    (hdy : acc'.dy = acc.dy) : dotRun p acc' prods = dotRun p acc prods := by
  have h := dotGroups_congr hg (terms := prods.map (·.1.dy)) (by simpa using hnil) h h' hdy
  rwa [List.length_map] at h

/-- Where everything is −0 the accumulator is a zero. -/
theorem dotRun_negZeros {c : Val} (hi : c.isInf = false) {prods : List (Val × Nat)} (h : negZeros c prods = true) :
    (dotRun p c prods).1.FiniteZero := by
  simp only [negZeros, Bool.and_eq_true, List.all_eq_true] at h
  obtain ⟨⟨hc, -⟩, hq⟩ := h
  have hz := dotGroups_zero hg ⟨hi, Val.dy_zero_of_isZero hc⟩ (ts := prods.map (·.1.dy)) (by
    intro t ht
    obtain ⟨q, hq', rfl⟩ := List.mem_map.mp ht
    exact Val.dy_zero_of_isZero (hq q hq').1)
  rwa [List.length_map] at hz

end

theorem dotRun_nil (p : Profile) (acc : Val) : dotRun p acc [] = (acc, 0) := rfl

-- The sign of a zero ---------------------------------------------------------------------------------------------------------------

theorem zeroSign_congr {c c' : Val} {xs ys : List (Val × Nat)} (h : negZeros c xs = negZeros c' ys) (r : Nat) :
    zeroSign c xs r = zeroSign c' ys r := by
  rw [zeroSign_eq, zeroSign_eq, h]

theorem zeroSign_idem (c : Val) (prods : List (Val × Nat)) (r : Nat) : zeroSign c prods (zeroSign c prods r) = zeroSign c prods r := by
  simp only [zeroSign_eq]
  by_cases h : r % 0x80000000 = 0 <;> by_cases hz : negZeros c prods = true <;> simp [h, hz]

theorem outCode_zeroSign {code : Nat} (hc : OutCode code) (c : Val) (prods : List (Val × Nat)) : OutCode (zeroSign c prods code) := by
  rw [zeroSign_eq]
  split
  · exact ⟨negZeros c prods, 0, by cases negZeros c prods <;> rfl, Nat.zero_le _⟩
  · exact hc

/-- A delivered number keeps the accumulator's value, and is a number where that is one. -/
theorem decode_zeroSign {code : Nat} (hc : OutCode code) (hi : (decode .f32 code).isInf = false) (c : Val) (prods : List (Val × Nat)) :
    ∃ neg b, decode .f32 (zeroSign c prods code) = bodyVal .f32 neg b ∧ (decode .f32 code).dy = (bodyVal .f32 neg b).dy ∧
      code % 0x80000000 = b ∧ (b = 0 → neg = negZeros c prods) := by
  rcases hc.cases with ⟨neg, b, hcode, hb, hd, hmod⟩ | ⟨neg, -, hd⟩
  · rw [zeroSign_eq, hmod, hd]
    by_cases h : b = 0
    · subst h
      rw [if_pos rfl]
      refine ⟨negZeros c prods, 0, ?_, ?_, rfl, fun _ => rfl⟩
      · rw [← decode_signCode_ieee rfl (Nat.zero_le _)]
        cases negZeros c prods <;> rfl
      · cases neg <;> cases negZeros c prods <;> rfl
    · rw [if_neg h, hd]
      exact ⟨neg, b, rfl, rfl, rfl, fun h0 => absurd h0 h⟩
  · rw [hd] at hi
    cases hi

/-- A delivered result is −0 just where everything that led to it was, and a further part goes on from there. -/
theorem negZeros_append {p : Profile} (hg : 0 < p.g) {c : Val} (hi : c.isInf = false) {xs : List (Val × Nat)} (ys : List (Val × Nat))
    {code : Nat} (hc : OutCode code) (hfin : (decode .f32 code).isInf = false) (hx : (dotRun p c xs).1 = decode .f32 code) :
    negZeros (decode .f32 (zeroSign c xs code)) ys = negZeros c (xs ++ ys) := by
  obtain ⟨neg, b, hd, hdy, -, hneg⟩ := decode_zeroSign hc hfin c xs
  have hsplit : negZeros c (xs ++ ys) = (negZeros c xs && ys.all fun q => q.1.isZero && q.1.isNeg) := by
    rw [negZeros, negZeros, List.all_append, ← Bool.and_assoc]
  have hhead : ((bodyVal .f32 neg b).isZero && (bodyVal .f32 neg b).isNeg) = negZeros c xs := by
    by_cases h : b = 0
    · rw [hneg h, h]
      cases negZeros c xs <;> rfl
    · have hs : sig Fmt.f32.trail b ≠ 0 := fun h0 => h (sig_eq_zero.mp h0)
      have hz : (bodyVal .f32 neg b).isZero = false := by simp [bodyVal, Val.isZero, hs]
      have hm : (bodyVal .f32 neg b).dy.m ≠ 0 := by cases neg <;> simp [bodyVal, Val.dy, sm, hs]
      rw [hz, Bool.false_and, eq_comm, ← Bool.not_eq_true]
      intro hn
      have h0 := (dotRun_negZeros hg hi hn).2
      rw [hx, hdy] at h0
      exact hm h0
  rw [hd, hsplit, ← hhead, negZeros]

/-- A finite f32 code is a code that a dot product can deliver. -/
theorem outCode_of_finite {a : Nat} (ha : a < 2 ^ 32) (hn : (decode .f32 a).isNan = false) (hi : (decode .f32 a).isInf = false) : OutCode a := by
  obtain ⟨hb, -⟩ := decode_ieee_finite (f := .f32) rfl hn hi
  have hm : maxBody .f32 ≤ infCode .f32 false := by decide
  exact ⟨_, _, (signCode_add_ieee (f := .f32) rfl ha).symm, hb.trans hm⟩

/-- R67: a dot product of finite terms is that of its first part, if that is whole groups, carried on through its second. -/
theorem frozenDot_append {p : Profile} {a : Nat} {xs ys : List (Val × Nat)} (ha : a < 2 ^ 32) (hg : 0 < p.g) (hdvd : p.g ∣ xs.length)
    (hn : (decode .f32 a).isNan = false) (hi : (decode .f32 a).isInf = false) (hq : AllFinite (xs ++ ys)) :
    frozenDot p (decode .f32 a) (xs ++ ys) =
      ((frozenDot p (decode .f32 (frozenDot p (decode .f32 a) xs).1) ys).1,
        (frozenDot p (decode .f32 a) xs).2 ||| (frozenDot p (decode .f32 (frozenDot p (decode .f32 a) xs).1) ys).2) := by
  have hqx : AllFinite xs := fun q h => hq q (List.mem_append_left _ h)
  have hqy : AllFinite ys := fun q h => hq q (List.mem_append_right _ h)
  obtain ⟨code1, hc1, h1⟩ := dotRun_outCode hg (outCode_of_finite ha hn hi) xs
  rw [frozenDot_eq hn hi hqx hc1 (Prod.ext h1 rfl)]
  have hrun := dotRun_append hg (decode .f32 a) ys hdvd
  rw [h1] at hrun
  rcases hc1.cases with ⟨neg, b, -, -, hd, -⟩ | ⟨neg, hcode, hd⟩
  · have hfin : (decode .f32 code1).isInf = false := by rw [hd]; rfl
    obtain ⟨neg', b', hd', hdy, -⟩ := decode_zeroSign hc1 hfin (decode .f32 a) xs
    have hn' : (decode .f32 (zeroSign (decode .f32 a) xs code1)).isNan = false := by rw [hd']; rfl
    have hi' : (decode .f32 (zeroSign (decode .f32 a) xs code1)).isInf = false := by rw [hd']; rfl
    have hsign (r : Nat) : zeroSign (decode .f32 (zeroSign (decode .f32 a) xs code1)) ys r = zeroSign (decode .f32 a) (xs ++ ys) r :=
      zeroSign_congr (negZeros_append hg hi ys hc1 hfin h1) r
    by_cases hnil : ys = []
    · subst hnil
      rw [List.append_nil] at hsign ⊢
      rw [frozenDot_eq hn hi hqx hc1 (Prod.ext h1 rfl), frozenDot_eq hn' hi' hqy (outCode_zeroSign hc1 _ _) (dotRun_nil p _), hsign,
        zeroSign_idem, Nat.or_zero]
    · obtain ⟨code2, hc2, h2⟩ := dotRun_outCode hg hc1 ys
      have hrun' := dotRun_congr hg hnil hfin hi' (by rw [hd', hdy])
      rw [h2] at hrun
      rw [frozenDot_eq hn hi hq hc2 hrun, frozenDot_eq hn' hi' hqy hc2 (hrun'.trans (Prod.ext h2 rfl)), hsign]
  · have hz : zeroSign (decode .f32 a) xs code1 = code1 := by
      rw [hcode, zeroSign_eq]
      cases neg <;> rfl
    rw [dotRun_inf hg (by rw [hd]; rfl) ys] at hrun
    rw [frozenDot_eq hn hi hq hc1 hrun, hz, hd, frozenDot, dotSpecial_inf neg hqy, hcode, zeroSign_eq]
    cases neg <;> rfl

-- The statement --------------------------------------------------------------------------------------------------------------------

/-- Settles O54. Conversion and rounding follow from the two neighbours of a magnitude; a frozen dot product, from one rounding for each group
and the groups one after another. -/
theorem conversion : Obligations.Conversion := by
  unfold Obligations.Conversion
  refine ⟨fun n f hf => ⟨?_, ?_, ?_, ?_⟩, ?_, ?_, ?_⟩
  · intro c mode ovf u hfl hc hn hi
    exact convert_decode (Fmt.floating_of_code hf hfl) hc hn hi mode ovf u
  · intro v mode ovf u hfl hv
    exact convert_nan hfl hv mode ovf u
  · intro z mode ovf u hint h1 h2
    exact convert_ofInt hint h1 h2 mode ovf u
  · intro neg m e k x y z ovf u c hie hx
    exact ⟨convert_rz_natAbs_le hie ovf u hx, convert_rne_nearest hie ovf u c hx⟩
  · intro p a xs ys ha hg hdvd hn hi hq
    exact frozenDot_append ha hg hdvd hn hi hq
  · intro p c qs k C T L hc hq h0 hg ts hle htop
    exact frozenDot_one_group p hc hq h0 hg hle htop
  · intro v lost k x y z c hx hy
    obtain ⟨hnx, hnear⟩ := roundF32Sticky_scaled (Dy.At.rat_eq hx) hy
    exact ⟨hnx, hnear z c⟩

end Sys2Proof.Machine
end

section
/-! SUPPORT. The coordinates that a result map carries (spec 03, R75, R76, R84 to R86), and the statement about maps. -/

namespace Sys2Proof.Machine

open Sys2Proof

-- Words and axes -------------------------------------------------------------------------------------------------------------------

/-- R75's wrap-around is the signed value of the 32-bit word. -/
theorem wrap32_eq (x : Int) : wrap32 x = (BitVec.ofInt 32 x).toInt := by
  have hlo : 0 ≤ x % (2 ^ 32 : Nat) := Int.emod_nonneg x (by decide)
  have hhi : x % (2 ^ 32 : Nat) < (2 ^ 32 : Nat) := Int.emod_lt_of_pos x (by decide)
  have hy : wrapNat 32 x < 2 ^ 32 := by unfold wrapNat; omega
  rw [wrap32, signed, Nat.mod_eq_of_lt hy, BitVec.toInt_eq_toNat_cond, BitVec.toNat_ofInt]
  show (if wrapNat 32 x < 2 ^ 31 then _ else _) = if 2 * wrapNat 32 x < 2 ^ 32 then _ else _
  simp only [show wrapNat 32 x < 2 ^ 31 ↔ 2 * wrapNat 32 x < 2 ^ 32 by omega]
  rfl

/-- The numbers of the four axes. -/
theorem axis_cases {d : Nat} (hd : d < 4) : d = 0 ∨ d = 1 ∨ d = 2 ∨ d = 3 := by omega

theorem Q4.get_mk' {α : Type} (f : Nat → α) {d : Nat} (hd : d < 4) : (Q4.mk' f).get d = f d := by
  rcases axis_cases hd with rfl | rfl | rfl | rfl <;> rfl

@[simp] theorem Q4.get_all {α : Type} (x : α) (d : Nat) : (Q4.all x).get d = x := by
  unfold Q4.get
  split <;> rfl

@[simp] theorem Q4.mk'_get {α : Type} (q : Q4 α) : (Q4.mk' fun d => q.get d) = q := rfl

theorem Q4.mk'_congr {α : Type} {f g : Nat → α} (h : ∀ d, d < 4 → f d = g d) : Q4.mk' f = Q4.mk' g := by
  rw [Q4.mk', Q4.mk', h 0 (by decide), h 1 (by decide), h 2 (by decide), h 3 (by decide)]

-- Coordinates of a position ----------------------------------------------------------------------------------------------------------

/-- The coordinates of row r and column q under an AFFINE map (R75), as 32-bit words. -/
def affineCoord (m : CMap) (r q : Nat) : Coord :=
  Q4.mk' fun d => m.base.get d + BitVec.ofInt 32 (r * (m.rs.get d).toInt + q * (m.qs.get d).toInt)

/-- A coordinate moved by an offset on each axis (R85, SLICE). -/
def shiftCoord (off c : Coord) : Coord := Q4.mk' fun d => c.get d + off.get d

/-- A coordinate whose axis d is axis p[d] of another (R85, PERM). -/
def permCoord (p : Q4 Nat) (c : Coord) : Coord := Q4.mk' fun d => c.get (p.get d)

theorem known_iff (v : MapV) : v.known = true ↔ v.m.mode = .affine ∨ v.m.mode = .explicit := by
  unfold MapV.known
  cases v.m.mode <;> decide

section
variable {v : MapV}

/-- The coordinates of a position are the four values of R75. -/
theorem coord_eq_coordAll (hv : v.known = true) (e : Nat) {d : Nat} (hd : d < 4) :
    coord v e d = some ((coordAll v e).get d).toInt := by
  rw [coordAll, Q4.get_mk' _ hd]
  rcases (known_iff v).mp hv with h | h
  · simp only [coord, h, wrap32_eq, BitVec.ofInt_toInt]
  · simp only [coord, h, BitVec.ofInt_toInt]

theorem coordAll_explicit (h : v.m.mode = .explicit) (e : Nat) : coordAll v e = v.xs.getD e voidCoord := by
  simp only [coordAll, coord, h, BitVec.ofInt_toInt, Q4.mk'_get]

theorem coordAll_affine (h : v.m.mode = .affine) (e : Nat) :
    coordAll v e = affineCoord v.m (e / 2 ^ v.m.lw.toNat) (e % 2 ^ v.m.lw.toNat) := by
  simp only [coordAll, coord, h, affineCoord, wrap32_eq, BitVec.ofInt_toInt, BitVec.ofInt_add, Nat.shiftRight_eq_div_pow,
    BitVec.add_assoc]

/-- A position written as row and column. -/
theorem coordAll_affine_row (h : v.m.mode = .affine) (r : Nat) {q : Nat} (hq : q < 2 ^ v.m.lw.toNat) :
    coordAll v (r * 2 ^ v.m.lw.toNat + q) = affineCoord v.m r q := by
  have hW := Nat.two_pow_pos v.m.lw.toNat
  rw [coordAll_affine h, Nat.mul_comm r, Nat.mul_add_div hW, Nat.div_eq_of_lt hq, Nat.add_zero, Nat.mul_add_mod, Nat.mod_eq_of_lt hq]

theorem isVoid_affine (h : v.m.mode = .affine) (e : Nat) : isVoid v e = false := by
  simp [isVoid, h]

theorem isVoid_explicit (h : v.m.mode = .explicit) (e : Nat) : isVoid v e = true ↔ coordAll v e = voidCoord := by
  rw [coordAll_explicit h]
  simp [isVoid, h]

end

/-- A gathered position has the coordinates of its source, and is void without one (R76). -/
theorem getD_gatherCoords (v : MapV) (idx : List (Option Nat)) (j : Nat) :
    (gatherCoords v idx).getD j voidCoord = (idx.getD j none).elim voidCoord (coordAll v) := by
  simp only [gatherCoords, List.getD_eq_getElem?_getD, List.getElem?_map]
  rcases idx[j]? with _ | _ | i <;> rfl

theorem permCoord_voidCoord (p : Q4 Nat) : permCoord p voidCoord = voidCoord := by
  simp only [permCoord, voidCoord, Q4.get_all]
  rfl

-- What a result carries --------------------------------------------------------------------------------------------------------------

/-- The result map `o` of the carrier `v` knows its coordinates, keeps the carrier's tag, describes `n` positions of width `ew`, and
position j carries the coordinates g j. -/
def MapOut.Carries (o : MapOut) (v : MapV) (ew : Ew) (n : Nat) (g : Nat → Coord) : Prop :=
  (o.view v).known = true ∧ (o.view v).m.tag = v.m.tag ∧ (o.view v).m.ew = ew ∧ ∀ j, j < n → coordAll (o.view v) j = g j

section
variable {v : MapV} {ew : Ew} {n : Nat} {g : Nat → Coord}

/-- The values of R75 under a result map, axis by axis. -/
theorem MapOut.Carries.coords {o : MapOut} (h : o.Carries v ew n g) {f : Nat → Nat → Option Int}
    (hf : ∀ j d, j < n → d < 4 → some ((g j).get d).toInt = f j d) :
    (o.view v).known = true ∧ (o.view v).m.tag = v.m.tag ∧ (o.view v).m.ew = ew ∧
      ∀ j d, j < n → d < 4 → coord (o.view v) j d = f j d := by
  obtain ⟨hk, htag, hew, hg⟩ := h
  refine ⟨hk, htag, hew, fun j d hj hd => ?_⟩
  rw [coord_eq_coordAll hk j hd, hg j hj, hf j d hj hd]

theorem carries_affine {m : CMap} (hm : m.mode = .affine) (htag : m.tag = v.m.tag) (hew : m.ew = ew)
    (hg : ∀ j, j < n → affineCoord m (j / 2 ^ m.lw.toNat) (j % 2 ^ m.lw.toNat) = g j) : (MapOut.keep m).Carries v ew n g := by
  refine ⟨(known_iff _).mpr (.inl hm), htag, hew, fun j hj => ?_⟩
  rw [coordAll_affine (v := (MapOut.keep m).view v) hm]
  exact hg j hj

theorem carries_fresh {m : CMap} {xs : List Coord} (hm : m.mode = .explicit) (htag : m.tag = v.m.tag) (hew : m.ew = ew)
    (hg : ∀ j, j < n → xs.getD j voidCoord = g j) : (MapOut.fresh m xs).Carries v ew n g := by
  refine ⟨(known_iff _).mpr (.inr hm), htag, hew, fun j hj => ?_⟩
  rw [coordAll_explicit (v := (MapOut.fresh m xs).view v) hm]
  exact hg j hj

/-- A new slot that is filled position by position. -/
theorem carries_filled (lw : BitVec 4) {f : Nat → Coord} (hf : ∀ j, f j = g j) :
    (MapOut.fresh { CMap.nil with mode := .explicit, tag := v.m.tag, lw := lw, ew := ew } ((List.range n).map f)).Carries v ew n g := by
  refine carries_fresh rfl rfl rfl fun j hj => ?_
  simp [List.getD_eq_getElem?_getD, hj, hf]

/-- KEEP and RESHAPE share the carrier's slot, or copy what a queue entry holds of it (R78, R86). -/
theorem carries_share (h : v.m.mode = .explicit) (lw : BitVec 4) :
    (if v.own then MapOut.fresh { v.m with mode := .explicit, ew := ew, lw := lw, slot := 0 } (v.xs.take n)
      else .keep { v.m with mode := .explicit, ew := ew, lw := lw }).Carries v ew n fun j => coordAll v j := by
  split
  · refine carries_fresh rfl rfl rfl fun j hj => ?_
    rw [coordAll_explicit h, List.getD_eq_getElem?_getD, List.getElem?_take_of_lt hj, List.getD_eq_getElem?_getD]
  · refine ⟨(known_iff _).mpr (.inr rfl), rfl, rfl, fun j _ => ?_⟩
    exact (coordAll_explicit rfl j).trans (coordAll_explicit h j).symm

end

-- The classes ------------------------------------------------------------------------------------------------------------------------

section
variable {v : MapV} (hv : v.known = true) (ew : Ew) (n : Nat)
include hv

theorem destMap_keep_carries : (destMap .keep v ew n).Carries v ew n fun j => coordAll v j := by
  rcases (known_iff v).mp hv with h | h <;> simp only [destMap, h]
  · exact carries_affine rfl rfl rfl fun j _ => (coordAll_affine h j).symm
  · exact carries_share h _

/-- Where the row stride is a row of columns, the coordinates run on through the rows, and any row width gives the same. -/
theorem destMap_reshape_carries {lw : Nat} (hlw : lw < 16) :
    (destMap (.reshape lw) v ew n).Carries v ew n fun j => coordAll v j := by
  rcases (known_iff v).mp hv with h | h <;> simp only [destMap, h]
  · split
    next hok =>
      simp only [List.all_eq_true, List.mem_range, Bool.and_eq_true, decide_eq_true_eq, fits16] at hok
      have hlw' : (BitVec.ofNat 4 lw).toNat = lw := BitVec.toNat_ofNat lw 4 ▸ Nat.mod_eq_of_lt hlw
      refine carries_affine rfl rfl rfl fun j _ => ?_
      rw [coordAll_affine h]
      refine Q4.mk'_congr fun d hd => ?_
      obtain ⟨hrs, hlo, hhi⟩ := hok d hd
      have hfit : (BitVec.ofInt 16 ((2 ^ lw : Nat) * (v.m.qs.get d).toInt)).toInt = (2 ^ lw : Nat) * (v.m.qs.get d).toInt := by
        rw [BitVec.toInt_ofInt]
        exact Int.bmod_eq_of_le (by omega) (by omega)
      have hrun (W : Nat) : ((j / W : Nat) : Int) * (W * (v.m.qs.get d).toInt) + ((j % W : Nat) : Int) * (v.m.qs.get d).toInt
          = j * (v.m.qs.get d).toInt := by
        rw [← Int.mul_assoc, ← Int.add_mul, ← Int.natCast_mul, ← Int.natCast_add, Nat.mul_comm, Nat.div_add_mod]
      simp only [Q4.get_mk' _ hd, hlw', hfit, hrs, hrun]
    next =>
      rw [gatherCoords, List.map_map]
      exact carries_filled _ fun _ => rfl
  · exact carries_share h _

/-- The transpose of H rows of W columns has W rows of H columns, with the strides exchanged. -/
theorem destMap_trans_carries {k : Nat} (hk : k < 16) (hn : n = 2 ^ k) (hW : 2 ^ v.m.lw.toNat ≤ n) :
    (destMap .trans v ew n).Carries v ew n fun j =>
      coordAll v (j % (n / 2 ^ v.m.lw.toNat) * 2 ^ v.m.lw.toNat + j / (n / 2 ^ v.m.lw.toNat)) := by
  have hL : v.m.lw.toNat ≤ k := (Nat.pow_le_pow_iff_right (by decide)).mp (hn ▸ hW)
  have hlog : n.log2 = k := hn ▸ Nat.log2_two_pow
  have hH : n / 2 ^ v.m.lw.toNat = 2 ^ (k - v.m.lw.toNat) := hn ▸ Nat.pow_div hL (by decide)
  rcases (known_iff v).mp hv with h | h <;> simp only [destMap, h, hlog, hH]
  · have hlw : (BitVec.ofNat 4 (k - v.m.lw.toNat)).toNat = k - v.m.lw.toNat :=
      BitVec.toNat_ofNat _ 4 ▸ Nat.mod_eq_of_lt (by omega)
    refine carries_affine rfl rfl rfl fun j hj => ?_
    have hq : j / 2 ^ (k - v.m.lw.toNat) < 2 ^ v.m.lw.toNat := by
      rw [Nat.div_lt_iff_lt_mul (Nat.two_pow_pos _), ← Nat.pow_add, Nat.add_sub_cancel' hL]
      exact hn ▸ hj
    rw [coordAll_affine_row h _ hq, hlw]
    refine Q4.mk'_congr fun d _ => ?_
    rw [Int.add_comm]
  · exact carries_filled _ fun _ => rfl

theorem destMap_redQ_carries :
    (destMap .redQ v ew n).Carries v ew n fun j => coordAll v (j / 2 ^ v.m.lw.toNat * 2 ^ v.m.lw.toNat) := by
  rcases (known_iff v).mp hv with h | h <;> simp only [destMap, h]
  · refine carries_affine rfl rfl rfl fun j _ => ?_
    have hsrc := coordAll_affine_row h (j / 2 ^ v.m.lw.toNat) (Nat.two_pow_pos _)
    rw [Nat.add_zero] at hsrc
    simp [hsrc, affineCoord]
  · exact carries_filled _ fun _ => rfl

theorem destMap_redR_carries : (destMap .redR v ew n).Carries v ew n fun j => coordAll v (j % 2 ^ v.m.lw.toNat) := by
  rcases (known_iff v).mp hv with h | h <;> simp only [destMap, h]
  · refine carries_affine rfl rfl rfl fun j _ => ?_
    have hsrc := coordAll_affine_row h 0 (Nat.mod_lt j (Nat.two_pow_pos v.m.lw.toNat))
    rw [Nat.zero_mul, Nat.zero_add] at hsrc
    simp [hsrc, affineCoord]
  · exact carries_filled _ fun _ => rfl

theorem destMap_bcastE_carries (y : Nat) : (destMap (.bcastE y) v ew n).Carries v ew n fun _ => coordAll v y := by
  rcases (known_iff v).mp hv with h | h <;> simp only [destMap, h]
  · exact carries_affine rfl rfl rfl fun j _ => by simp [affineCoord]
  · exact carries_filled _ fun _ => rfl

theorem destMap_bcastRow_carries (y : Nat) :
    (destMap (.bcastRow y) v ew n).Carries v ew n fun j => coordAll v (y * 2 ^ v.m.lw.toNat + j % 2 ^ v.m.lw.toNat) := by
  rcases (known_iff v).mp hv with h | h <;> simp only [destMap, h]
  · refine carries_affine rfl rfl rfl fun j _ => ?_
    rw [coordAll_affine_row h y (Nat.mod_lt j (Nat.two_pow_pos _))]
    refine Q4.mk'_congr fun d hd => ?_
    simp [Q4.get_mk' _ hd, BitVec.ofInt_add, BitVec.add_assoc]
  · exact carries_filled _ fun _ => rfl

theorem destMap_bcastCol_carries {z : Nat} (hz : z < 2 ^ v.m.lw.toNat) :
    (destMap (.bcastCol z) v ew n).Carries v ew n fun j =>
      coordAll v (j / 2 ^ v.m.lw.toNat * 2 ^ v.m.lw.toNat + z) := by
  rcases (known_iff v).mp hv with h | h <;> simp only [destMap, h]
  · refine carries_affine rfl rfl rfl fun j _ => ?_
    rw [coordAll_affine_row h _ hz]
    refine Q4.mk'_congr fun d hd => ?_
    simp [Q4.get_mk' _ hd, BitVec.ofInt_add, BitVec.add_assoc, BitVec.add_comm (BitVec.ofInt 32 (z * _))]
  · exact carries_filled _ fun _ => rfl

theorem destMap_gather_carries (idx : List (Option Nat)) :
    (destMap (.gather idx) v ew n).Carries v ew n fun j => (idx.getD j none).elim voidCoord (coordAll v) := by
  rcases (known_iff v).mp hv with h | h <;> simp only [destMap, h]
  · exact carries_fresh rfl rfl rfl fun j _ => getD_gatherCoords v idx j
  · exact carries_fresh rfl rfl rfl fun j _ => getD_gatherCoords v idx j

theorem destMap_slice_carries (off : Coord) :
    (destMap (.slice off) v ew n).Carries v ew n fun j => if isVoid v j then voidCoord else shiftCoord off (coordAll v j) := by
  rcases (known_iff v).mp hv with h | h <;> simp only [destMap, h]
  · refine carries_affine rfl rfl rfl fun j _ => ?_
    rw [isVoid_affine h, if_neg Bool.false_ne_true, coordAll_affine h]
    refine Q4.mk'_congr fun d hd => ?_
    rw [affineCoord, Q4.get_mk' _ hd, Q4.get_mk' _ hd, BitVec.add_assoc, BitVec.add_assoc, BitVec.add_comm (off.get d)]
  · refine carries_filled _ fun j => ?_
    simp only [isVoid_explicit h, onCoord]
    split
    · assumption
    · rfl

theorem destMap_perm_carries {p : Q4 Nat} (hp : ∀ d, d < 4 → p.get d < 4) :
    (destMap (.perm p) v ew n).Carries v ew n fun j => permCoord p (coordAll v j) := by
  rcases (known_iff v).mp hv with h | h <;> simp only [destMap, h]
  · refine carries_affine rfl rfl rfl fun j _ => ?_
    rw [coordAll_affine h]
    refine Q4.mk'_congr fun d hd => ?_
    simp only [affineCoord, Q4.get_mk' _ hd, Q4.get_mk' _ (hp d hd)]
  · refine carries_filled _ fun j => ?_
    rw [onCoord]
    split
    next hvoid => rw [hvoid, permCoord_voidCoord]
    next => rfl

end

/-- A carrier with no coordinates passes on its mode and its tag (R86). -/
theorem destMap_unknown {v : MapV} (hv : v.known = false) (cls : MapClass) (ew : Ew) (n : Nat) :
    destMap cls v ew n = .keep { CMap.nil with mode := v.m.mode, tag := v.m.tag, lw := v.m.lw, ew := ew } := by
  cases h : v.m.mode with
  | none | lost => simp only [destMap, h]
  | affine | explicit => simp [MapV.known, h] at hv

-- The statement ----------------------------------------------------------------------------------------------------------------------

/-- Settles O55. Each class gives every position the coordinates of its source, by rows and columns for an AFFINE carrier and position
by position for an EXPLICIT one. -/
theorem mapsFollowElements : Obligations.MapsFollowElements := by
  unfold Obligations.MapsFollowElements
  intro v ew n hn hW
  obtain ⟨k, hk, hnk⟩ : ∃ k, k < 16 ∧ n = 2 ^ k := by
    rcases hn with rfl | rfl | rfl
    · exact ⟨6, by decide, rfl⟩
    · exact ⟨7, by decide, rfl⟩
    · exact ⟨8, by decide, rfl⟩
  refine ⟨fun hv => ⟨fun lw hlw y z hz => ?_, fun idx _ => ?_, fun off => ?_, fun p hp => ?_⟩, fun hv cls => ?_⟩
  · have hsrc (src : Nat → Nat) (j d : Nat) (_ : j < n) (hd : d < 4) :
        some ((coordAll v (src j)).get d).toInt = coord v (src j) d := (coord_eq_coordAll hv (src j) hd).symm
    simp only [List.forall_mem_cons, List.not_mem_nil, false_implies, implies_true, and_true]
    exact ⟨(destMap_keep_carries hv ew n).coords (hsrc _), (destMap_reshape_carries hv ew n hlw).coords (hsrc _),
      (destMap_trans_carries hv ew n hk hnk hW).coords (hsrc _), (destMap_redQ_carries hv ew n).coords (hsrc _),
      (destMap_redR_carries hv ew n).coords (hsrc _), (destMap_bcastE_carries hv ew n y).coords (hsrc _),
      (destMap_bcastRow_carries hv ew n y).coords (hsrc _), (destMap_bcastCol_carries hv ew n hz).coords (hsrc _)⟩
  · refine (destMap_gather_carries hv ew n idx).coords fun j d _ hd => ?_
    cases idx.getD j none with
    | none => simp [voidCoord]
    | some i => exact (coord_eq_coordAll hv i hd).symm
  · refine (destMap_slice_carries hv ew n off).coords fun j d _ hd => ?_
    rw [coord_eq_coordAll hv j hd]
    split
    · simp [voidCoord]
    · rw [shiftCoord, Q4.get_mk' _ hd, Option.map_some, wrap32_eq, BitVec.ofInt_add, BitVec.ofInt_toInt, BitVec.ofInt_toInt]
  · refine (destMap_perm_carries hv ew n hp).coords fun j d _ hd => ?_
    rw [permCoord, Q4.get_mk' _ hd, coord_eq_coordAll hv j (hp d hd)]
  · exact congrArg (MapOut.view · v) (destMap_unknown hv cls ew n)

end Sys2Proof.Machine
end

section
/-! SUPPORT. The gauge unit (spec 04, R103, R104, R115): what a partial that arrives and an uncorrectable error do to a record. -/

namespace Sys2Proof.Machine

open Sys2Proof

@[simp] theorem Ctx.gauge_setGauge (c : Ctx) (g : Nat) (x : Gauge) : (c.setGauge g x).gauge g = x := by
  simp [Ctx.gauge, Ctx.setGauge]

-- Saturating sums of bins ------------------------------------------------------------------------------------------------------------

theorem sget_of_unlisted {α : Type} (d : α) (m : SMap α) (i : Nat) (h : i ∉ m.map Prod.fst) : sget d m i = d := by
  induction m with
  | nil => rfl
  | cons p m ih =>
    simp only [List.map_cons, List.mem_cons, not_or] at h
    rw [sget, if_neg h.1, ih h.2]

theorem sat32_le (x : Nat) : sat32 x ≤ 0xFFFFFFFF := Nat.min_le_right _ _

theorem sat32_of_le {x : Nat} (h : x ≤ 0xFFFFFFFF) : sat32 x = x := Nat.min_eq_left h

/-- Merging bins that are listed once each adds bin by bin. -/
theorem sget_merged_bins (new : SMap Nat) (hn : (new.map Prod.fst).Nodup) (old : SMap Nat) (b : Nat) (hb : sget 0 old b ≤ 0xFFFFFFFF) :
    sget 0 (new.foldl (fun m kv => sset m kv.1 (sat32 (sget 0 m kv.1 + kv.2))) old) b = sat32 (sget 0 old b + sget 0 new b) := by
  induction new generalizing old with
  | nil => exact (sat32_of_le hb).symm
  | cons kv new ih =>
    obtain ⟨hk, hn⟩ := List.nodup_cons.mp hn
    rw [List.foldl_cons, sget]
    by_cases h : b = kv.1
    · subst h
      have hs := sget_sset_same 0 old kv.1 (sat32 (sget 0 old kv.1 + kv.2))
      rw [ih hn _ (hs.trans_le (sat32_le _)), hs, sget_of_unlisted 0 new kv.1 hk, if_pos rfl, Nat.add_zero, sat32_of_le (sat32_le _)]
    · have hs := sget_sset_other 0 old kv.1 b (sat32 (sget 0 old kv.1 + kv.2)) h
      rw [ih hn _ (hs ▸ hb), hs, if_neg h]

-- A partial and a record's state (R103, R104, R115) ------------------------------------------------------------------------------------

section
variable {c : Ctx} {p : GPart}

theorem Ctx.applyPart_free (h : (c.gauge p.gid).st = 0) : c.applyPart p = { c with stray := sat32 (c.stray + 1) } := by
  simp only [Ctx.applyPart, h, if_true]

theorem Ctx.applyPart_open (h : (c.gauge p.gid).st = 1) :
    c.applyPart p = c.setGauge p.gid { c.gauge p.gid with
      half := (c.gauge p.gid).half.merge p.half, ovcnt := sat32 ((c.gauge p.gid).ovcnt + p.ov) } := by
  simp [Ctx.applyPart, h]

theorem Ctx.applyPart_poisoned (h : (c.gauge p.gid).st = 2) : c.applyPart p = c := by
  simp [Ctx.applyPart, h]

end

theorem exec_gaugeMerge_part {s : State} {p : GPart} (h : (s.ctx s.ev.md s.ev.asid).parts[s.ev.i]? = some p) :
    exec .gaugeMerge s = .next (s.setCtx s.ev.md s.ev.asid
      { (s.ctx s.ev.md s.ev.asid).applyPart p with parts := (s.ctx s.ev.md s.ev.asid).parts.eraseIdx s.ev.i }) := by
  change execGaugeMerge s = _
  simp only [execGaugeMerge, h]

theorem exec_gpoison_open {s : State} (h : ((s.ctx s.ev.md s.ev.asid).gauge s.ev.i).st = 1) :
    exec .gpoison s = .next (((s.setCtx s.ev.md s.ev.asid ((s.ctx s.ev.md s.ev.asid).setGauge s.ev.i
      { (s.ctx s.ev.md s.ev.asid).gauge s.ev.i with st := 2 })).count s.ev.md 5 1).post s.ev.md 0x140 (some s.ev.asid)
        (srcHub (0x10 + s.ev.i % 8)) 0 s.ev.i) := by
  change execGpoison s = _
  simp only [execGpoison, h, if_true]

/-- Settles O11. The state of the record decides what a partial does; an error poisons an OPEN one. -/
theorem gaugeUnit : Obligations.GaugeUnit := by
  unfold Obligations.GaugeUnit
  intro s p
  dsimp only
  refine ⟨fun hp => ⟨_, exec_gaugeMerge_part hp, rfl, fun hfree => ?_, fun hopen => ?_, fun hpois => ?_⟩, fun hopen => ?_⟩
  · rw [Ctx.applyPart_free hfree]
    rfl
  · rw [Ctx.applyPart_open hopen]
    have hg (l : List GPart) (x : Gauge) :
        ({ (s.ctx s.ev.md s.ev.asid).setGauge p.gid x with parts := l } : Ctx).gauge p.gid = x := Ctx.gauge_setGauge _ _ _
    simp only [hg, and_true]
    exact ⟨rfl, rfl, rfl, rfl, rfl, rfl, rfl, fun hn b hb => sget_merged_bins _ hn _ b hb⟩
  · rw [Ctx.applyPart_poisoned hpois]
  · exact ⟨_, exec_gpoison_open hopen, rfl⟩

end Sys2Proof.Machine
end

section
/-! SUPPORT. The close of a generation (spec 04, R107): the largest exponent that keeps a maximum in a format's range, and the flags. -/

namespace Sys2Proof.Machine

open Sys2Proof

-- Fields -----------------------------------------------------------------------------------------------------------------------------------

theorem field_eq (x lo len : Nat) : field x lo len = x / 2 ^ lo % 2 ^ len := by rw [field, Nat.shiftRight_eq_div_pow]

theorem bitAt_eq_testBit (x i : Nat) : bitAt x i = x.testBit i := by
  rw [Nat.testBit_eq_decide_div_mod_eq, bitAt, Nat.shiftRight_eq_div_pow, beq_eq_decide]

theorem fmtOfIndex_eq (j : Nat) : fmtOfIndex j = .b8 (j / 4 + 1) (j.testBit 1) (j.testBit 0) := by
  rw [fmtOfIndex, bitAt_eq_testBit, bitAt_eq_testBit]

-- Magnitudes by their binary exponents ---------------------------------------------------------------------------------------------------

/-- The magnitude with the smaller binary exponent is the smaller one. -/
theorem magLt_of_exponent_lt {m1 m2 : Nat} {e1 e2 : Int} (h2 : m2 ≠ 0) (h : (m1.log2 : Int) + e1 < m2.log2 + e2) :
    magLt m1 e1 m2 e2 = true := by
  rw [magLt, decide_eq_true_eq]
  calc m1 * 2 ^ (e1 - min e1 e2).toNat
      < 2 ^ (m1.log2 + 1) * 2 ^ (e1 - min e1 e2).toNat := Nat.mul_lt_mul_of_pos_right Nat.lt_log2_self (Nat.two_pow_pos _)
    _ = 2 ^ (m1.log2 + 1 + (e1 - min e1 e2).toNat) := (Nat.pow_add ..).symm
    _ ≤ 2 ^ (m2.log2 + (e2 - min e1 e2).toNat) := Nat.pow_le_pow_right (by decide) (by omega)
    _ = 2 ^ m2.log2 * 2 ^ (e2 - min e1 e2).toNat := Nat.pow_add ..
    _ ≤ m2 * 2 ^ (e2 - min e1 e2).toNat := Nat.mul_le_mul_right _ (Nat.log2_self_le h2)

theorem magLt_asymm {m1 m2 : Nat} {e1 e2 : Int} (h : magLt m1 e1 m2 e2 = true) : magLt m2 e2 m1 e1 = false := by
  rw [magLt, decide_eq_true_eq] at h
  rw [magLt, decide_eq_false_iff_not, Int.min_comm]
  exact Nat.not_lt.mpr h.le

-- The exponent of a format ---------------------------------------------------------------------------------------------------------------

section
variable {c m : Nat} {neg st : Bool} {e : Int} (hd : decode .f32 c = .num neg m e st) (f : Fmt)
include hd

theorem fitsScaled_of_decode (z : Int) : fitsScaled c z f = !magLt (maxFinMag f).1 (maxFinMag f).2 m (e + z) := by
  rw [fitsScaled, hd]

theorem scaleFor_of_decode :
    scaleFor c f =
      let z := (((maxFinMag f).1.log2 : Int) + (maxFinMag f).2) - ((m.log2 : Int) + e)
      if fitsScaled c z f = true then z else z - 1 := by
  rw [scaleFor, hd]

/-- R107: a maximum fits under just those exponents that are no greater than its scale. The difference of the binary exponents, and the maximum at
that difference, decide. -/
theorem fitsScaled_iff_le_scaleFor (hm : m ≠ 0) (hM : (maxFinMag f).1 ≠ 0) (z : Int) : fitsScaled c z f = true ↔ z ≤ scaleFor c f := by
  rw [scaleFor_of_decode hd f]
  dsimp only
  generalize hD : (((maxFinMag f).1.log2 : Int) + (maxFinMag f).2) - ((m.log2 : Int) + e) = D
  rcases Int.lt_trichotomy z D with h | rfl | h
  · have hfit : fitsScaled c z f = true := by
      rw [fitsScaled_of_decode hd, magLt_asymm (magLt_of_exponent_lt hM (by omega)), Bool.not_false]
    simp only [hfit, true_iff]
    split <;> omega
  · split <;> simp_all
  · have hover : fitsScaled c z f = false := by
      rw [fitsScaled_of_decode hd, magLt_of_exponent_lt hm (by omega), Bool.not_true]
    simp only [hover, Bool.false_eq_true, false_iff]
    split <;> omega

end

/-- An f32 code of a positive finite number is one. -/
theorem decode_f32_positive {c : Nat} (h0 : 0 < c) (h1 : c < 0x7F800000) : ∃ neg m e st, decode .f32 c = .num neg m e st ∧ m ≠ 0 := by
  have hb : c % 2 ^ (Fmt.f32.width - 1) = c := Nat.mod_eq_of_lt (by change c < 2 ^ 31; omega)
  obtain ⟨hd, -⟩ := decode_ieee (f := .f32) rfl c
  rw [hb] at hd
  exact ⟨_, _, _, _, hd h1, fun h => h0.ne' (sig_eq_zero.mp h)⟩

theorem maxFinMag_fmtOfIndex : ∀ j, j < 28 → (maxFinMag (fmtOfIndex j)).1 ≠ 0 := by decide

/-- The exponent under which a maximum fits and does not fit with one more is its scale. -/
theorem fitsScaled_top_iff {c j : Nat} (h0 : 0 < c) (h1 : c < 0x7F800000) (hj : j < 28) (z : Int) :
    fitsScaled c z (fmtOfIndex j) = true ∧ fitsScaled c (z + 1) (fmtOfIndex j) = false ↔ z = scaleFor c (fmtOfIndex j) := by
  obtain ⟨neg, m, e, st, hd, hm⟩ := decode_f32_positive h0 h1
  have h := fitsScaled_iff_le_scaleFor hd (fmtOfIndex j) hm (maxFinMag_fmtOfIndex j hj)
  rw [← Bool.not_eq_true, h, h]
  omega

-- The fields of a closed record ----------------------------------------------------------------------------------------------------------

/-- The exponents of a close before they are clamped. -/
def GHalf.rawScales (h : GHalf) (margin : Nat) : List Int :=
  (List.range 28).map fun j => if h.amax = 0 then 0 else scaleFor h.amax (fmtOfIndex j) - margin

/-- An exponent is clamped. -/
def GHalf.clamps (h : GHalf) (margin : Nat) : Bool := (h.rawScales margin).any fun s => decide (s < -128) || decide (s > 127)

/-- A counter of the half, or a bin, is full. -/
def GHalf.full (h : GHalf) : Bool :=
  h.z == 0xFFFFFFFF || h.n == 0xFFFFFFFF || h.i == 0xFFFFFFFF || h.bins.any (fun b => b.2 == 0xFFFFFFFF) || h.e == 2 ^ 64 - 1

/-- Five flags as a number, the first in bit 0. -/
def flagBits (a b c d e : Bool) : Nat :=
  (if a then 1 else 0) + (if b then 2 else 0) + (if c then 4 else 0) + (if d then 8 else 0) + (if e then 16 else 0)

theorem flagBits_testBit : ∀ a b c d e : Bool, flagBits a b c d e < 32 ∧ (flagBits a b c d e).testBit 0 = a ∧
    (flagBits a b c d e).testBit 1 = b ∧ (flagBits a b c d e).testBit 2 = c ∧ (flagBits a b c d e).testBit 3 = d ∧
    (flagBits a b c d e).testBit 4 = e := by decide

theorem GHalf.full_iff (h : GHalf) : h.full = true ↔
    h.z = 2 ^ 32 - 1 ∨ h.n = 2 ^ 32 - 1 ∨ h.i = 2 ^ 32 - 1 ∨ h.e = 2 ^ 64 - 1 ∨ ∃ b ∈ h.bins, b.2 = 2 ^ 32 - 1 := by
  rw [show 2 ^ 32 - 1 = 0xFFFFFFFF from rfl]
  simp only [GHalf.full, Bool.or_eq_true, beq_iff_eq, List.any_eq_true, or_assoc]
  exact or_congr_right (or_congr_right (or_congr_right or_comm))

section
variable (g : Gauge) (cfg : Option (Nat × Bool)) (now : Nat)

theorem Gauge.close_sx : (g.close cfg now).sx = (g.half.rawScales (g.close cfg now).margin).map fun s => max (-128) (min 127 s) := rfl

theorem Gauge.close_cflg : (g.close cfg now).cflg = flagBits (decide (g.half.amax = 0)) (decide (g.half.n ≠ 0)) (decide (g.half.i ≠ 0))
    g.half.full (g.half.clamps (g.close cfg now).margin) := by
  simp only [flagBits, decide_eq_true_eq]
  rfl

/-- The flags of a close (R98, R107). -/
theorem Gauge.close_flags :
    (g.close cfg now).cflg < 32 ∧ (g.close cfg now).cflg.testBit 0 = decide (g.half.amax = 0) ∧
      (g.close cfg now).cflg.testBit 1 = decide (g.half.n ≠ 0) ∧ (g.close cfg now).cflg.testBit 2 = decide (g.half.i ≠ 0) ∧
      (g.close cfg now).cflg.testBit 3 = g.half.full ∧ (g.close cfg now).cflg.testBit 4 = g.half.clamps (g.close cfg now).margin := by
  rw [close_cflg]
  exact flagBits_testBit _ _ _ _ _

theorem Gauge.close_sx_length : (g.close cfg now).sx.length = 28 := by
  simp only [close_sx, GHalf.rawScales, List.length_map, List.length_range]

end

theorem GHalf.rawScales_zero {h : GHalf} (h0 : h.amax = 0) (margin : Nat) : h.rawScales margin = List.replicate 28 0 := by
  simp only [rawScales, h0, if_true, List.map_const', List.length_range]

theorem GHalf.rawScales_getElem? {h : GHalf} (h0 : h.amax ≠ 0) (margin : Nat) {j : Nat} (hj : j < 28) :
    (h.rawScales margin)[j]? = some (scaleFor h.amax (fmtOfIndex j) - margin) := by
  simp only [rawScales, h0, if_false, List.getElem?_map, List.getElem?_range hj, Option.map_some]

theorem GHalf.mem_rawScales {h : GHalf} (h0 : h.amax ≠ 0) (margin : Nat) (x : Int) :
    x ∈ h.rawScales margin ↔ ∃ j, j < 28 ∧ scaleFor h.amax (fmtOfIndex j) - margin = x := by
  simp only [rawScales, h0, if_false, List.mem_map, List.mem_range]

/-- The close of a maximum of 0: every exponent is 0, and none was clamped. -/
theorem Gauge.close_of_zero (g : Gauge) (cfg : Option (Nat × Bool)) (now : Nat) (h : g.half.amax = 0) :
    (g.close cfg now).cflg.testBit 4 = false ∧ ∀ j, (g.close cfg now).sx.getD j 0 = 0 := by
  obtain ⟨-, -, -, -, -, hclamp⟩ := g.close_flags cfg now
  refine ⟨?_, fun j => ?_⟩
  · rw [hclamp, GHalf.clamps, GHalf.rawScales_zero h]
    decide
  · rw [close_sx, GHalf.rawScales_zero h, List.map_replicate, List.getD_eq_getElem?_getD, List.getElem?_replicate]
    split <;> rfl

/-- R107: the exponent of each format is the largest that keeps the maximum in range, less MARGIN, clamped; the flag tells that one was. -/
theorem Gauge.close_of_finite (g : Gauge) (cfg : Option (Nat × Bool)) (now : Nat) (h0 : 0 < g.half.amax) (h1 : g.half.amax < 0x7F800000) :
    let top (j : Nat) (z : Int) : Prop :=
      fitsScaled g.half.amax z (fmtOfIndex j) = true ∧ fitsScaled g.half.amax (z + 1) (fmtOfIndex j) = false
    let margin := (g.close cfg now).margin
    (∀ j, j < 28 → ∃ z, top j z ∧ (g.close cfg now).sx.getD j 0 = max (-128) (min 127 (z - margin))) ∧
      ((g.close cfg now).cflg.testBit 4 = true ↔ ∃ j z, j < 28 ∧ top j z ∧ (z - margin < -128 ∨ z - margin > 127)) := by
  intro top margin
  obtain ⟨-, -, -, -, -, hclamp⟩ := g.close_flags cfg now
  refine ⟨fun j hj => ⟨_, (fitsScaled_top_iff h0 h1 hj _).mpr rfl, ?_⟩, ?_⟩
  · rw [close_sx, List.getD_eq_getElem?_getD, List.getElem?_map, GHalf.rawScales_getElem? h0.ne' _ hj]
    rfl
  · rw [hclamp]
    simp only [GHalf.clamps, List.any_eq_true, GHalf.mem_rawScales h0.ne', Bool.or_eq_true, decide_eq_true_eq]
    constructor
    · rintro ⟨_, ⟨j, hj, rfl⟩, hz⟩
      exact ⟨j, _, hj, (fitsScaled_top_iff h0 h1 hj _).mpr rfl, hz⟩
    · rintro ⟨j, z, hj, ht, hz⟩
      obtain rfl := (fitsScaled_top_iff h0 h1 hj z).mp ht
      exact ⟨_, ⟨j, hj, rfl⟩, hz⟩

end Sys2Proof.Machine
end

section
/-! SUPPORT. GALLOC, GBIND and GCLOSE (spec 06, R167 to R169; 04, R97, R107, R115). -/

namespace Sys2Proof.Machine

open Sys2Proof

theorem onK_ctl {s : State} (h : isCtl s.cur.kind = true) (f : SeqId → State) : onK s f = .next (f s.cur) := by
  rw [onK, if_pos h]

/-- The group of a sequencer after its record is replaced. -/
@[simp] theorem State.grpOf_setGroup_gidOf (s : State) (q : SeqId) (x : Group) : (s.setGroup (s.gidOf q) x).grpOf q = x :=
  State.group_setGroup ..

-- The id a gauge instruction names (R97, R167) -------------------------------------------------------------------------------------------

theorem State.gidCheck_none {s : State} {q : SeqId} {v : Word} (h : v.toNat = 0 ∨ v.toNat ≥ 2 ^ (s.ctxOf q).gtsz) : s.gidCheck q v = none := by
  rw [State.gidCheck, if_pos h]

theorem State.gidCheck_some {s : State} {q : SeqId} {v : Word} (h0 : 0 < v.toNat) (h1 : v.toNat < 2 ^ (s.ctxOf q).gtsz) :
    s.gidCheck q v = some v.toNat := by
  rw [State.gidCheck, if_neg (by omega)]

theorem exec_gclose (d a : BitVec 5) (s : State) : exec (.gclose d a) s = closeK d a (fun _ => none) 0 s := rfl

theorem exec_gcloseCfg (d a b : BitVec 5) (s : State) : exec (.gcloseCfg d a b) s =
    closeK d a (fun w => some (w.toNat / 16 % 16, w.toNat % 2 == 1)) b s := by
  change closeK d a (fun w => some (field w.toNat 4 4, bitAt w.toNat 0)) b s = _
  simp only [field_eq]
  rfl

-- What each instruction does --------------------------------------------------------------------------------------------------------------

section
variable {s : State} (d a b : BitVec 5) (hc : isCtl s.cur.kind = true)
include hc

section
variable (hid : s.gidCheck s.cur (s.getK s.cur a) = none)
include hid

theorem exec_galloc_id : exec (.galloc a b) s = .next (s.trap s.cur { code := tcGaugeId }) := by
  change execGalloc a b s = _
  simp only [execGalloc, onK_ctl hc, hid]

theorem exec_gallocRel_id : exec (.gallocRel a) s = .next (s.trap s.cur { code := tcGaugeId }) := by
  change execGallocRel a s = _
  simp only [execGallocRel, onK_ctl hc, hid]

theorem closeK_id (cfg : Word → Option (Nat × Bool)) : closeK d a cfg b s = .next (s.trap s.cur { code := tcGaugeId }) := by
  simp only [closeK, onK_ctl hc, hid]

end

section
variable {g : Nat} (hid : s.gidCheck s.cur (s.getK s.cur a) = some g)
include hid

theorem exec_galloc_state (h : ((s.ctxOf s.cur).gauge g).st ≠ 0) :
    exec (.galloc a b) s = .next (s.trap s.cur { code := tcGaugeState }) := by
  change execGalloc a b s = _
  simp only [execGalloc, onK_ctl hc, hid, h, not_false_eq_true, ne_eq, if_true]

theorem exec_galloc_opens (h : ((s.ctxOf s.cur).gauge g).st = 0) :
    exec (.galloc a b) s = .next ((s.setCtxOf s.cur ((s.ctxOf s.cur).setGauge g { Gauge.free with
      st := 1, margin := (s.getK s.cur b).toNat / 16 % 16, ovm := (s.getK s.cur b).toNat % 2 == 1 })).fin s.cur) := by
  change execGalloc a b s = _
  simp only [execGalloc, onK_ctl hc, hid, h, not_true_eq_false, ne_eq, if_false, field_eq, Nat.reducePow]
  rfl

theorem exec_gallocRel_state (h : ((s.ctxOf s.cur).gauge g).st = 0) :
    exec (.gallocRel a) s = .next (s.trap s.cur { code := tcGaugeState }) := by
  change execGallocRel a s = _
  simp only [execGallocRel, onK_ctl hc, hid, h, if_true]

theorem exec_gallocRel_frees (h : ((s.ctxOf s.cur).gauge g).st ≠ 0) :
    exec (.gallocRel a) s = .next ((s.setCtxOf s.cur ((s.ctxOf s.cur).setGauge g .free)).fin s.cur) := by
  change execGallocRel a s = _
  simp only [execGallocRel, onK_ctl hc, hid, h, if_false]

variable (cfg : Word → Option (Nat × Bool))

theorem closeK_free (h : ((s.ctxOf s.cur).gauge g).st = 0) : closeK d a cfg b s = .next (s.trap s.cur { code := tcGaugeId }) := by
  simp only [closeK, onK_ctl hc, hid, h, if_true]

theorem closeK_poisoned (h : ((s.ctxOf s.cur).gauge g).st = 2) : closeK d a cfg b s = .next (s.trap s.cur { code := tcGaugePoison }) := by
  simp only [closeK, onK_ctl hc, hid, h, if_true, OfNat.ofNat_ne_zero, if_false]

theorem closeK_closes (h : ((s.ctxOf s.cur).gauge g).st = 1) :
    let r := ((s.ctxOf s.cur).gauge g).close (cfg (s.getK s.cur b)) s.tick
    closeK d a cfg b s = .next ((s.setCtxOf s.cur ((s.ctxOf s.cur).setGauge g r)).finK s.cur d (BitVec.ofNat 64 r.gen)) := by
  simp only [closeK, onK_ctl hc, hid, h, one_ne_zero, OfNat.one_ne_ofNat, if_false]

end

theorem exec_gbind_id (h : (s.getK s.cur b).toNat ≥ 2 ^ (s.ctxOf s.cur).gtsz) :
    exec (.gbind d a b) s = .next (s.trap s.cur { code := tcGaugeId }) := by
  change execGbind d a b s = _
  simp only [execGbind, onK_ctl hc, h, if_true]

theorem exec_gbind_desc (h : (s.getK s.cur b).toNat < 2 ^ (s.ctxOf s.cur).gtsz) (hn : (s.getK s.cur a).toNat ≥ (s.grpOf s.cur).ndesc) :
    exec (.gbind d a b) s = .next (s.trap s.cur { code := tcOpnd }) := by
  change execGbind d a b s = _
  simp only [execGbind, onK_ctl hc, not_le.mpr h, hn, if_true, if_false]

theorem exec_gbind_binds (h : (s.getK s.cur b).toNat < 2 ^ (s.ctxOf s.cur).gtsz) (hn : (s.getK s.cur a).toNat < (s.grpOf s.cur).ndesc) :
    let g := s.grpOf s.cur
    let n := (s.getK s.cur a).toNat
    let w5 := ((g.descWords n).getD 5 0).toNat
    let old := w5 / 2 ^ 16 % 2 ^ 20
    exec (.gbind d a b) s = .next ((s.setGroup (s.gidOf s.cur) { g with desc := sset g.desc n ((g.descWords n).set 5
      (BitVec.ofNat 64 (w5 - old * 2 ^ 16 + (s.getK s.cur b).toNat * 2 ^ 16))) }).finK s.cur d (BitVec.ofNat 64 old)) := by
  change execGbind d a b s = _
  simp only [execGbind, onK_ctl hc, not_le.mpr h, not_le.mpr hn, if_false, field_eq]

end

/-- Settles O10. Each instruction by the range of the id and the state of the record; a close by its maximum. -/
theorem gaugeInstructions : Obligations.GaugeInstructions := by
  unfold Obligations.GaugeInstructions
  intro s d a b hc q c g w set closed
  have hclosed (cfg : Option (Nat × Bool)) (margin : Nat) (hm : ((c.gauge g).close cfg s.tick).margin = margin) (h1 : (c.gauge g).st = 1) :
      closed ((c.gauge g).close cfg s.tick) margin := by
    subst hm
    obtain ⟨hlt, hz, hn, hi, hfull, -⟩ := (c.gauge g).close_flags cfg s.tick
    have hfin := (c.gauge g).close_of_finite cfg s.tick
    simp only [fmtOfIndex_eq] at hfin
    exact ⟨rfl, rfl, rfl, rfl, h1, rfl, rfl, hlt, hz, hn, hi, hfull ▸ GHalf.full_iff _, Gauge.close_sx_length ..,
      Gauge.close_of_zero _ cfg s.tick, hfin⟩
  refine ⟨fun h0 h1 hst => ?_, fun h0 h1 hst => ?_, fun h0 h1 hst => ⟨?_, ?_⟩, ⟨fun hg => ?_, fun h0 h1 => ?_, ?_, ?_⟩, fun hw hn => ?_⟩
  · exact ⟨_, exec_galloc_opens a b hc (State.gidCheck_some h0 h1) hst, KNext.fin0 _ q hc⟩
  · exact ⟨_, exec_gallocRel_frees a hc (State.gidCheck_some h0 h1) hst, KNext.fin0 _ q hc⟩
  · rw [exec_gclose]
    exact ⟨_, (c.gauge g).close none s.tick, closeK_closes d a 0 hc (State.gidCheck_some h0 h1) _ hst, KNext.fin _ q d _ hc,
      hclosed none _ rfl hst, rfl⟩
  · rw [exec_gcloseCfg]
    exact ⟨_, (c.gauge g).close (some (w / 16 % 16, w % 2 == 1)) s.tick,
      closeK_closes d a b hc (State.gidCheck_some h0 h1) _ hst, KNext.fin _ q d _ hc, hclosed (some _) _ rfl hst, rfl⟩
  · have hid : s.gidCheck q (s.getK q a) = none := State.gidCheck_none hg
    dsimp only
    rw [exec_gclose, exec_gcloseCfg]
    exact ⟨exec_galloc_id a b hc hid, exec_gallocRel_id a hc hid, closeK_id d a 0 hc hid _, closeK_id d a b hc hid _⟩
  · have hid : s.gidCheck q (s.getK q a) = some g := State.gidCheck_some h0 h1
    dsimp only
    rw [exec_gclose, exec_gcloseCfg]
    exact ⟨exec_galloc_state a b hc hid,
      fun h => ⟨exec_gallocRel_state a hc hid h, closeK_free d a 0 hc hid _ h, closeK_free d a b hc hid _ h⟩,
      fun h => ⟨closeK_poisoned d a 0 hc hid _ h, closeK_poisoned d a b hc hid _ h⟩⟩
  · exact exec_gbind_id d a b hc
  · exact exec_gbind_desc d a b hc
  · refine ⟨_, _, exec_gbind_binds d a b hc hw hn, KNext.fin _ q d _ hc, ?_, fun n hne => ?_, ?_⟩
    · rw [State.grpOf_setGroup_gidOf]
    · rw [State.grpOf_setGroup_gidOf]
      exact sget_sset_other _ _ _ _ _ hne
    · rw [State.grpOf_setGroup_gidOf]
      exact sget_sset_same ..

end Sys2Proof.Machine
end

section
/-! SUPPORT. Basins (spec 22): the registered groups, the reach of a primary, registration, and what a basin's reads of weights leave alone. -/

namespace Sys2Proof.Machine

open Sys2Proof

theorem onQu_qu {s : State} (h : s.cur.kind = .qu) (f : SeqId → State) : onQu s f = .next (f s.cur) := by
  rw [onQu, if_pos h]

-- Registered groups ----------------------------------------------------------------------------------------------------------------------

theorem lookup_sset_same {α : Type} (m : SMap α) (i : Nat) (x : α) : (sset m i x).lookup i = some x := by
  induction m with
  | nil => simp [sset]
  | cons p m ih =>
    obtain ⟨k, v⟩ := p
    rw [sset]
    split
    · rw [List.lookup_cons_self]
    · next h =>
      split
      · rw [List.lookup_cons_self]
      · rw [List.lookup_cons, beq_false_of_ne h]
        exact ih

theorem grPgid_lt (w : List Word) : grPgid w < 2 ^ 20 := Nat.mod_lt _ (Nat.two_pow_pos _)

@[simp] theorem State.pg_setPg (s : State) (g : PGroup) : (s.setPg g).pg g.asid (grPgid g.words) = some g := by
  rw [State.pg, if_pos (grPgid_lt _)]
  exact lookup_sset_same ..

-- The reach of a primary and of its buddy --------------------------------------------------------------------------------------------------

/-- A group's primary answers a module: it takes part, holds its state and can be reached. -/
def State.near (s : State) (md : Nat) (g : PGroup) : Prop :=
  s.present g.md = true ∧ g.lost ≠ some g.prim ∧ s.reachable md g.md = true

/-- A group has a buddy that cannot give its receipt. -/
def State.away (s : State) (g : PGroup) : Prop := ∃ n, g.buddy = some n ∧ (s.linked g.md (n / 2) = false ∨ g.lost ≠ none)

theorem State.near_iff (s : State) (md : Nat) (g : PGroup) : (s.primUp g && s.reachable md g.md) = true ↔ s.near md g := by
  simp only [State.primUp, State.near, Bool.and_eq_true, bne_iff_ne, ne_eq, and_assoc]

theorem State.buddyAway_iff (s : State) (g : PGroup) : s.buddyAway g = true ↔ s.away g := by
  rw [State.buddyAway, State.away]
  cases g.buddy with
  | none => simp
  | some b => cases hl : g.lost <;> simp [State.tied, hl]

section
variable {s : State} {q : SeqId} {d : BitVec 5} {n : Nat} {g : PGroup} {f : PGroup → State}

theorem State.askBasin_none (h : s.pg (s.asidOf q) n = none) : s.askBasin q d n f = s.finK q d 8 := by
  simp only [State.askBasin, h]

theorem State.askBasin_near (h : s.pg (s.asidOf q) n = some g) (hn : s.near (modOf q.unit) g) : s.askBasin q d n f = f g := by
  simp only [State.askBasin, h, (s.near_iff _ g).mpr hn, if_true]

theorem State.askBasin_far (h : s.pg (s.asidOf q) n = some g) (hn : ¬s.near (modOf q.unit) g) : s.askBasin q d n f = s := by
  rw [← State.near_iff] at hn
  simp only [State.askBasin, h, hn, if_false, Bool.false_eq_true]

end

-- Errors that a read of weights finds ------------------------------------------------------------------------------------------------------

theorem State.post_ctls (s : State) (md kind : Nat) (asid : Option Nat) (src code payload : Nat) :
    (s.post md kind asid src code payload).ctls = s.ctls := by rw [State.post_rest]

theorem State.settle_ctls (s : State) (md asid va : Nat) : (s.settle md asid va).ctls = s.ctls := by
  unfold State.settle
  dsimp only
  split
  · split
    · rw [State.post_ctls]
      rfl
    · rfl
  · rfl

theorem State.poisonLine_ctls (s : State) (md asid va : Nat) : (s.poisonLine md asid va).ctls = s.ctls := by
  unfold State.poisonLine
  split
  · rfl
  · rw [State.settle_ctls, State.post_ctls]
    rfl

theorem State.touchLine_ctls (s : State) (md asid va : Nat) : (s.touchLine md asid va).1.ctls = s.ctls := by
  unfold State.touchLine
  dsimp only
  split
  · split
    · rfl
    · rw [State.poisonLine_ctls]
  · rfl

theorem State.touchLine_clean {s : State} (h : s.latent = []) (md asid va : Nat) : (s.touchLine md asid va).1 = s := by
  simp [State.touchLine, h]

/-- A property of states that the read of every line keeps is kept by a basin's read of an array. -/
theorem State.stateBad_induct (P : State → Prop) (md asid : Nat) (hP : ∀ t va, P t → P (t.touchLine md asid va).1) {s : State} (h : P s)
    (a n : Nat) : P (s.stateBad md asid a n).1 := by
  unfold State.stateBad
  generalize linesIn a n = ls, false = bad
  induction ls generalizing s bad with
  | nil => exact h
  | cons l ls ih => exact ih (hP _ l h) _

theorem State.weights_induct (P : State → Prop) {g : PGroup} (hP : ∀ t va, P t → P (t.touchLine g.md g.asid va).1) {s : State} (h : P s)
    (b n : Nat) : P (s.weights g b n).1 :=
  State.stateBad_induct P g.md g.asid hP h _ _

theorem State.weights_ctl (s : State) (g : PGroup) (b n : Nat) (q : SeqId) : (s.weights g b n).1.ctl q = s.ctl q := by
  have h := State.weights_induct (fun t => t.ctls = s.ctls) (g := g) (fun t va ht => (t.touchLine_ctls _ _ va).trans ht) rfl b n
  rw [State.ctl, h, State.ctl]

/-- Where no error waits to be found, the read changes nothing. -/
theorem State.weights_clean {s : State} (h : s.latent = []) (g : PGroup) (b n : Nat) : (s.weights g b n).1 = s :=
  State.weights_induct (· = s) (fun t va ht => by subst ht; exact State.touchLine_clean h _ _ va) rfl b n

-- Registration (R416, R417, R432) ------------------------------------------------------------------------------------------------------------

open Classical in
/-- The code of a registration: the first of its conditions that fails (R432). -/
theorem State.registerCode_eq (s : State) (q : SeqId) (w : List Word) :
    s.registerCode q w =
      if s.pg (s.asidOf q) (grPgid w) ≠ none then 1
      else if ∃ n, (n = grPrim w / 2 ∨ n = grBuddy w / 2) ∧ (s.present n = false ∨ s.reachable (modOf q.unit) n = false) then 5
      else if s.basinHolds (grPrim w) ≥ 4096 ∨ s.basinHolds (grBuddy w) ≥ 4096 then 6
      else if s.stateUnfit w (s.asidOf q) (grPrim w / 2) = true ∨ s.stateUnfit w (s.asidOf q) (grBuddy w / 2) = true then 2
      else if grGid w ≠ 0 ∧ ((s.ctx (grPrim w / 2) (s.asidOf q)).gauge (grGid w)).st ≠ 1 then 3
      else if ∃ z ∈ s.stepSet (s.asidOf q) (grSsid w), z.cur ≠ grStep0 w then 4
      else 0 := by
  have hknown : (s.pg (s.asidOf q) (grPgid w)).isSome = true ↔ s.pg (s.asidOf q) (grPgid w) ≠ none := Option.isSome_iff_ne_none
  simp only [State.registerCode, hknown, or_and_right, exists_or, exists_eq_left, Bool.or_eq_true, Bool.not_eq_true', List.any_eq_true,
    bne_iff_ne]

/-- The first publication of a group that nobody subscribes to and that has no gauge: it is OPEN at the next step, with an outcome of 0. -/
theorem State.publish_initial (s : State) (g : PGroup) (step : Nat) (hg : grGid g.words = 0) (hs : g.subs = []) :
    s.publish g step 0 = s.setPg { g with
      cur := (step + 1) % 2 ^ 32, last := 0, st := 1, sx := none, decided := none, abandoned := false, job := none, acked := true
      now := g.next, next := [], first := if g.next.isEmpty then none else some s.clock } := by
  simp [State.publish, State.publishGauge, hg, hs]

theorem grStep0_lt (w : List Word) : grStep0 w < 2 ^ 32 := Nat.mod_lt _ (Nat.two_pow_pos _)

/-- A group without a gauge, once registered: OPEN at its first step, with nothing in it (R417). -/
theorem State.register_pg (s : State) (q : SeqId) {w : List Word} (hg : grGid w = 0) :
    ∃ z, (s.register q w).pg (s.asidOf q) (grPgid w) = some z ∧ z.cur = grStep0 w ∧ z.last = 0 ∧ z.st = 1 ∧ z.prim = grPrim w ∧
      z.buddy = some (grBuddy w) ∧ z.hyp = grHyp w ∧ z.hypNext = none ∧ z.now = [] ∧ z.next = [] ∧ z.acked = true ∧ z.subs = [] := by
  have hcur : ((grStep0 w + 2 ^ 32 - 1) % 2 ^ 32 + 1) % 2 ^ 32 = grStep0 w := by
    have := grStep0_lt w
    omega
  rw [State.register, State.publish_initial _ _ _ hg rfl]
  exact ⟨_, State.pg_setPg _ _, hcur, rfl, rfl, rfl, rfl, rfl, rfl, rfl, rfl, rfl, rfl⟩

end Sys2Proof.Machine
end

section
/-! SUPPORT. The basin instructions (spec 22, R420, R421, R423, R429, R431 to R434): what each does once its checks pass. -/

namespace Sys2Proof.Machine

open Sys2Proof

/-- The instruction completes with an answer in k[D], on a state that holds its own effects. -/
def Answers (i : Instr) (s m : State) (d : BitVec 5) (v : Nat) : Prop :=
  ∃ t, exec i s = .next t ∧ KNext m t s.cur d (BitVec.ofNat 64 v)

theorem Answers.of_finK {i : Instr} {s m : State} {d : BitVec 5} {v : Nat} (hc : isCtl s.cur.kind = true)
    (h : exec i s = .next (m.finK s.cur d (BitVec.ofNat 64 v))) : Answers i s m d v :=
  ⟨_, h, KNext.fin m s.cur d _ hc⟩

theorem isCtl_of_qu {q : SeqId} (h : q.kind = .qu) : isCtl q.kind = true := by rw [h]; rfl

theorem firstSome_eq_none {α β : Type} {f : α → Option β} {l : List α} (h : ∀ x ∈ l, f x = none) : firstSome f l = none := by
  induction l with
  | nil => rfl
  | cons x l ih => rw [firstSome, h x (List.mem_cons_self ..), ih fun y hy => h y (List.mem_cons_of_mem _ hy)]

/-- An instruction that asks a basin: the answer 8 where the group is not registered; a wait where its primary is out of reach. -/
structure Asks (i : Instr) (s : State) (d : BitVec 5) (n : Nat) (f : PGroup → State) : Prop where
  ctl : isCtl s.cur.kind = true
  eq  : exec i s = .next (s.askBasin s.cur d n f)

section
variable {i : Instr} {s : State} {d : BitVec 5} {n : Nat} {f : PGroup → State} (h : Asks i s d n f)
include h

theorem Asks.unregistered (hp : s.pg (s.asidOf s.cur) n = none) : Answers i s s d 8 :=
  .of_finK h.ctl (h.eq.trans (congrArg _ (State.askBasin_none hp)))

variable {g : PGroup} (hp : s.pg (s.asidOf s.cur) n = some g)
include hp

theorem Asks.waits (hn : ¬s.near (modOf s.cur.unit) g) : exec i s = .next s := by
  rw [h.eq, State.askBasin_far hp hn]

theorem Asks.reaches (hn : s.near (modOf s.cur.unit) g) : exec i s = .next (f g) := by
  rw [h.eq, State.askBasin_near hp hn]

theorem Asks.answers (hn : s.near (modOf s.cur.unit) g) {m : State} {v : Nat} (hf : f g = m.finK s.cur d (BitVec.ofNat 64 v)) :
    Answers i s m d v :=
  .of_finK h.ctl (by rw [h.reaches hp hn, hf])

end

/-- The words of the record at k[A]. -/
def State.recAt (s : State) (a : BitVec 5) (n : Nat) : List Word := s.words s.cur (s.getK s.cur a).toNat n

-- BPUSH (R420, R421) ---------------------------------------------------------------------------------------------------------------------

/-- The record of a push is well formed. -/
def pushOk (w : List Word) : Prop :=
  grF w 0 21 43 = 0 ∧ grF w 1 52 12 = 0 ∧ grF w 2 24 40 = 0 ∧ grF w 2 0 12 ≤ grF w 2 12 12 ∧ grPgid w ≠ 0

/-- The bytes of an element of a group's gradients. -/
def PGroup.gradSize (g : PGroup) : Nat := (grGf g.words).width / 8

/-- What the primary decides of the push with record `w`, and the group after it. -/
def State.pushOf (s : State) (w : List Word) (g : PGroup) : Nat × PGroup :=
  s.push g (grF w 1 0 32) (grF w 1 32 20) (grF w 2 0 12) (grF w 2 12 12) (grF w 0 20 1 == 1)
    (s.bytes s.cur (w.getD 3 0).toNat (blockLen * g.gradSize))

/-- The answer to a push; one that is kept waits for a buddy that is away. -/
def State.pushed (s : State) (d : BitVec 5) (g : PGroup) (r : Nat × PGroup) : State :=
  if r.1 < 2 && s.buddyAway g then s else (s.setPg r.2).finK s.cur d (BitVec.ofNat 64 r.1)

section
variable {s : State} {d : BitVec 5} {g : PGroup} {r : Nat × PGroup}

theorem State.pushed_waits (hr : r.1 < 2) (ha : s.away g) : s.pushed d g r = s := by
  simp only [State.pushed, hr, (s.buddyAway_iff g).mpr ha, decide_true, Bool.and_self, if_true]

theorem State.pushed_answers (h : r.1 ≥ 2 ∨ ¬s.away g) : s.pushed d g r = (s.setPg r.2).finK s.cur d (BitVec.ofNat 64 r.1) := by
  rw [State.pushed, if_neg]
  rw [Bool.and_eq_true, decide_eq_true_eq, State.buddyAway_iff]
  rintro ⟨hkept, haway⟩
  exact h.elim (fun h => absurd hkept (by omega)) fun h => h haway

end

section
variable {s : State} (d a : BitVec 5) (hc : isCtl s.cur.kind = true) (hr : s.recCheck s.cur (s.getK s.cur a).toNat 32 = none)
include hc hr

theorem exec_bpush_malformed (h : ¬pushOk (s.recAt a 4)) : exec (.bpush d a) s = .next (s.trap s.cur { code := tcOpnd }) := by
  change execBpush d a s = _
  simp only [execBpush, onK_ctl hc, hr]
  rw [if_pos]
  simp only [pushOk, grPgid, State.recAt] at h
  omega

theorem exec_bpush_unregistered (h : pushOk (s.recAt a 4)) (hp : s.pg (s.asidOf s.cur) (grPgid (s.recAt a 4)) = none) :
    exec (.bpush d a) s = .next (s.finK s.cur d 8) := by
  simp only [pushOk, grPgid, State.recAt] at h hp
  change execBpush d a s = _
  simp only [execBpush, onK_ctl hc, hr, hp]
  rw [if_neg (by omega)]

theorem bpush_asks {g : PGroup} (h : pushOk (s.recAt a 4)) (hp : s.pg (s.asidOf s.cur) (grPgid (s.recAt a 4)) = some g)
    (hpay : s.payCheck s.cur ((s.recAt a 4).getD 3 0).toNat blockLen g.gradSize = none)
    (hread : ∀ i < blockLen, s.readCheck s.cur (((s.recAt a 4).getD 3 0).toNat + g.gradSize * i) g.gradSize g.gradSize = none) :
    Asks (.bpush d a) s d (grPgid (s.recAt a 4)) fun _ => s.pushed d g (s.pushOf (s.recAt a 4) g) := by
  refine ⟨hc, ?_⟩
  have hfirst := firstSome_eq_none (l := List.range blockLen) fun i hi => hread i (List.mem_range.mp hi)
  simp only [pushOk, grPgid, State.recAt, PGroup.gradSize] at h hp hpay hfirst
  change execBpush d a s = _
  simp only [execBpush, onK_ctl hc, hr, hp, hpay, hfirst]
  rw [if_neg (by omega)]
  simp only [State.askBasin, grPgid, State.recAt, hp]
  rfl

end

-- BCLOSE (R423) --------------------------------------------------------------------------------------------------------------------------

section
variable {s : State} (d a b : BitVec 5) (hq : s.cur.kind = .qu)
include hq

theorem exec_bclose_range (h : (s.getK s.cur a).toNat ≥ 2 ^ 20 ∨ (s.getK s.cur b).toNat ≥ 2 ^ 32) :
    exec (.bclose d a b) s = .next (s.trap s.cur { code := tcOpnd }) := by
  change execBclose d a b s = _
  simp only [execBclose, onQu_qu hq]
  rw [if_pos h]

theorem bclose_asks (hx : (s.getK s.cur a).toNat < 2 ^ 20) (hy : (s.getK s.cur b).toNat < 2 ^ 32) :
    Asks (.bclose d a b) s d (s.getK s.cur a).toNat fun g =>
      if g.st = 5 then s.finK s.cur d 7
      else if (s.getK s.cur b).toNat ≠ g.cur then s.finK s.cur d 2
      else if g.st ≠ 1 then s.finK s.cur d 1
      else (s.closeStep g).finK s.cur d 0 := by
  refine ⟨isCtl_of_qu hq, ?_⟩
  change execBclose d a b s = _
  simp only [execBclose, onQu_qu hq]
  rw [if_neg (by omega)]

end

-- BSUB (R429, R433) ----------------------------------------------------------------------------------------------------------------------

/-- The subscription that a record makes for a stream, before its first delivery is due. -/
def subOf (q : SeqId) (d : BitVec 5) (w : List Word) : Sub :=
  { q := q, ofmt := grF w 0 20 6, b0 := grF w 1 0 20, nb := grF w 1 20 20, dst := (w.getD 2 0).toNat, stw := (w.getD 3 0).toNat
    due := none, lag := 0, wait := some d }

/-- It is due the group's latest publication, with the weights as the basin reads them. -/
def State.firstSub (s : State) (q : SeqId) (d : BitVec 5) (g : PGroup) (w : List Word) : Sub :=
  (subOf q d w).renew { step := (g.cur + 2 ^ 32 - 1) % 2 ^ 32, out := g.last, sx := g.sx, w := (s.weights g (grF w 1 0 20) (grF w 1 20 20)).2 }

theorem State.subscribe_full {s : State} {q : SeqId} {d : BitVec 5} {g : PGroup} {w : List Word}
    (h : ∀ i ∈ span 1 64, g.subs.lookup i ≠ none) : s.subscribe q d g w = s.finK q d 5 := by
  have hnone : ((span 1 64).find? fun i => (g.subs.lookup i).isNone) = none :=
    List.find?_eq_none.mpr fun i hi hn => h i hi (Option.isNone_iff_eq_none.mp hn)
  simp only [State.subscribe, hnone]

theorem State.subscribe_at {s : State} {q : SeqId} {d : BitVec 5} {g : PGroup} {w : List Word} {i : Nat}
    (h : ((span 1 64).find? fun i => (g.subs.lookup i).isNone) = some i) :
    s.subscribe q d g w = ((s.weights g (grF w 1 0 20) (grF w 1 20 20)).1.setPg
      { g with subs := sset g.subs i (s.firstSub q d g w) }).setCtl q { s.ctl q with wait := true } := by
  simp only [State.subscribe, h, State.weights_ctl]
  rfl

/-- The record of a subscription to a group is well formed. -/
structure SubOk (w : List Word) (g : PGroup) (f : Fmt) : Prop where
  code : fmtOfCode (grF w 0 20 6) = some f
  fmt : f = .f32 ∨ f = .bf16 ∨ f = .f16 ∨ (f.isB8 = true ∧ grGid g.words ≠ 0)
  word0 : grF w 0 26 38 = 0
  word1 : grF w 1 40 24 = 0
  blocks : grF w 1 20 20 ≠ 0
  inside : grF w 1 0 20 + grF w 1 20 20 ≤ grNblk g.words

/-- A format that a subscription may have passes both checks of it. -/
theorem SubOk.fmt_checks {f : Fmt} {gid : Nat} (h : f = .f32 ∨ f = .bf16 ∨ f = .f16 ∨ (f.isB8 = true ∧ gid ≠ 0)) :
    (f == .f32 || f == .bf16 || f == .f16 || f.isB8) = true ∧ (f.isB8 && gid == 0) = false := by
  rcases h with rfl | rfl | rfl | ⟨h8, hg⟩
  · exact ⟨rfl, rfl⟩
  · exact ⟨rfl, rfl⟩
  · exact ⟨rfl, rfl⟩
  · rw [h8, beq_false_of_ne hg, Bool.or_true]
    exact ⟨rfl, rfl⟩

section
variable {s : State} (d a b : BitVec 5) (hc : isCtl s.cur.kind = true)
include hc

theorem exec_bsub_waits (hw : (s.ctl s.cur).wait = true) : exec (.bsub d a b) s = .next s := by
  change execBsub d a b s = _
  simp only [execBsub, onK_ctl hc, hw, if_true]

variable (hw : (s.ctl s.cur).wait = false)
include hw

theorem exec_bsub_range (h : (s.getK s.cur b).toNat > 64) : exec (.bsub d a b) s = .next (s.trap s.cur { code := tcOpnd }) := by
  change execBsub d a b s = _
  simp only [execBsub, onK_ctl hc, hw, Bool.false_eq_true, if_false, h, if_true]

/-- BSUB with an id cancels. -/
theorem bsub_asks_cancel (h1 : 1 ≤ (s.getK s.cur b).toNat) (h64 : (s.getK s.cur b).toNat ≤ 64) :
    Asks (.bsub d a b) s d (s.getK s.cur a).toNat fun g =>
      if g.st = 5 then s.finK s.cur d 7
      else (g.subs.lookup (s.getK s.cur b).toNat).elim (s.finK s.cur d 9) fun x =>
        ((s.cancelSubs [x]).setPg { g with subs := sdel g.subs (s.getK s.cur b).toNat }).finK s.cur d
          (BitVec.ofNat 64 ((s.getK s.cur b).toNat * 2 ^ 8)) := by
  refine ⟨hc, ?_⟩
  change execBsub d a b s = _
  simp only [execBsub, onK_ctl hc, hw, Bool.false_eq_true, if_false]
  rw [if_neg (by omega), if_pos (by omega)]
  refine congrArg (fun f => Host.Outcome.next (s.askBasin s.cur d _ f)) (funext fun g => ?_)
  cases g.subs.lookup (s.getK s.cur b).toNat <;> rfl

/-- BSUB with id 0 subscribes, once the record and the places it names are in order. -/
theorem bsub_asks_subscribe {g : PGroup} {f : Fmt} (h0 : (s.getK s.cur b).toNat = 0)
    (hr : s.recCheck s.cur (s.getK s.cur a).toNat 32 = none) (hok : SubOk (s.recAt a 4) g f)
    (hdst : s.payCheck s.cur ((s.recAt a 4).getD 2 0).toNat (grF (s.recAt a 4) 1 20 20 * blockLen) (f.width / 8) = none)
    (hstw : s.cause15 s.cur ((s.recAt a 4).getD 3 0).toNat 8 = none)
    (hp : s.pg (s.asidOf s.cur) (grF (s.recAt a 4) 0 0 20) = some g) :
    Asks (.bsub d a b) s d (grF (s.recAt a 4) 0 0 20) fun g =>
      if g.st = 5 then s.finK s.cur d 7 else s.subscribe s.cur d g (s.recAt a 4) := by
  obtain ⟨hcode, hfmt, hw0, hw1, hn, hin⟩ := hok
  refine ⟨hc, ?_⟩
  obtain ⟨hserves, hgauge⟩ := SubOk.fmt_checks hfmt
  simp only [State.recAt] at hcode hw0 hw1 hn hin hdst hstw hp ⊢
  change execBsub d a b s = _
  simp only [execBsub, onK_ctl hc, hw, h0, hr, hcode, hw0, hw1, hn, hdst, hstw, hp, hserves, hgauge, not_lt.mpr hin, Option.getD_some, gt_iff_lt,
    Nat.not_lt_zero, ne_eq, not_true_eq_false, Bool.not_true, Bool.false_eq_true, decide_false, Bool.or_self, or_self, if_false]

end

-- BRULE (R432) ---------------------------------------------------------------------------------------------------------------------------

section
variable {s : State} (d a b : BitVec 5) (hq : s.cur.kind = .qu)
include hq

theorem exec_brule_form (h : (s.getK s.cur b).toNat ≥ 3) : exec (.brule d a b) s = .next (s.trap s.cur { code := tcOpnd }) := by
  change execBrule d a b s = _
  simp only [execBrule, onQu_qu hq]
  rw [if_pos h]

theorem exec_brule_release_range (h : (s.getK s.cur b).toNat = 1) (hx : (s.getK s.cur a).toNat ≥ 2 ^ 20) :
    exec (.brule d a b) s = .next (s.trap s.cur { code := tcOpnd }) := by
  change execBrule d a b s = _
  simp only [execBrule, onQu_qu hq, h]
  rw [if_neg (by decide), if_pos trivial, if_pos hx]

theorem brule_asks_release (h : (s.getK s.cur b).toNat = 1) (hx : (s.getK s.cur a).toNat < 2 ^ 20) :
    Asks (.brule d a b) s d (s.getK s.cur a).toNat fun g => (s.unregister g).finK s.cur d 0 := by
  refine ⟨isCtl_of_qu hq, ?_⟩
  change execBrule d a b s = _
  simp only [execBrule, onQu_qu hq, h]
  rw [if_neg (by decide), if_pos trivial, if_neg (by omega)]

variable (hr : s.recCheck s.cur (s.getK s.cur a).toNat 384 = none)
include hr

theorem brule_asks_hyp (h : (s.getK s.cur b).toNat = 2) :
    Asks (.brule d a b) s d (grPgid (s.recAt a 48)) fun g =>
      if g.st = 5 then s.finK s.cur d 7
      else if s.buddyAway g then s
      else (s.setPg { g with hypNext := some (grHyp (s.recAt a 48)) }).finK s.cur d 0 := by
  refine ⟨isCtl_of_qu hq, ?_⟩
  change execBrule d a b s = _
  simp only [execBrule, onQu_qu hq, h, hr]
  rw [if_neg (by decide), if_neg (by decide), if_pos trivial]
  rfl

variable (h : (s.getK s.cur b).toNat = 0)
include h

theorem exec_brule_malformed (hok : grOk (s.recAt a 48) = false) : exec (.brule d a b) s = .next (s.trap s.cur { code := tcOpnd }) := by
  change execBrule d a b s = _
  rw [State.recAt] at hok
  simp only [execBrule, onQu_qu hq, h, hr, hok]
  rfl

variable (hok : grOk (s.recAt a 48) = true)
include hok

theorem exec_brule_gauge (hg : grGid (s.recAt a 48) ≥ 2 ^ (s.ctxOf s.cur).gtsz) :
    exec (.brule d a b) s = .next (s.trap s.cur { code := tcGaugeId }) := by
  change execBrule d a b s = _
  rw [State.recAt] at hok hg
  simp only [execBrule, onQu_qu hq, h, hr, hok, hg, if_true]
  rfl

/-- BRULE registers a group where its code is 0, and answers the code. -/
theorem brule_registers (hg : grGid (s.recAt a 48) < 2 ^ (s.ctxOf s.cur).gtsz) :
    Answers (.brule d a b) s (if s.registerCode s.cur (s.recAt a 48) = 0 then s.register s.cur (s.recAt a 48) else s) d
      (s.registerCode s.cur (s.recAt a 48)) := by
  refine .of_finK (isCtl_of_qu hq) ?_
  change execBrule d a b s = _
  rw [State.recAt] at hok hg
  simp only [execBrule, onQu_qu hq, h, hr, hok, not_le.mpr hg, if_false]
  rfl

end

-- BSTAT (R434) ---------------------------------------------------------------------------------------------------------------------------

theorem PGroup.item_eq (g : PGroup) (i : Nat) : g.item i = if i = 0 then g.cur + g.st * 2 ^ 32 + g.last * 2 ^ 35 +
    (if g.buddy = none ∧ g.takeover = none then 2 ^ 37 else 0) + g.takeover.getD g.prim * 2 ^ 38
    else if i = 8 then g.flg else sget 0 g.counts i := by
  simp only [PGroup.item, Bool.and_eq_true, Option.isNone_iff_eq_none]

section
variable {s : State} (d a b : BitVec 5) (hc : isCtl s.cur.kind = true)
include hc

theorem exec_bstat_range (h : (s.getK s.cur b).toNat ≥ 10) : exec (.bstat d a b) s = .next (s.trap s.cur { code := tcOpnd }) := by
  change execBstat d a b s = _
  simp only [execBstat, onK_ctl hc]
  rw [if_pos h]

variable (h : (s.getK s.cur b).toNat < 10)
include h

theorem exec_bstat_unregistered (hp : s.pg (s.asidOf s.cur) (s.getK s.cur a).toNat = none) :
    exec (.bstat d a b) s = .next (s.finK s.cur d 0) := by
  change execBstat d a b s = _
  simp only [execBstat, onK_ctl hc, hp]
  rw [if_neg (by omega)]

theorem bstat_asks {g : PGroup} (hp : s.pg (s.asidOf s.cur) (s.getK s.cur a).toNat = some g) :
    Asks (.bstat d a b) s d (s.getK s.cur a).toNat fun g => s.finK s.cur d (BitVec.ofNat 64 (g.item (s.getK s.cur b).toNat)) := by
  refine ⟨hc, ?_⟩
  change execBstat d a b s = _
  simp only [execBstat, onK_ctl hc, State.askBasin, hp]
  rw [if_neg (by omega)]

end

-- The statement -----------------------------------------------------------------------------------------------------------------------

/-- Settles O41. Each instruction asks the primary once its own checks pass; the group's state decides the answer. -/
theorem basinInstructions : Obligations.BasinInstructions := by
  unfold Obligations.BasinInstructions
  intro s d a b g q asid md x y near away ans opnd stays
  refine ⟨fun hc hr => ?push, fun hq hx hy => ?close, fun hq h => exec_bclose_range d a b hq h, fun hc => exec_bsub_waits d a b hc,
    fun hc hw => exec_bsub_range d a b hc hw, fun hc hw h1 h64 => ?cancel, fun hc hw h0 hr => ?subscribe, fun hq => ?rule,
    fun hc hy => ?stat, fun hc => exec_bstat_range d a b hc⟩
  case push =>
    refine ⟨exec_bpush_malformed d a hc hr, fun hok hp => ⟨_, exec_bpush_unregistered d a hc hr hok hp, KNext.fin s q d _ hc⟩,
      fun hok hp hpay hread => ?_⟩
    have hask := bpush_asks d a hc hr hok hp hpay hread
    exact ⟨hask.waits hp, fun hn hkept ha => (hask.reaches hp hn).trans (congrArg _ (State.pushed_waits hkept ha)),
      fun hn h => hask.answers hp hn (State.pushed_answers h)⟩
  case close =>
    have hask := bclose_asks d a b hq hx hy
    refine ⟨hask.unregistered, fun hp => ⟨hask.waits hp, fun hn => ⟨fun h5 => ?_, fun h5 hstep => ?_, fun h5 hstep h1 => ?_,
      fun h1 hstep => ?_⟩⟩⟩
    · exact hask.answers hp hn (if_pos h5)
    · exact hask.answers hp hn ((if_neg h5).trans (if_pos hstep))
    · exact hask.answers hp hn ((if_neg h5).trans ((if_neg (not_not.mpr hstep)).trans (if_pos h1)))
    · exact hask.answers hp hn ((if_neg (by omega)).trans ((if_neg (not_not.mpr hstep)).trans (if_neg (not_not.mpr h1))))
  case cancel =>
    have hask := bsub_asks_cancel d a b hc hw h1 h64
    refine ⟨hask.unregistered, fun hp hn => ⟨fun h5 => ?_, fun h5 hu => ?_, fun u h5 hu hwait => ?_⟩⟩
    · exact hask.answers hp hn (if_pos h5)
    · exact hask.answers hp hn ((if_neg h5).trans (by rw [hu]; rfl))
    · have hnone : s.cancelSubs [u] = s := by simp [State.cancelSubs, hwait]
      exact hask.answers hp hn ((if_neg h5).trans (by rw [hu, Option.elim_some, hnone]))
  case subscribe =>
    intro w f n hcode hfmt h0w h1w hn hin hdst hstw hp
    have hask := bsub_asks_subscribe d a b hc hw h0 hr ⟨hcode, hfmt, h0w, h1w, hn, hin⟩ hdst hstw hp
    refine ⟨hask.waits hp, fun hn h5 => hask.answers hp hn (if_pos h5), fun hn h5 hfull => ?_, fun hn h5 i hi => ?_⟩
    · exact hask.answers hp hn ((if_neg h5).trans (State.subscribe_full hfull))
    · exact ⟨_, s.firstSub q d g w, hask.reaches hp hn, (if_neg h5).trans (State.subscribe_at hi), fun hl => State.weights_clean hl .., rfl,
        rfl, rfl, rfl, rfl, rfl, rfl, rfl⟩
  case rule =>
    refine ⟨exec_brule_release_range d a b hq, fun h hx hp hn => (brule_asks_release d a b hq h hx).answers hp hn rfl,
      exec_brule_form d a b hq, ?_⟩
    intro hr w far full unfit shut apart known
    refine ⟨fun h hp => ?hyp, fun h hp => (brule_asks_hyp d a b hq hr h).unregistered hp, exec_brule_malformed d a b hq hr,
      exec_brule_gauge d a b hq hr, fun h hok hg => ?register⟩
    case hyp =>
      have hask := brule_asks_hyp d a b hq hr h
      refine ⟨hask.waits hp, fun hn h5 => hask.answers hp hn (if_pos h5), fun hn h5 ha => ?_, fun hn h5 ha => ?_⟩
      · exact (hask.reaches hp hn).trans (congrArg _ ((if_neg h5).trans (if_pos ((s.buddyAway_iff g).mpr ha))))
      · exact hask.answers hp hn ((if_neg h5).trans (if_neg fun h => ha ((s.buddyAway_iff g).mp h)))
    case register =>
      have hans := brule_registers d a b hq hr h hok hg
      have refused {v : Nat} (h0 : v ≠ 0) (hv : s.registerCode q w = v) : ans (.brule d a b) s v := by
        rw [show s.registerCode s.cur (s.recAt a 48) = v from hv, if_neg h0] at hans
        exact hans
      have taken (hv : s.registerCode q w = 0) : ans (.brule d a b) (s.register q w) 0 := by
        rw [show s.registerCode s.cur (s.recAt a 48) = 0 from hv, if_pos rfl] at hans
        exact hans
      -- each condition of a registration decides where those before it do not
      have hcode := s.registerCode_eq q w
      have new (hk : ¬known) := hcode.trans (if_neg hk)
      have found (hk) (hfar : ¬far) := (new hk).trans (if_neg hfar)
      have room (hk hfar) (hfull : ¬full) := (found hk hfar).trans (if_neg hfull)
      have fit (hk hfar hfull) (hunfit : ¬unfit) := (room hk hfar hfull).trans (if_neg hunfit)
      have live (hk hfar hfull hunfit) (hshut : ¬shut) := (fit hk hfar hfull hunfit).trans (if_neg hshut)
      exact ⟨fun hk => refused (by decide) (hcode.trans (if_pos hk)),
        fun hk hfar => refused (by decide) ((new hk).trans (if_pos hfar)),
        fun hk hfar hfull => refused (by decide) ((found hk hfar).trans (if_pos hfull)),
        fun hk hfar hfull hunfit => refused (by decide) ((room hk hfar hfull).trans (if_pos hunfit)),
        fun hk hfar hfull hunfit hshut => refused (by decide) ((fit hk hfar hfull hunfit).trans (if_pos hshut)),
        fun hk hfar hfull hunfit hshut hapart =>
          refused (by decide) ((live hk hfar hfull hunfit hshut).trans (if_pos hapart)),
        fun hk hfar hfull hunfit hshut hapart =>
          ⟨taken ((live hk hfar hfull hunfit hshut).trans (if_neg hapart)), State.register_pg s q⟩⟩
  case stat =>
    refine ⟨fun hp => ⟨_, exec_bstat_unregistered d a b hc hy hp, KNext.fin s q d _ hc⟩, fun hp hn => ?_, fun hp hn => ?_⟩
    · rw [← PGroup.item_eq]
      exact (bstat_asks d a b hc hy hp).answers hp hn rfl
    · exact (bstat_asks d a b hc hy hp).waits hp hn

end Sys2Proof.Machine
end

section
/-! SUPPORT. The values of the integer instructions of K, QF and QU as numbers modulo 2^64 (spec 06, R146 to R149). -/

namespace Sys2Proof.Machine

open Sys2Proof

/-- The model's reduction of an integer modulo 2^64 is the library's. -/
theorem toWord_eq_ofInt (x : Int) : toWord x = BitVec.ofInt 64 x := by
  apply BitVec.eq_of_toNat_eq
  have h := Int.emod_lt_of_pos x (b := ((2 ^ 64 : Nat) : Int)) (by decide)
  have h0 := Int.emod_nonneg x (b := ((2 ^ 64 : Nat) : Int)) (by decide)
  rw [toWord, wrapNat, BitVec.toNat_ofNat, BitVec.toNat_ofInt, Nat.mod_eq_of_lt (by omega)]

theorem shiftLeft_eq_ofNat (x : Word) (n : Nat) : x <<< n = BitVec.ofNat 64 (x.toNat * 2 ^ n) := by
  apply BitVec.eq_of_toNat_eq
  rw [BitVec.toNat_shiftLeft, Nat.shiftLeft_eq, BitVec.toNat_ofNat]

theorem shiftRight_eq_ofNat (x : Word) (n : Nat) : x >>> n = BitVec.ofNat 64 (x.toNat / 2 ^ n) := by
  rw [← Nat.shiftRight_eq_div_pow, ← BitVec.toNat_ushiftRight, BitVec.ofNat_toNat, BitVec.setWidth_eq]

/-- The arithmetic shift divides by a power of two and rounds down. -/
theorem sshiftRight_eq_ofInt (x : Word) (n : Nat) : x.sshiftRight n = BitVec.ofInt 64 (x.toInt / 2 ^ n) := by
  rw [← BitVec.ofInt_toInt (x := x.sshiftRight n), BitVec.toInt_sshiftRight, Int.shiftRight_eq_div_pow]
  norm_cast

theorem sub_eq_ofInt (x y : Word) : x - y = BitVec.ofInt 64 ((x.toNat : Int) - y.toNat) := by
  rw [← BitVec.ofInt_toInt (x := x - y), BitVec.toInt_sub, BitVec.toInt_eq_toNat_bmod, BitVec.toInt_eq_toNat_bmod,
    Int.bmod_sub_bmod, Int.sub_bmod_bmod]
  apply BitVec.eq_of_toInt_eq
  simp

theorem mul_eq_ofNat (x y : Word) : x * y = BitVec.ofNat 64 (x.toNat * y.toNat) := by
  apply BitVec.eq_of_toNat_eq
  rw [BitVec.toNat_mul, BitVec.toNat_ofNat]

theorem add_eq_ofInt (x y : Word) : x + y = BitVec.ofInt 64 (x.toInt + y.toInt) := by
  rw [BitVec.ofInt_add, BitVec.ofInt_toInt, BitVec.ofInt_toInt]

/-- A sign-extended immediate has the value of its 16 bits, and a zero-extended one their number (R149). -/
theorem toInt_sext16 (imm : BitVec 16) : (sext16 imm).toInt = imm.toInt := BitVec.toInt_signExtend_of_le (by decide)

theorem zext16_eq_ofNat (imm : BitVec 16) : zext16 imm = BitVec.ofNat 64 imm.toNat := (BitVec.ofNat_toNat 64 imm).symm

/-- An immediate placed n bits up, with room for its 16 bits. -/
theorem zext16_shiftLeft (imm : BitVec 16) (n : Nat) : zext16 imm <<< n = BitVec.ofNat 64 (imm.toNat * 2 ^ n) := by
  rw [shiftLeft_eq_ofNat, zext16, BitVec.toNat_setWidth_of_le (by decide)]

theorem ite_toInt_min (x y : Word) : (if x.toInt ≤ y.toInt then x else y) = BitVec.ofInt 64 (min x.toInt y.toInt) := by
  rw [Int.min_def]
  split <;> rw [BitVec.ofInt_toInt]

theorem ite_toInt_max (x y : Word) : (if x.toInt ≤ y.toInt then y else x) = BitVec.ofInt 64 (max x.toInt y.toInt) := by
  rw [Int.max_def]
  split <;> rw [BitVec.ofInt_toInt]

theorem ite_toNat_min (x y : Word) : (if x.toNat ≤ y.toNat then x else y) = BitVec.ofNat 64 (min x.toNat y.toNat) := by
  rw [Nat.min_def]
  split <;> rw [BitVec.ofNat_toNat, BitVec.setWidth_eq]

theorem ite_toNat_max (x y : Word) : (if x.toNat ≤ y.toNat then y else x) = BitVec.ofNat 64 (max x.toNat y.toNat) := by
  rw [Nat.max_def]
  split <;> rw [BitVec.ofNat_toNat, BitVec.setWidth_eq]

theorem mulhK_eq (x y : Word) : mulhK x y = BitVec.ofInt 64 (x.toInt * y.toInt / 2 ^ 64) := toWord_eq_ofInt _

theorem divK_eq (x y : Word) : divK x y = if y = 0 then BitVec.allOnes 64 else BitVec.ofInt 64 (x.toInt.tdiv y.toInt) := by
  rw [divK, toWord_eq_ofInt]

theorem remK_eq (x y : Word) : remK x y = if y = 0 then x else BitVec.ofInt 64 (x.toInt.tmod y.toInt) := by
  rw [remK, toWord_eq_ofInt]

-- Division (R146, R147) ----------------------------------------------------------------------------------------------------------

/-- R147's table: what division by zero, and the one signed quotient that has no room, deliver. -/
theorem division_by_zero {y : Word} (x : Word) (hy : y = 0) :
    divK x y = BitVec.allOnes 64 ∧ divuK x y = BitVec.allOnes 64 ∧ remK x y = x ∧ remuK x y = x :=
  ⟨if_pos hy, if_pos hy, if_pos hy, if_pos hy⟩

theorem division_overflow :
    divK (BitVec.intMin 64) (BitVec.allOnes 64) = BitVec.intMin 64 ∧ remK (BitVec.intMin 64) (BitVec.allOnes 64) = 0 := by decide

/-- The unsigned quotient and remainder fit a word. -/
theorem unsigned_division {y : Word} (x : Word) (hy : y ≠ 0) :
    x.toNat = y.toNat * (divuK x y).toNat + (remuK x y).toNat ∧ (remuK x y).toNat < y.toNat := by
  have hpos : 0 < y.toNat := Nat.pos_of_ne_zero fun h => hy (BitVec.eq_of_toNat_eq h)
  have hq : (divuK x y).toNat = x.toNat / y.toNat := by
    rw [divuK, if_neg hy, BitVec.toNat_ofNat, Nat.mod_eq_of_lt (Nat.lt_of_le_of_lt (Nat.div_le_self ..) x.isLt)]
  have hr : (remuK x y).toNat = x.toNat % y.toNat := by
    rw [remuK, if_neg hy, BitVec.toNat_ofNat, Nat.mod_eq_of_lt (Nat.lt_of_le_of_lt (Nat.mod_le ..) x.isLt)]
  rw [hq, hr]
  exact ⟨(Nat.div_add_mod ..).symm, Nat.mod_lt _ hpos⟩

/-- Where it does not overflow, the signed quotient is the quotient rounded toward zero. -/
theorem toInt_divK {x y : Word} (hy : y ≠ 0) (h : ¬(x = BitVec.intMin 64 ∧ y = BitVec.allOnes 64)) :
    (divK x y).toInt = x.toInt.tdiv y.toInt := by
  rw [divK_eq, if_neg hy, BitVec.toInt_ofInt, ← BitVec.toInt_sdiv, BitVec.toInt_sdiv_of_ne_or_ne]
  rw [BitVec.neg_one_eq_allOnes]
  exact not_and_or.mp h

/-- The signed remainder always fits a word. -/
theorem toInt_remK {x y : Word} (hy : y ≠ 0) : (remK x y).toInt = x.toInt.tmod y.toInt := by
  rw [remK_eq, if_neg hy, ← BitVec.toInt_srem, BitVec.ofInt_toInt]

/-- A nonzero remainder of a division toward zero has the sign of the dividend. -/
theorem tmod_neg_iff {a b : Int} (h : a.tmod b ≠ 0) : a.tmod b < 0 ↔ a < 0 := by
  constructor
  · intro hr
    by_contra ha
    exact absurd (Int.tmod_nonneg b (not_lt.mp ha)) (not_le.mpr hr)
  · intro ha
    have hn := Int.tmod_nonneg b (a := -a) (by omega)
    rw [Int.neg_tmod] at hn
    omega

/-- Signed division: the identity of quotient and remainder, the remainder's size and its sign. -/
theorem signed_division {x y : Word} (hy : y ≠ 0) (h : ¬(x = BitVec.intMin 64 ∧ y = BitVec.allOnes 64)) :
    x.toInt = y.toInt * (divK x y).toInt + (remK x y).toInt ∧ (remK x y).toInt.natAbs < y.toInt.natAbs ∧
      (remK x y ≠ 0 → ((remK x y).toInt < 0 ↔ x.toInt < 0)) := by
  have h0 {w : Word} : w ≠ 0 → w.toInt ≠ 0 := fun hw hz => hw (BitVec.toInt_inj.mp (hz.trans BitVec.toInt_zero.symm))
  rw [toInt_divK hy h, toInt_remK hy]
  refine ⟨(Int.mul_tdiv_add_tmod ..).symm, ?_, fun hr => tmod_neg_iff ?_⟩
  · rw [Int.natAbs_tmod]
    exact Nat.mod_lt _ (Int.natAbs_pos.mpr (h0 hy))
  · rw [← toInt_remK hy]
    exact h0 hr

end Sys2Proof.Machine
end

section
/-! SUPPORT. The integer instructions of K, QF and QU (spec 06, R146 to R149): how a three-register word decodes, and what a completing
instruction leaves in k[D]. -/

namespace Sys2Proof.Machine

open Sys2Proof

-- Decoding (R127, R131) ----------------------------------------------------------------------------------------------------------

/-- A word of the three-register format: OP, D, A, B and FUNC. -/
def kRegWord (op : BitVec 6) (d a b : BitVec 5) (f : BitVec 11) : IWord := op ++ d ++ a ++ b ++ f

section
variable (op : BitVec 6) (d a b : BitVec 5) (f : BitVec 11)

theorem kRegWord_op : (kRegWord op d a b f).extractLsb' 26 6 = op :=
  (BitVec.extractLsb'_append_eq_of_le (by decide)).trans <| (BitVec.extractLsb'_append_eq_of_le (by decide)).trans <|
    (BitVec.extractLsb'_append_eq_of_le (by decide)).trans BitVec.extractLsb'_append_eq_left

theorem kRegWord_d : (kRegWord op d a b f).extractLsb' 21 5 = d :=
  (BitVec.extractLsb'_append_eq_of_le (by decide)).trans <| (BitVec.extractLsb'_append_eq_of_le (by decide)).trans <|
    (BitVec.extractLsb'_append_eq_of_le (by decide)).trans BitVec.extractLsb'_append_eq_right

theorem kRegWord_a : (kRegWord op d a b f).extractLsb' 16 5 = a :=
  (BitVec.extractLsb'_append_eq_of_le (by decide)).trans <| (BitVec.extractLsb'_append_eq_of_le (by decide)).trans
    BitVec.extractLsb'_append_eq_right

theorem kRegWord_b : (kRegWord op d a b f).extractLsb' 11 5 = b :=
  (BitVec.extractLsb'_append_eq_of_le (by decide)).trans BitVec.extractLsb'_append_eq_right

theorem kRegWord_f : (kRegWord op d a b f).extractLsb' 0 11 = f :=
  BitVec.extractLsb'_append_eq_right

/-- A K word without extension words, of a major that takes no profile word, is what its parse gives, if that is well formed. -/
theorem decode_kRegWord (h35 : op.toNat ≠ 35) (h40 : op.toNat ≠ 40) :
    Sys2Proof.decode .k (kRegWord op d a b f) [] = (parseK (kRegWord op d a b f) 0).filter Instr.wf := by
  have hp : parse .k (kRegWord op d a b f) Exts.none = parseK (kRegWord op d a b f) 0 := by
    simp [parse, Exts.none, kRegWord_op, h35, h40]
  rw [Sys2Proof.decode, parseExts]
  simp only [hp]
  cases parseK (kRegWord op d a b f) 0 <;> rfl

theorem parseK_arithmetic : parseK (kRegWord 1 d a b f) 0 =
    ([Instr.add d a b, .sub d a b, .and d a b, .or d a b, .xor d a b, .shl d a b, .shr d a b, .sra d a b, .mul d a b, .mulh d a b,
      .mulhu d a b, .div d a b, .divu d a b, .rem d a b, .remu d a b, .min d a b, .max d a b, .minu d a b, .maxu d a b])[f.toNat]? := by
  simp only [parseK, kRegWord_op, kRegWord_d, kRegWord_a, kRegWord_b, kRegWord_f]
  generalize f.toNat = n
  match n with
  | 0 | 1 | 2 | 3 | 4 | 5 | 6 | 7 | 8 | 9 | 10 | 11 | 12 | 13 | 14 | 15 | 16 | 17 | 18 => rfl
  | n + 19 => rfl

theorem parseK_compare : parseK (kRegWord 2 d a b f) 0 =
    ([Instr.ceq d a b, .cne d a b, .clt d a b, .cltu d a b, .cge d a b, .cgeu d a b])[f.toNat]? := by
  simp only [parseK, kRegWord_op, kRegWord_d, kRegWord_a, kRegWord_b, kRegWord_f]
  generalize f.toNat = n
  match n with
  | 0 | 1 | 2 | 3 | 4 | 5 => rfl
  | n + 6 => rfl

end

/-- A list of well-formed instructions loses none of them to the decoder's last check. -/
theorem filter_wf_getElem? {l : List Instr} (h : l.all Instr.wf = true) (n : Nat) : (l[n]?).filter Instr.wf = l[n]? := by
  cases hn : l[n]? with
  | none => rfl
  | some i => simp [Option.filter, List.all_eq_true.mp h i (List.mem_of_getElem? hn)]

-- The meaning of each instruction (R146 to R149) ------------------------------------------------------------------------------------

section
variable (s : State) (d a b c : BitVec 5) (imm : BitVec 16) (n : BitVec 6)

theorem exec_add : exec (.add d a b) s = aluK s d a b (· + ·) := rfl
theorem exec_sub : exec (.sub d a b) s = aluK s d a b (· - ·) := rfl
theorem exec_and : exec (.and d a b) s = aluK s d a b (· &&& ·) := rfl
theorem exec_or : exec (.or d a b) s = aluK s d a b (· ||| ·) := rfl
theorem exec_xor : exec (.xor d a b) s = aluK s d a b (· ^^^ ·) := rfl
theorem exec_shl : exec (.shl d a b) s = aluK s d a b fun x y => x <<< amt y := rfl
theorem exec_shr : exec (.shr d a b) s = aluK s d a b fun x y => x >>> amt y := rfl
theorem exec_sra : exec (.sra d a b) s = aluK s d a b fun x y => x.sshiftRight (amt y) := rfl
theorem exec_mul : exec (.mul d a b) s = aluK s d a b (· * ·) := rfl
theorem exec_mulh : exec (.mulh d a b) s = aluK s d a b mulhK := rfl
theorem exec_mulhu : exec (.mulhu d a b) s = aluK s d a b mulhuK := rfl
theorem exec_div : exec (.div d a b) s = aluK s d a b divK := rfl
theorem exec_divu : exec (.divu d a b) s = aluK s d a b divuK := rfl
theorem exec_rem : exec (.rem d a b) s = aluK s d a b remK := rfl
theorem exec_remu : exec (.remu d a b) s = aluK s d a b remuK := rfl
theorem exec_min : exec (.min d a b) s = aluK s d a b fun x y => if x.toInt ≤ y.toInt then x else y := rfl
theorem exec_max : exec (.max d a b) s = aluK s d a b fun x y => if x.toInt ≤ y.toInt then y else x := rfl
theorem exec_minu : exec (.minu d a b) s = aluK s d a b fun x y => if x.toNat ≤ y.toNat then x else y := rfl
theorem exec_maxu : exec (.maxu d a b) s = aluK s d a b fun x y => if x.toNat ≤ y.toNat then y else x := rfl
theorem exec_ceq : exec (.ceq d a b) s = aluK s d a b fun x y => ofBool (x == y) := rfl
theorem exec_cne : exec (.cne d a b) s = aluK s d a b fun x y => ofBool (x != y) := rfl
theorem exec_clt : exec (.clt d a b) s = aluK s d a b fun x y => ofBool (decide (x.toInt < y.toInt)) := rfl
theorem exec_cltu : exec (.cltu d a b) s = aluK s d a b fun x y => ofBool (decide (x.toNat < y.toNat)) := rfl
theorem exec_cge : exec (.cge d a b) s = aluK s d a b fun x y => ofBool (decide (x.toInt ≥ y.toInt)) := rfl
theorem exec_cgeu : exec (.cgeu d a b) s = aluK s d a b fun x y => ofBool (decide (x.toNat ≥ y.toNat)) := rfl
theorem exec_sel : exec (.sel d a b c) s = onK s fun q => s.finK q d (if s.getK q c ≠ 0 then s.getK q a else s.getK q b) := rfl
theorem exec_addi : exec (.addi d a imm) s = immK s d a (· + sext16 imm) := rfl
theorem exec_andi : exec (.andi d a imm) s = immK s d a (· &&& zext16 imm) := rfl
theorem exec_ori : exec (.ori d a imm) s = immK s d a (· ||| zext16 imm) := rfl
theorem exec_xori : exec (.xori d a imm) s = immK s d a (· ^^^ zext16 imm) := rfl
theorem exec_shli : exec (.shli d a n) s = immK s d a (· <<< n.toNat) := rfl
theorem exec_shri : exec (.shri d a n) s = immK s d a (· >>> n.toNat) := rfl
theorem exec_srai : exec (.srai d a n) s = immK s d a fun x => x.sshiftRight n.toNat := rfl
theorem exec_ors16 : exec (.ors16 d a imm) s = immK s d a (· ||| zext16 imm <<< 16) := rfl
theorem exec_ors32 : exec (.ors32 d a imm) s = immK s d a (· ||| zext16 imm <<< 32) := rfl
theorem exec_ors48 : exec (.ors48 d a imm) s = immK s d a (· ||| zext16 imm <<< 48) := rfl
theorem exec_slti : exec (.slti d a imm) s = immK s d a fun x => ofBool (decide (x.toInt < (sext16 imm).toInt)) := rfl
theorem exec_li : exec (.li d imm) s = immK s d 0 fun _ => zext16 imm := rfl

end

-- What an instruction computes ------------------------------------------------------------------------------------------------------

/-- The instruction completes with k[D] ← v and changes nothing else. -/
def Computes (i : Instr) (s : State) (d : BitVec 5) (v : Word) : Prop := ∃ t, exec i s = .next t ∧ KNext s t s.cur d v

section
variable {i : Instr} {s : State} (d a b : BitVec 5) (hc : isCtl s.cur.kind = true)
include hc

theorem computes_onK {v : SeqId → Word} (h : exec i s = onK s fun q => s.finK q d (v q)) : Computes i s d (v s.cur) :=
  ⟨_, h.trans (onK_ctl hc _), KNext.fin s _ d _ hc⟩

theorem computes_aluK {f : Word → Word → Word} {v : Word} (h : exec i s = aluK s d a b f)
    (hv : f (s.getK s.cur a) (s.getK s.cur b) = v) : Computes i s d v :=
  hv ▸ computes_onK d hc (v := fun q => f (s.getK q a) (s.getK q b)) h

theorem computes_immK {f : Word → Word} {v : Word} (h : exec i s = immK s d a f) (hv : f (s.getK s.cur a) = v) : Computes i s d v :=
  hv ▸ computes_onK d hc (v := fun q => f (s.getK q a)) h

/-- A comparison: 1 where its relation holds, 0 where it does not (R148). -/
theorem compares {c : Word → Word → Bool} {P : Word → Word → Prop} (h : exec i s = aluK s d a b fun x y => ofBool (c x y))
    (hP : ∀ x y, c x y = true ↔ P x y) : ∃ t v, exec i s = .next t ∧ KNext s t s.cur d v ∧
      (P (s.getK s.cur a) (s.getK s.cur b) → v = 1) ∧ (¬P (s.getK s.cur a) (s.getK s.cur b) → v = 0) := by
  obtain ⟨t, ht, hk⟩ := computes_aluK d a b hc h rfl
  refine ⟨t, _, ht, hk, fun hp => ?_, fun hp => ?_⟩
  · rw [(hP _ _).mpr hp]
    rfl
  · rw [Bool.eq_false_iff.mpr (mt (hP _ _).mp hp)]
    rfl

end

/-- Settles O1. A word of major 1 decodes by its FUNC, and each function's value is the number that the rule gives it. -/
theorem kArithmetic : Obligations.KArithmetic := by
  unfold Obligations.KArithmetic
  refine ⟨fun d a b f => ?decodes, fun s d a b hc => ?computes⟩
  case decodes =>
    refine (decode_kRegWord 1 d a b f (by decide) (by decide)).trans ?_
    rw [parseK_arithmetic]
    exact filter_wf_getElem? rfl _
  case computes =>
    simp only [List.forall_mem_cons, List.not_mem_nil, false_implies, implies_true, and_true]
    have alu {i : Instr} {f : Word → Word → Word} {v : Word} := @computes_aluK i s d a b hc f v
    exact ⟨alu (exec_add ..) rfl, alu (exec_sub ..) (sub_eq_ofInt ..), alu (exec_and ..) rfl, alu (exec_or ..) rfl,
      alu (exec_xor ..) rfl, alu (exec_shl ..) (shiftLeft_eq_ofNat ..), alu (exec_shr ..) (shiftRight_eq_ofNat ..),
      alu (exec_sra ..) (sshiftRight_eq_ofInt ..), alu (exec_mul ..) (mul_eq_ofNat ..), alu (exec_mulh ..) (mulhK_eq ..),
      alu (exec_mulhu ..) rfl, alu (exec_div ..) (divK_eq ..), alu (exec_divu ..) rfl, alu (exec_rem ..) (remK_eq ..),
      alu (exec_remu ..) rfl, alu (exec_min ..) (ite_toInt_min ..), alu (exec_max ..) (ite_toInt_max ..),
      alu (exec_minu ..) (ite_toNat_min ..), alu (exec_maxu ..) (ite_toNat_max ..)⟩

/-- Settles O2. Quotients and remainders are those of the rule, and a zero divisor or the overflow gives its table's values. -/
theorem kDivision : Obligations.KDivision := by
  unfold Obligations.KDivision
  intro s d a b hc x y
  refine ⟨divK x y, remK x y, divuK x y, remuK x y, computes_aluK d a b hc (exec_div ..) rfl, computes_aluK d a b hc (exec_rem ..) rfl,
    computes_aluK d a b hc (exec_divu ..) rfl, computes_aluK d a b hc (exec_remu ..) rfl, division_by_zero x, ?_, unsigned_division x,
    signed_division⟩
  rintro ⟨hx, hy⟩
  rw [hx, hy]
  exact division_overflow

/-- Settles O3. A word of major 2 decodes by its FUNC; a comparison writes 1 or 0 by its relation, and SEL looks at k[CR]. -/
theorem kCompareSelect : Obligations.KCompareSelect := by
  unfold Obligations.KCompareSelect
  refine ⟨fun d a b f => ?decodes, fun s d a b c hc => ⟨?compares, ?selects⟩⟩
  case decodes =>
    refine (decode_kRegWord 2 d a b f (by decide) (by decide)).trans ?_
    rw [parseK_compare]
    exact filter_wf_getElem? rfl _
  case compares =>
    simp only [List.forall_mem_cons, List.not_mem_nil, false_implies, implies_true, and_true]
    exact ⟨compares d a b hc (P := fun x y => x = y) (exec_ceq ..) fun _ _ => beq_iff_eq,
      compares d a b hc (P := fun x y => x ≠ y) (exec_cne ..) fun _ _ => bne_iff_ne,
      compares d a b hc (P := fun x y => x.toInt < y.toInt) (exec_clt ..) fun _ _ => decide_eq_true_iff,
      compares d a b hc (P := fun x y => x.toNat < y.toNat) (exec_cltu ..) fun _ _ => decide_eq_true_iff,
      compares d a b hc (P := fun x y => x.toInt ≥ y.toInt) (exec_cge ..) fun _ _ => decide_eq_true_iff,
      compares d a b hc (P := fun x y => x.toNat ≥ y.toNat) (exec_cgeu ..) fun _ _ => decide_eq_true_iff⟩
  case selects =>
    obtain ⟨t, ht, hk⟩ := computes_onK d hc (exec_sel s d a b c)
    refine ⟨t, _, ht, hk, fun h => if_pos h, fun h => if_neg (not_not.mpr ?_)⟩
    rcases h with h | rfl
    · exact h
    · exact State.getK_zero s s.cur

/-- Settles O4. The immediate of each form has the value that its extension gives it. -/
theorem kImmediate : Obligations.KImmediate := by
  unfold Obligations.KImmediate
  intro s d a imm n hc x
  simp only [List.forall_mem_cons, List.not_mem_nil, false_implies, implies_true, and_true]
  have alu {i : Instr} {f : Word → Word} {v : Word} := @computes_immK i s d a hc f v
  refine ⟨alu (exec_addi ..) ?_, alu (exec_andi ..) ?_, alu (exec_ori ..) ?_, alu (exec_xori ..) ?_,
    alu (exec_shli ..) (shiftLeft_eq_ofNat ..), alu (exec_shri ..) (shiftRight_eq_ofNat ..), alu (exec_srai ..) (sshiftRight_eq_ofInt ..),
    computes_immK d 0 hc (exec_li ..) (zext16_eq_ofNat imm), alu (exec_ors16 ..) ?_, alu (exec_ors32 ..) ?_, alu (exec_ors48 ..) ?_,
    alu (exec_slti ..) ?_⟩
  · rw [add_eq_ofInt, toInt_sext16]
  · rw [zext16_eq_ofNat]
  · rw [zext16_eq_ofNat]
  · rw [zext16_eq_ofNat]
  · rw [zext16_shiftLeft]
  · rw [zext16_shiftLeft]
  · rw [zext16_shiftLeft]
  · rw [toInt_sext16]
    simp only [ofBool, decide_eq_true_eq, x]

end Sys2Proof.Machine
end

section
/-! SUPPORT. Windows and WINX (spec 06, R159): the code of a run of bytes that lies within one page or one hole. -/

namespace Sys2Proof.Machine

open Sys2Proof

-- Segments -----------------------------------------------------------------------------------------------------------------------

/-- The bytes from an address to the end of its page, or of its 64 KiB hole. -/
def Ctx.room (c : Ctx) (a : Nat) : Nat :=
  match c.pageOf a with
  | some p => p.va + p.size - a
  | none => 2 ^ 16 - a % 2 ^ 16

section
variable {c : Ctx} {a n : Nat}

theorem Ctx.room_page {p : Page} (h : c.pageOf a = some p) : c.room a = p.va + p.size - a := by rw [Ctx.room, h]

theorem Ctx.room_hole (h : c.pageOf a = none) : c.room a = 2 ^ 16 - a % 2 ^ 16 := by rw [Ctx.room, h]

theorem Ctx.segments_succ (fuel : Nat) (hn : n ≠ 0) : c.segments (fuel + 1) a n =
    (c.pageOf a, a, min n (c.room a)) :: (if n ≤ c.room a then [] else c.segments fuel (a + c.room a) (n - c.room a)) := by
  rw [Ctx.segments, if_neg hn]
  rfl

/-- Every segment starts at an address of its page or hole. -/
theorem Ctx.segments_page {fuel : Nat} {x : Option Page × Nat × Nat} (h : x ∈ c.segments fuel a n) : x.1 = c.pageOf x.2.1 := by
  induction fuel generalizing a n with
  | zero => cases h
  | succ fuel ih =>
    by_cases hn : n = 0
    · rw [Ctx.segments, if_pos hn] at h
      cases h
    · rw [Ctx.segments_succ fuel hn, List.mem_cons] at h
      rcases h with rfl | h
      · rfl
      · split at h
        · cases h
        · exact ih h

variable (hn : n ≠ 0) (h : n ≤ c.room a)
include hn h

theorem Ctx.segments_one (fuel : Nat) : c.segments (fuel + 1) a n = [(c.pageOf a, a, n)] := by
  rw [Ctx.segments_succ fuel hn, if_pos h, Nat.min_eq_left h]

theorem Ctx.pagesOf_one : (c.pagesOf [(a, n)]).length = 1 := by
  simp only [Ctx.pagesOf, Ctx.walkPages, Ctx.segments_one hn h, List.map_cons, List.map_nil, List.foldl_cons, List.foldl_nil]
  rfl

end

-- Codes --------------------------------------------------------------------------------------------------------------------------

/-- The page's own permissions, seal and state decide where it is no PEER page. -/
theorem State.permits_own (s : State) (md asid : Nat) {p : Page} (a n : Nat) (rd wr : Bool) (ht : p.tier ≠ 3) :
    s.permits md asid p a n rd wr =
      if (rd = true ∧ p.r = false) ∨ (wr = true ∧ (p.w = false ∨ p.basin.isSome = true ∨ s.sealedAt asid md a n = true)) then 4
      else if p.poisoned = true ∨ p.retired = true then 5 else 0 := by
  simp [State.permits, State.governing, ht, or_assoc]

/-- The code of a set of ranges that makes one segment is the code of that segment. -/
theorem codes_one {v : Nat} (h : v = 0 ∨ v = 3 ∨ v = 4 ∨ v = 5) :
    (if [v].contains 3 then 3 else if [v].contains 4 then 4 else if [v].contains 5 then 5 else 0) = v := by
  rcases h with rfl | rfl | rfl | rfl <;> rfl

section
variable {s : State} {md asid a n : Nat} {rd wr : Bool}

theorem State.runCode_empty : s.runCode md asid a 0 rd wr = 0 := rfl

variable (hn : n ≠ 0)
include hn

theorem State.runCode_high (h : a + n > 2 ^ 52) : s.runCode md asid a n rd wr = 1 := by
  have hok : (decide (a < 2 ^ 52) && decide (a + n ≤ 2 ^ 52)) = false := by
    rw [decide_eq_false (Nat.not_le.mpr h), Bool.and_false]
  rw [State.runCode, if_neg hn, hok]
  simp [State.windowCode, hn]

variable (h52 : a + n ≤ 2 ^ 52)
include h52

/-- A run below 2^52 has the code of its segments, or 2 where they are of more than 64 pages. -/
theorem State.runCode_low : s.runCode md asid a n rd wr = s.windowCode md asid [(a, n)] true rd wr := by
  rw [State.runCode, if_neg hn, decide_eq_true h52, decide_eq_true (show a < 2 ^ 52 by omega), Bool.and_self]

theorem State.runCode_many (h : ((s.ctx md asid).pagesOf [(a, n)]).length > 64) : s.runCode md asid a n rd wr = 2 := by
  rw [State.runCode_low hn h52]
  simp [State.windowCode, hn, h]

/-- A run within one page or hole has the code of that page or hole. -/
theorem State.runCode_one (h : n ≤ (s.ctx md asid).room a) {v : Nat} (hv : v = 0 ∨ v = 3 ∨ v = 4 ∨ v = 5)
    (hc : ((s.ctx md asid).pageOf a = none ∧ v = 3) ∨ ∃ p, (s.ctx md asid).pageOf a = some p ∧ s.permits md asid p a n rd wr = v) :
    s.runCode md asid a n rd wr = v := by
  have hp : ¬ ((s.ctx md asid).pagesOf [(a, n)]).length > 64 := by
    rw [Ctx.pagesOf_one hn h]
    decide
  rw [State.runCode_low hn h52, ← codes_one hv]
  rcases hc with ⟨ho, rfl⟩ | ⟨p, ho, hc⟩
  · simp [State.windowCode, hn, hp, Ctx.segments_one hn h, ho]
  · simp [State.windowCode, hn, hp, Ctx.segments_one hn h, ho, hc]

theorem State.runCode_hole (h : (s.ctx md asid).pageOf a = none) (hr : a % 2 ^ 16 + n ≤ 2 ^ 16) : s.runCode md asid a n rd wr = 3 :=
  State.runCode_one hn h52 (by rw [Ctx.room_hole h]; omega) (by decide) (.inl ⟨h, rfl⟩)

theorem State.runCode_page {p : Page} (h : (s.ctx md asid).pageOf a = some p) (ht : p.tier ≠ 3) (hr : a + n ≤ p.va + p.size) :
    s.runCode md asid a n rd wr =
      if (rd = true ∧ p.r = false) ∨ (wr = true ∧ (p.w = false ∨ p.basin.isSome = true ∨ s.sealedAt asid md a n = true)) then 4
      else if p.poisoned = true ∨ p.retired = true then 5 else 0 := by
  refine State.runCode_one hn h52 (by rw [Ctx.room_page h]; omega) ?_ (.inr ⟨p, h, s.permits_own md asid a n rd wr ht⟩)
  split
  · exact .inr (.inr (.inl rfl))
  · split
    · exact .inr (.inr (.inr rfl))
    · exact .inl rfl

end

theorem exec_winx (s : State) (d a b : BitVec 5) (acc : BitVec 2) : exec (.winx d a b acc) s = onK s fun q =>
    s.finK q d (BitVec.ofNat 64 (s.runCode (modOf q.unit) (s.asidOf q) (s.getK q a).toNat (s.getK q b).toNat
      (acc.getLsbD 0) (acc.getLsbD 1))) := rfl

end Sys2Proof.Machine
end

section
/-! SUPPORT. The in-flight counts of pages (spec 18, R384): what a translation pins, and what pinning raises. -/

namespace Sys2Proof.Machine

open Sys2Proof

-- One page -----------------------------------------------------------------------------------------------------------------------

/-- The in-flight count of the entry that starts at an address, where one is listed. -/
def Ctx.inFlight (c : Ctx) (va : Nat) : Option Nat := (c.pages.find? fun p => p.va == va).map (·.inf)

/-- An entry starts at the address, or the page of the host window does, which is listed once it is pinned (R381). -/
def Ctx.Pinnable (c : Ctx) (va : Nat) : Prop :=
  (c.pages.any fun p => p.va == va) = true ∨ ∃ p, c.hostPage va = some p ∧ p.va = va ∧ p.inf = 0

/-- The count of one page raised by one. -/
def Ctx.raise (c : Ctx) (va : Nat) : Ctx := c.updPage va fun p => { p with inf := p.inf + 1 }

/-- A listed entry after the count of the page at an address is raised. -/
def Page.raiseAt (va : Nat) (p : Page) : Page := if p.va = va then { p with inf := p.inf + 1 } else p

@[simp] theorem Page.raiseAt_va (va : Nat) (p : Page) : (p.raiseAt va).va = p.va := by
  unfold Page.raiseAt
  split <;> rfl

theorem Page.raiseAt_inf (va : Nat) (p : Page) : (p.raiseAt va).inf = if p.va = va then p.inf + 1 else p.inf := by
  unfold Page.raiseAt
  split <;> rfl

section
variable {c : Ctx} {va : Nat}

theorem Ctx.raise_listed (h : (c.pages.any fun p => p.va == va) = true) :
    c.raise va = { c with pages := c.pages.map (Page.raiseAt va) } := if_pos h

theorem Ctx.raise_host {p : Page} (h : ¬(c.pages.any fun p => p.va == va) = true) (hp : c.hostPage va = some p) :
    c.raise va = { c with pages := { p with inf := p.inf + 1 } :: c.pages } := by
  rw [Ctx.raise, Ctx.updPage, if_neg h, hp]

/-- Raising a count keeps all but the list of pages. -/
theorem Ctx.raise_rest (c : Ctx) (va : Nat) : c.raise va = { c with pages := (c.raise va).pages } := by
  simp only [Ctx.raise, Ctx.updPage]
  split
  · rfl
  · split <;> rfl

@[simp] theorem Ctx.raise_chains (c : Ctx) (va : Nat) : (c.raise va).chains = c.chains := by rw [Ctx.raise_rest]

@[simp] theorem Ctx.raise_hostPage (c : Ctx) (va v : Nat) : (c.raise va).hostPage v = c.hostPage v := by
  rw [Ctx.raise_rest]
  rfl

/-- The first entry at an address is the same one after counts are raised, with its own count raised if it is the page's. -/
theorem find_map_raiseAt (l : List Page) (va v : Nat) : (((l.map (Page.raiseAt va)).find? fun p => p.va == v).map (·.inf)) =
    (l.find? fun p => p.va == v).map fun p => if v = va then p.inf + 1 else p.inf := by
  have hva : (fun p : Page => p.va == v) ∘ Page.raiseAt va = fun p => p.va == v := funext fun p => by simp
  rw [List.find?_map, hva]
  cases h : l.find? fun p => p.va == v with
  | none => rfl
  | some p =>
    have hp : p.va = v := by simpa using List.find?_some h
    simp [Page.raiseAt_inf, hp]

theorem Ctx.inFlight_raise (h : c.Pinnable va) (v : Nat) :
    (c.raise va).inFlight v = if v = va then some ((c.inFlight va).getD 0 + 1) else c.inFlight v := by
  by_cases hl : (c.pages.any fun p => p.va == va) = true
  · rw [Ctx.inFlight, Ctx.raise_listed hl, find_map_raiseAt]
    split
    · next e =>
      obtain ⟨p, hp⟩ := Option.isSome_iff_exists.mp (List.find?_isSome.mpr (List.any_eq_true.mp hl))
      rw [e, Ctx.inFlight, hp]
      rfl
    · rfl
  · obtain ⟨p, hp, hva, hinf⟩ := h.resolve_left hl
    have hn : (c.pages.find? fun p => p.va == va) = none := by
      rw [List.find?_eq_none]
      exact fun x hx e => hl (List.any_eq_true.mpr ⟨x, hx, e⟩)
    rw [Ctx.inFlight, Ctx.raise_host hl hp]
    by_cases e : v = va
    · simp [e, hva, hinf, Ctx.inFlight, hn]
    · simp [e, hva, Ctx.inFlight, Ne.symm e]

theorem Ctx.Pinnable.raise {v : Nat} (h : c.Pinnable v) (va : Nat) : (c.raise va).Pinnable v := by
  rcases h with h | ⟨p, hp, hv⟩
  · obtain ⟨x, hx, hxv⟩ := List.any_eq_true.mp h
    left
    by_cases hl : (c.pages.any fun p => p.va == va) = true
    · rw [Ctx.raise_listed hl]
      exact List.any_eq_true.mpr ⟨_, List.mem_map_of_mem hx, (x.raiseAt_va va).symm ▸ hxv⟩
    · rw [Ctx.raise, Ctx.updPage, if_neg hl]
      split
      · exact List.any_eq_true.mpr ⟨x, List.mem_cons_of_mem _ hx, hxv⟩
      · exact h
  · exact .inr ⟨p, by rw [Ctx.raise_hostPage, hp], hv⟩

end

/-- A page of the host window starts at its own multiple of 512 MiB and is not in flight. -/
theorem Ctx.hostPage_start {c : Ctx} {a : Nat} {p : Page} (h : c.hostPage a = some p) : c.hostPage p.va = some p ∧ p.inf = 0 := by
  rw [Ctx.hostPage] at h
  split at h
  · cases h
  · next hw =>
    cases h
    have hlo : a / 2 ^ 29 * 2 ^ 29 / 2 ^ 29 * 2 ^ 29 = a / 2 ^ 29 * 2 ^ 29 := by omega
    have hin : ¬(c.st = .free ∨ a / 2 ^ 29 * 2 ^ 29 < 2 ^ 51 ∨ a / 2 ^ 29 * 2 ^ 29 ≥ 2 ^ 52) := by
      rintro (hf | hr)
      · exact hw (.inl hf)
      · exact hw (.inr (by omega))
    refine ⟨?_, rfl⟩
    rw [Ctx.hostPage, if_neg hin, hlo]

/-- The page that an address translates to can be pinned. -/
theorem Ctx.pageOf_pinnable {c : Ctx} {a : Nat} {p : Page} (h : c.pageOf a = some p) : c.Pinnable p.va := by
  rw [Ctx.pageOf] at h
  split at h
  · next x hx =>
    cases h
    exact .inl (List.any_eq_true.mpr ⟨p, List.mem_of_find?_eq_some hx, beq_self_eq_true _⟩)
  · obtain ⟨hp, hinf⟩ := Ctx.hostPage_start h
    exact .inr ⟨p, hp, rfl, hinf⟩

-- A set of pages -----------------------------------------------------------------------------------------------------------------

theorem ctxKey_injective {m m' asid : Nat} (h : ctxKey m asid = ctxKey m' asid) : m = m' := by
  simp only [ctxKey] at h
  omega

section
variable (s : State) (asid : Nat)

theorem State.pin_cons (x : Nat × Nat) (ps : List (Nat × Nat)) :
    s.pin asid (x :: ps) = (s.setCtx x.1 asid ((s.ctx x.1 asid).raise x.2)).pin asid ps := rfl

theorem State.pin_rest (ps : List (Nat × Nat)) : s.pin asid ps = { s with ctxs := (s.pin asid ps).ctxs } := by
  induction ps generalizing s with
  | nil => rfl
  | cons x ps ih =>
    rw [State.pin_cons, ih]
    rfl

theorem State.pin_chains (ps : List (Nat × Nat)) (m : Nat) : ((s.pin asid ps).ctx m asid).chains = (s.ctx m asid).chains := by
  induction ps generalizing s with
  | nil => rfl
  | cons x ps ih =>
    rw [State.pin_cons, ih]
    by_cases hm : m = x.1
    · rw [hm, State.ctx_setCtx, Ctx.raise_chains]
    · rw [State.ctx_setCtx_other _ _ _ _ _ _ fun e => hm (ctxKey_injective e)]

/-- Pinning a set of pages raises the count of each by one, and no other count. -/
theorem State.pin_inFlight {ps : List (Nat × Nat)} (hn : ps.Nodup) (hp : ∀ x ∈ ps, (s.ctx x.1 asid).Pinnable x.2) (m va : Nat) :
    ((s.pin asid ps).ctx m asid).inFlight va =
      if (m, va) ∈ ps then some (((s.ctx m asid).inFlight va).getD 0 + 1) else (s.ctx m asid).inFlight va := by
  induction ps generalizing s with
  | nil => rfl
  | cons x ps ih =>
    obtain ⟨hx, hps⟩ := List.forall_mem_cons.mp hp
    obtain ⟨hnx, hnps⟩ := List.nodup_cons.mp hn
    rw [State.pin_cons, ih _ hnps fun y hy => ?pinnable]
    case pinnable =>
      by_cases hy1 : y.1 = x.1
      · rw [hy1, State.ctx_setCtx]
        exact (hy1 ▸ hps y hy).raise x.2
      · rw [State.ctx_setCtx_other _ _ _ _ _ _ fun e => hy1 (ctxKey_injective e)]
        exact hps y hy
    by_cases hm : m = x.1
    · subst hm
      rw [State.ctx_setCtx, Ctx.inFlight_raise hx]
      by_cases hv : va = x.2
      · subst hv
        simp [hnx]
      · simp [hv, Prod.ext_iff]
    · rw [State.ctx_setCtx_other _ _ _ _ _ _ fun e => hm (ctxKey_injective e)]
      simp [hm, Prod.ext_iff]

end

-- What a translation pins ----------------------------------------------------------------------------------------------------------

theorem nodup_eraseDups {α : Type} [BEq α] [LawfulBEq α] (l : List α) : l.eraseDups.Nodup := by
  induction hn : l.length using Nat.strong_induction_on generalizing l with
  | _ n ih =>
    cases l with
    | nil => exact List.nodup_nil
    | cons x l =>
      rw [List.eraseDups_cons, List.nodup_cons]
      refine ⟨fun h => ?_, ih _ ?_ _ rfl⟩
      · rw [List.mem_eraseDups, List.mem_filter] at h
        simp at h
      · rw [← hn, List.length_cons]
        exact Nat.lt_succ_of_le (List.length_filter_le ..)

/-- The pages behind a PEER page are pages of its module's context. -/
theorem State.governing_peer {s : State} {md asid a n : Nat} {p : Page} {m : Nat} {h : Page} (ht : p.tier = 3)
    (hg : some (m, h) ∈ s.governing md asid p a n) : m = p.peer ∧ ∃ x, (s.ctx p.peer asid).pageOf x = some h := by
  rw [State.governing, if_neg (not_not.mpr ht)] at hg
  split at hg
  · simp at hg
  · obtain ⟨o, ho, hoh⟩ := List.mem_map.mp hg
    obtain ⟨y, hy, rfl⟩ := List.mem_map.mp ho
    obtain ⟨h', hh', heq⟩ := Option.map_eq_some_iff.mp hoh
    obtain ⟨rfl, rfl⟩ := Prod.mk.injEq .. ▸ heq
    exact ⟨rfl, y.2.1, (Ctx.segments_page hy) ▸ (Option.filter_eq_some_iff.mp hh').1⟩

/-- Every page that a translation pins can be pinned. -/
theorem State.pinsFor_pinnable {s : State} {md asid : Nat} {rs : List (Nat × Nat)} :
    ∀ x ∈ s.pinsFor md asid rs, (s.ctx x.1 asid).Pinnable x.2 := by
  intro x hx
  rw [State.pinsFor, List.mem_eraseDups, List.mem_flatMap] at hx
  obtain ⟨r, -, hx⟩ := hx
  obtain ⟨y, hy, hx⟩ := List.mem_flatMap.mp hx
  have hpage := Ctx.segments_page hy
  obtain ⟨_ | p, a, n⟩ := y
  · simp at hx
  · simp only [List.mem_cons] at hx
    rcases hx with rfl | hx
    · exact Ctx.pageOf_pinnable hpage.symm
    · split at hx
      · next ht =>
        obtain ⟨⟨m, h⟩, hg, rfl⟩ := List.mem_map.mp hx
        obtain ⟨o, ho, hoid⟩ := List.mem_filterMap.mp hg
        obtain ⟨rfl, z, hz⟩ := State.governing_peer ht ((show o = some (m, h) from hoid) ▸ ho)
        exact Ctx.pageOf_pinnable hz
      · cases hx

end Sys2Proof.Machine
end

section
/-! SUPPORT. WINX, BGENQ and SQWAIT (spec 06, R159, R160, R163, R166). -/

namespace Sys2Proof.Machine

open Sys2Proof

-- The record (R160) ----------------------------------------------------------------------------------------------------------------

/-- Half a word as a two's-complement number. -/
theorem signed_eq_toInt (x : Word) (lo : Nat) : signed 32 (x.toNat / 2 ^ lo) = (x.extractLsb' lo 32).toInt := by
  rw [BitVec.toInt_eq_toNat_cond, BitVec.extractLsb'_toNat, Nat.shiftRight_eq_div_pow, signed]
  have : x.toNat / 2 ^ lo % 2 ^ 32 < 2 ^ (32 - 1) ↔ 2 * (x.toNat / 2 ^ lo % 2 ^ 32) < 2 ^ 32 := by omega
  simp only [this]

-- The enqueue (R163) -------------------------------------------------------------------------------------------------------------------

/-- A context replaced in a state that differs from another in its identifiers and contexts alone. -/
theorem State.setCtx_keeps {s t : State} (h : t = { s with ids := s.ids + 1, ctxs := t.ctxs }) (md asid : Nat) (c : Ctx) :
    t.setCtx md asid c = { s with ids := s.ids + 1, ctxs := (t.setCtx md asid c).ctxs } :=
  congrArg (fun u : State => { u with ctxs := sset t.ctxs (ctxKey md asid) c }) h

theorem Ctx.setChain_inFlight (c : Ctx) (k : Nat) (x : Chain) (va : Nat) : (c.setChain k x).inFlight va = c.inFlight va := rfl

/-- The command that an enqueue appends: the record's, with its number, its place in the order and what it captures. -/
def State.bargeOf (s : State) (q : SeqId) (b : Nat) (w : List Word) : BCmd :=
  { bcmdOf w with
    seq := ((s.ctxOf q).chain (bargeKey q b)).last + 1, enq := q, order := s.ids
    pins := s.pinsOf (modOf q.unit) (s.asidOf q) (bcmdOf w)
    nkey := if q.kind = SeqKind.k then (s.core q.unit).nkey else 0
    desc := if bitAt (w.getD 4 0).toNat 6 then some (descPart ((s.grpOf q).descWords (field (w.getD 4 0).toNat 7 16))) else none }

/-- The state in which the pages that the command examined are pinned. -/
def State.bargePinned (s : State) (q : SeqId) (b : Nat) (w : List Word) : State :=
  { s with ids := s.ids + 1 }.pin (s.asidOf q) (s.bargeOf q b w).pins

section
variable (s : State) (q : SeqId) (b : Nat) (w : List Word)

theorem State.bargeOf_seq : (s.bargeOf q b w).seq = ((s.ctxOf q).chain (bargeKey q b)).last + 1 := rfl

theorem State.bargeOf_captures : (s.bargeOf q b w).enq = q ∧ (s.bargeOf q b w).st = .queued ∧ (s.bargeOf q b w).order = s.ids :=
  ⟨rfl, rfl, rfl⟩

theorem State.bargeOf_desc : (s.bargeOf q b w).desc =
    if (w.getD 4 0).getLsbD 6 then some (descPart ((s.grpOf q).descWords ((w.getD 4 0).toNat / 2 ^ 7 % 2 ^ 16))) else none := by
  have h : (s.bargeOf q b w).desc = if bitAt (w.getD 4 0).toNat 6 then
      some (descPart ((s.grpOf q).descWords (field (w.getD 4 0).toNat 7 16))) else none := rfl
  rw [h, bitAt_eq_testBit, field_eq]
  rfl

/-- The command has the record's fields, the part of the descriptor that the record names, and a K's noise key. -/
theorem State.bargeOf_fields :
    let f (i : Nat) : Word := w.getD i 0
    let x := s.bargeOf q b w
    x.src = (f 0).toNat ∧ x.dst = (f 1).toNat ∧ x.len = (f 2).toNat % 2 ^ 32 ∧ x.rows = (f 2).toNat / 2 ^ 32 ∧
      x.sstr = ((f 3).extractLsb' 0 32).toInt ∧ x.dstr = ((f 3).extractLsb' 32 32).toInt ∧
      x.aw = (f 4).getLsbD 27 ∧ x.aop = (f 4).toNat / 2 ^ 24 % 8 ∧ x.es = (f 4).toNat / 16 % 4 ∧ x.xp = (f 4).getLsbD 3 ∧
      x.rel = (f 4).getLsbD 2 ∧ x.ds = (f 4).getLsbD 1 ∧ x.ss = (f 4).getLsbD 0 ∧ x.opnd = (f 5).toNat ∧ x.cmpv = (f 6).toNat ∧
      x.desc = (if (f 4).getLsbD 6 then some (descPart ((s.grpOf q).descWords ((f 4).toNat / 2 ^ 7 % 2 ^ 16))) else none) ∧
      x.nkey = if q.kind = SeqKind.k then (s.core q.unit).nkey else 0 := by
  intro f x
  have hbit (i n : Nat) : bitAt (f i).toNat n = (f i).getLsbD n := bitAt_eq_testBit ..
  have hlen : field (f 2).toNat 0 32 = (f 2).toNat % 2 ^ 32 := by rw [field_eq, Nat.pow_zero, Nat.div_one]
  have hrows : field (f 2).toNat 32 32 = (f 2).toNat / 2 ^ 32 := by
    have := (f 2).isLt
    rw [field_eq]
    omega
  have hsstr : signed 32 (f 3).toNat = ((f 3).extractLsb' 0 32).toInt := by
    rw [← signed_eq_toInt, Nat.pow_zero, Nat.div_one]
  exact ⟨rfl, rfl, hlen, hrows, hsstr, signed_eq_toInt (f 3) 32, hbit 4 27, field_eq .., field_eq .., hbit 4 3, hbit 4 2, hbit 4 1,
    hbit 4 0, rfl, rfl, s.bargeOf_desc q b w, rfl⟩

/-- What an enqueue fills in takes no part in where the command's rows lie. -/
theorem State.bargeOf_pins : (s.bargeOf q b w).pins = s.pinsOf (modOf q.unit) (s.asidOf q) (s.bargeOf q b w) := rfl

/-- The pages that a command pins can be pinned, and each stands in its list once. -/
theorem State.bargeOf_pins_nodup : (s.bargeOf q b w).pins.Nodup := nodup_eraseDups _

theorem State.bargeOf_pinnable : ∀ x ∈ (s.bargeOf q b w).pins, (s.ctx x.1 (s.asidOf q)).Pinnable x.2 := State.pinsFor_pinnable

theorem State.bargePinned_inFlight (m va : Nat) : ((s.bargePinned q b w).ctx m (s.asidOf q)).inFlight va =
    if (m, va) ∈ (s.bargeOf q b w).pins then some (((s.ctx m (s.asidOf q)).inFlight va).getD 0 + 1)
    else (s.ctx m (s.asidOf q)).inFlight va :=
  State.pin_inFlight { s with ids := s.ids + 1 } (s.asidOf q) (s.bargeOf_pins_nodup q b w) (s.bargeOf_pinnable q b w) m va

theorem State.bargePinned_rest : s.bargePinned q b w = { s with ids := s.ids + 1, ctxs := (s.bargePinned q b w).ctxs } :=
  State.pin_rest ..

theorem State.enqueue_eq : s.enqueue q b w = (((s.ctxOf q).chain (bargeKey q b)).last + 1,
    (s.bargePinned q b w).setCtx (modOf q.unit) (s.asidOf q)
      (((s.bargePinned q b w).ctx (modOf q.unit) (s.asidOf q)).setChain (bargeKey q b)
        { (s.ctxOf q).chain (bargeKey q b) with
          last := ((s.ctxOf q).chain (bargeKey q b)).last + 1
          cmds := ((s.ctxOf q).chain (bargeKey q b)).cmds ++ [s.bargeOf q b w] })) := by
  have hasid : (s.bargePinned q b w).asidOf q = s.asidOf q := by
    rw [State.bargePinned_rest]
    rfl
  rw [← hasid]
  rfl

/-- The enqueue changes contexts alone, and draws an identifier. -/
theorem State.enqueue_rest : (s.enqueue q b w).2 = { s with ids := s.ids + 1, ctxs := (s.enqueue q b w).2.ctxs } := by
  rw [State.enqueue_eq]
  exact State.setCtx_keeps (State.bargePinned_rest ..) ..

theorem State.enqueue_ctxOf : (s.enqueue q b w).2.ctxOf q = (s.enqueue q b w).2.ctx (modOf q.unit) (s.asidOf q) := by
  rw [State.ctxOf, show (s.enqueue q b w).2.asidOf q = s.asidOf q by rw [State.enqueue_rest]; rfl]

/-- Its own chain has the command at its end and the next number as its last. -/
theorem State.enqueue_chain : ((s.enqueue q b w).2.ctxOf q).chain (bargeKey q b) =
    { (s.ctxOf q).chain (bargeKey q b) with
      last := ((s.ctxOf q).chain (bargeKey q b)).last + 1
      cmds := ((s.ctxOf q).chain (bargeKey q b)).cmds ++ [s.bargeOf q b w] } := by
  rw [State.enqueue_ctxOf, State.enqueue_eq, State.ctx_setCtx, Ctx.chain, Ctx.setChain, sget_sset_same]

/-- Every other chain is as it was. -/
theorem State.enqueue_chain_other {k : Nat} (h : k ≠ bargeKey q b) :
    ((s.enqueue q b w).2.ctxOf q).chain k = (s.ctxOf q).chain k := by
  rw [State.enqueue_ctxOf, State.enqueue_eq, State.ctx_setCtx, Ctx.chain, Ctx.setChain, sget_sset_other _ _ _ _ _ h, State.bargePinned,
    State.pin_chains]
  rfl

/-- The count of each page that the command examined is one more, and no other count has changed. -/
theorem State.enqueue_inFlight (m va : Nat) : ((s.enqueue q b w).2.ctx m (s.asidOf q)).inFlight va =
    if (m, va) ∈ (s.bargeOf q b w).pins then some (((s.ctx m (s.asidOf q)).inFlight va).getD 0 + 1)
    else (s.ctx m (s.asidOf q)).inFlight va := by
  rw [← State.bargePinned_inFlight, State.enqueue_eq]
  by_cases hm : m = modOf q.unit
  · rw [hm, State.ctx_setCtx, Ctx.setChain_inFlight]
  · rw [State.ctx_setCtx_other _ _ _ _ _ _ fun e => hm (ctxKey_injective e)]

end

-- The instructions -------------------------------------------------------------------------------------------------------------------

section
variable {s : State} (d a b : BitVec 5) (hc : isCtl s.cur.kind = true)
include hc

/-- WINX answers the code of its window and changes nothing else. -/
theorem winx_computes (acc : BitVec 2) : Computes (.winx d a b acc) s d (BitVec.ofNat 64 (s.runCode (modOf s.cur.unit) (s.asidOf s.cur)
    (s.getK s.cur a).toNat (s.getK s.cur b).toNat (acc.getLsbD 0) (acc.getLsbD 1))) :=
  computes_onK d hc (exec_winx s d a b acc)

section
variable (hn : (s.getK s.cur b).toNat < 16) (hl : ((s.ctxOf s.cur).chain (bargeKey s.cur (s.getK s.cur b).toNat)).cmds.length < 1024)
  (hr : s.recCheck s.cur (s.getK s.cur a).toNat 64 = none)
include hn hl hr

theorem exec_bgenq_waits (ho : s.ownOpen s.cur (s.getK s.cur a).toNat 64 = true) : exec (.bgenq d a b) s = .next s := by
  change execBgenq d a b s = _
  simp only [execBgenq, onK_ctl hc, if_neg (Nat.not_le.mpr hn), if_neg (Nat.not_le.mpr hl), hr, ho, if_true]

theorem exec_bgenq_enqueues (ho : s.ownOpen s.cur (s.getK s.cur a).toNat 64 = false)
    (ht : s.bgenqTrap s.cur (s.words s.cur (s.getK s.cur a).toNat 8) = none) : exec (.bgenq d a b) s =
      .next ((s.enqueue s.cur (s.getK s.cur b).toNat (s.words s.cur (s.getK s.cur a).toNat 8)).2.finK s.cur d
        (BitVec.ofNat 64 (((s.ctxOf s.cur).chain (bargeKey s.cur (s.getK s.cur b).toNat)).last + 1))) := by
  change execBgenq d a b s = _
  simp only [execBgenq, onK_ctl hc, if_neg (Nat.not_le.mpr hn), if_neg (Nat.not_le.mpr hl), hr, ho, ht, Bool.false_eq_true, if_false]
  rw [State.enqueue_eq]

end

section
variable (hn : (s.getK s.cur a).toNat < 16)
include hn

theorem sqwait_answers (h : ((s.ctxOf s.cur).chain (bargeKey s.cur (s.getK s.cur a).toNat)).seq ≥ (s.getK s.cur b).toNat) :
    Computes (.sqwait d a b) s d (BitVec.ofNat 64 ((s.ctxOf s.cur).chain (bargeKey s.cur (s.getK s.cur a).toNat)).seq) := by
  refine ⟨_, ?_, KNext.fin s _ d _ hc⟩
  change execSqwait d a b s = _
  simp only [execSqwait, onK_ctl hc, if_neg (Nat.not_le.mpr hn), if_pos h]

theorem exec_sqwait_waits (h : ((s.ctxOf s.cur).chain (bargeKey s.cur (s.getK s.cur a).toNat)).seq < (s.getK s.cur b).toNat) :
    exec (.sqwait d a b) s = .next s := by
  change execSqwait d a b s = _
  simp only [execSqwait, onK_ctl hc, if_neg (Nat.not_le.mpr hn), if_neg (Nat.not_le.mpr h)]

end

end

/-- Settles O9. WINX by the cases of its window's code, BGENQ by its wait and its enqueue, SQWAIT by its number. -/
theorem kBarge : Obligations.KBarge := by
  unfold Obligations.KBarge
  intro s d a b acc hc q ea n ch ca md asid c
  refine ⟨?winx, exec_bgenq_waits d a b hc, ?enqueues, sqwait_answers d a b hc, exec_sqwait_waits d a b hc⟩
  case winx =>
    obtain ⟨t, ht, hk⟩ := winx_computes d a b hc acc
    refine ⟨t, _, ht, hk, fun hn => ?_, fun hn h => ?_, fun hn h52 => ⟨fun h => ?_, fun h hr => ?_, fun p h htier hr => ?_⟩⟩
    · rw [show (s.getK s.cur b).toNat = 0 from hn, State.runCode_empty]
      rfl
    · rw [State.runCode_high hn h]
      rfl
    · rw [State.runCode_many hn h52 h]
      rfl
    · rw [State.runCode_hole hn h52 h hr]
      rfl
    · rw [State.runCode_page hn h52 h htier hr]
      split
      · rfl
      · split <;> rfl
  case enqueues =>
    intro hn hl hr ho ht
    obtain ⟨henq, hst, horder⟩ := s.bargeOf_captures q n (s.words q ea 8)
    refine ⟨_, (s.enqueue q n (s.words q ea 8)).2, s.bargeOf q n (s.words q ea 8), exec_bgenq_enqueues d a b hc hn hl hr ho ht,
      KNext.fin _ q d _ hc, State.enqueue_rest .., State.enqueue_chain .., fun k hk => State.enqueue_chain_other _ _ _ _ hk,
      State.bargeOf_seq .., henq, hst, horder, State.bargeOf_pins .., fun m' va => ?counts, ?fields⟩
    case counts =>
      refine (s.enqueue_inFlight q n (s.words q ea 8) m' va).trans ?_
      simp only [Ctx.inFlight]
      cases (s.ctx m' asid).pages.find? fun p => p.va == va <;> rfl
    case fields => exact State.bargeOf_fields ..

end Sys2Proof.Machine
end

section
/-! SUPPORT. The streams L and S (spec 07): how an instruction of theirs ends, the first failing check of a list, and what an earlier load has yet
to read (spec 12, R289, R294). -/

namespace Sys2Proof.Machine

open Sys2Proof

-- How an instruction ends (R23, R178) ------------------------------------------------------------------------------------------------

section
variable {kd : SeqKind} {tok : Tok} {s : State} {f : SeqId → LsOut} (h : LsReady s kd tok)
include h

theorem lsRun_stalls (hf : f s.cur = .stall) : lsRun kd tok s f = .next s := by rw [lsRun_ready kd tok s f h, hf]

theorem lsRun_traps {tr : Trap} {n : Nat} (hf : f s.cur = .trap tr n) : lsRun kd tok s f = .next (s.trapElem s.cur tr n) := by
  rw [lsRun_ready kd tok s f h, hf]

/-- An instruction whose own part leaves the sluices alone completes. -/
theorem lsRun_completes {m : State} {p : Pos} {later : Bool} (hk : isCtl kd = false) (hf : f s.cur = .done m p later)
    (hm : (m.core s.cur.unit).slu = (s.core s.cur.unit).slu) : ∃ t, lsRun kd tok s f = .next t ∧ LsDone tok later m t s.cur p := by
  have hd := LsDone.finish m s.cur tok later (m.tells s.cur 1) p (by rw [h.1]; exact hk) fun n hn => by
    have := Core.tokReady_pb _ kd tok h.2 n (by rw [← h.1]; exact hn)
    simpa only [Core.tokens, hm] using this
  rw [h.1] at hd
  rw [lsRun_ready kd tok s f h, hf]
  exact ⟨_, rfl, hd⟩

end

-- The first failing check of a list (R173, R181) --------------------------------------------------------------------------------------

theorem firstSome_at {α β : Type} {f : α → Option β} {l : List α} {n : Nat} {x : α} {t : β} (hn : l[n]? = some x) (hx : f x = some t)
    (hb : ∀ y ∈ l.take n, f y = none) : firstSome f l = some t := by
  induction l generalizing n with
  | nil => simp at hn
  | cons y l ih =>
    cases n with
    | zero =>
      obtain rfl : y = x := by simpa using hn
      rw [firstSome, hx]
    | succ n =>
      rw [List.take_succ_cons] at hb
      rw [firstSome, hb y (List.mem_cons_self ..)]
      exact ih (by simpa using hn) fun z hz => hb z (List.mem_cons_of_mem _ hz)

theorem firstSome_isSome {α β : Type} {f : α → Option β} {l : List α} (h : ∃ x ∈ l, (f x).isSome = true) :
    ∃ x ∈ l, ∃ t, f x = some t ∧ firstSome f l = some t := by
  induction l with
  | nil => simp at h
  | cons y l ih =>
    cases hy : f y with
    | some t => exact ⟨y, List.mem_cons_self .., t, hy, by rw [firstSome, hy]⟩
    | none =>
      obtain ⟨x, hx, hs⟩ := h
      rcases List.mem_cons.mp hx with rfl | hx
      · simp [hy] at hs
      · obtain ⟨z, hz, t, ht, hf⟩ := ih ⟨x, hx, hs⟩
        exact ⟨z, List.mem_cons_of_mem _ hz, t, ht, by rw [firstSome, hy, hf]⟩

theorem State.listCheck_none {s : State} {q : SeqId} {ws : List (Nat × Nat)} (h : ∀ w ∈ ws, s.readElem q (w.1 : Int) w.2 = none) :
    s.listCheck q ws = none := firstSome_eq_none fun w hw => by rw [h w hw]; rfl

-- What an earlier load has yet to read ---------------------------------------------------------------------------------------------------

theorem LEntry.owes_iff (e : LEntry) (a n : Nat) : e.owes a n = true ↔ e.present = false ∧ ∃ i y, e.plan[i]? = some (some y) ∧
    sfind e.got i = none ∧ a < y + e.width / 8 ∧ y < a + n := by
  simp only [LEntry.owes, Bool.and_eq_true, Bool.not_eq_true', List.contains_iff_mem, List.mem_iff_getElem?, List.getElem?_mapIdx]
  refine and_congr_right fun _ => exists_congr fun i => ?_
  rcases e.plan[i]? with _ | _ | y
  · simp
  · simp
  · simp [and_assoc]

theorem owedIn_iff (l : List LEntry) (a n : Nat) : owedIn l a n = true ↔ ∃ e ∈ l, e.present = false ∧ ∃ i y, e.plan[i]? = some (some y) ∧
    sfind e.got i = none ∧ a < y + e.width / 8 ∧ y < a + n := by
  simp only [owedIn, List.any_eq_true, LEntry.owes_iff]

/-- The entries that are present owe nothing. -/
theorem owedIn_filter (l : List LEntry) (a n : Nat) : owedIn (l.filter fun e => !e.present) a n = owedIn l a n := by
  rw [Bool.eq_iff_iff, owedIn_iff, owedIn_iff]
  simp only [List.mem_filter, Bool.not_eq_true', and_assoc, and_self_left]

theorem State.owedWords_iff (s : State) (q : SeqId) (ws : List (Nat × Nat)) : s.owedWords q ws = true ↔
    ∃ e ∈ (s.core q.unit).lq, e.present = false ∧ ∃ w ∈ ws, ∃ i y, e.plan[i]? = some (some y) ∧ sfind e.got i = none ∧
      w.1 < y + e.width / 8 ∧ y < w.1 + w.2 := by
  have hany : s.owedWords q ws = ws.any fun w => owedIn (s.core q.unit).lq w.1 w.2 := by
    simp only [State.owedWords, owedIn_filter]
    cases hl : (s.core q.unit).lq.filter fun e => !e.present with
    | cons => rfl
    | nil =>
      have hno : ∀ w ∈ ws, owedIn (s.core q.unit).lq w.1 w.2 = false := fun w _ => by rw [← owedIn_filter, hl]; rfl
      simpa using fun a b hw => hno (a, b) hw
  rw [hany, List.any_eq_true]
  simp only [owedIn_iff]
  constructor
  · rintro ⟨w, hw, e, he, hp, hi⟩
    exact ⟨e, he, hp, w, hw, hi⟩
  · rintro ⟨e, he, hp, w, hw, hi⟩
    exact ⟨w, hw, e, he, hp, hi⟩

theorem all_mapIdx_iff {α : Type} (l : List α) (f : Nat → α → Bool) :
    (l.mapIdx f).all (· == true) = true ↔ ∀ i x, l[i]? = some x → f i x = true := by
  simp only [List.all_eq_true, List.mem_iff_getElem?, List.getElem?_mapIdx, beq_iff_eq]
  constructor
  · intro h i x hx
    exact h _ ⟨i, by rw [hx]; rfl⟩
  · rintro h y ⟨i, hy⟩
    obtain ⟨x, hx, rfl⟩ := Option.map_eq_some_iff.mp hy
    exact h i x hx

theorem LEntry.ready_iff (e : LEntry) (l : List LEntry) : e.ready l = true ↔
    ∀ j ad, e.plan[j]? = some (some ad) → sfind e.got j = none → owedIn l ad (e.width / 8) = false := by
  simp only [LEntry.ready, owedIn_filter, Bool.or_eq_true, all_mapIdx_iff]
  constructor
  · rintro (h | h) j ad hp hg
    · rw [← owedIn_filter, List.isEmpty_iff.mp h]
      rfl
    · simpa [hg] using h j _ hp
  · intro h
    refine .inr fun j x hx => ?_
    rcases x with _ | ad
    · rfl
    · cases hg : sfind e.got j with
      | some v => simp
      | none => simp [h j ad hx hg]

end Sys2Proof.Machine
end

section
/-! SUPPORT. The loads of L (spec 07, R172 to R176, R180, R181): the points of a window, the entry that a load takes, and each instruction by the
points and the map that it gives. -/

namespace Sys2Proof.Machine

open Sys2Proof

-- Points and addresses (R172, R174) -----------------------------------------------------------------------------------------------------

theorem foldl_add_eq_sum {α : Type} (f : α → Int) (l : List α) (z : Int) : l.foldl (fun a i => a + f i) z = z + (l.map f).sum := by
  induction l generalizing z with
  | nil => simp
  | cons x l ih => rw [List.foldl_cons, ih, List.map_cons, List.sum_cons, Int.add_assoc]

theorem Desc.addr_eq (d : Desc) (p : Pt) :
    d.addr p = (d.base : Int) + d.size * ((List.range d.rank).map fun i => p.get i * d.str.get i).sum := by
  rw [Desc.addr, foldl_add_eq_sum, Int.zero_add]

/-- The point of a window at position j: its row and its column, each by a step. -/
def Desc.winPt (d : Desc) (o : Pt) (st : Int × Int) (j : Nat) : Pt :=
  Q4.mk' fun i => o.get i + (if i = d.ra then ((j / 2 ^ d.lw : Nat) : Int) * st.1 else 0) + (if i = d.qa then ((j % 2 ^ d.lw : Nat) : Int) * st.2 else 0)

theorem Desc.window_eq (d : Desc) (o : Pt) (st : Int × Int) : d.window o st = (List.range d.n).map (d.winPt o st) := by
  simp only [Desc.window, Nat.shiftRight_eq_div_pow]
  rfl

theorem mapIdx_map_range {α β : Type} (n : Nat) (f : Nat → α) (g : Nat → α → β) :
    ((List.range n).map f).mapIdx g = (List.range n).map fun j => g j (f j) := by
  refine List.ext_getElem? fun j => ?_
  simp only [List.getElem?_mapIdx, List.getElem?_map, Option.map_map]
  rcases Nat.lt_or_ge j n with hj | hj
  · rw [List.getElem?_range hj]
    rfl
  · rw [List.getElem?_eq_none (by simpa using hj)]
    rfl

/-- The point of a block at position j: the row and column entries of its row, `off` bytes into an entry of `step` bytes. -/
def State.blockPt (s : State) (q : SeqId) (d : Desc) (o : Pt) (list step off j : Nat) : Pt :=
  (o.set d.ra (signed 32 (s.read q (list + (step * (j / 2 ^ d.lw) + off)) 4))).set d.qa
    (signed 32 (s.read q (list + (step * (j / 2 ^ d.lw) + off + 4)) 4) + ((j % 2 ^ d.lw : Nat) : Int))

theorem State.blocked_eq (s : State) (q : SeqId) (d : Desc) (o : Pt) (list step off : Nat) :
    s.blocked q d o list step off = (List.range d.n).map (s.blockPt q d o list step off) := by
  refine List.map_congr_left fun j _ => ?_
  simp only [State.blockPt, Nat.shiftRight_eq_div_pow, Nat.add_assoc]

-- The entry of a load (R173, R176, R180) -------------------------------------------------------------------------------------------------

/-- The fill value stands at a point, for want of an element. -/
def Desc.fills (d : Desc) (p : Pt) : Bool := d.bck && !d.inBounds p

/-- The entry that a load of these points takes: the address of each that is read. -/
def State.newEntry (s : State) (tok : Tok) (d : Desc) (map : MapV) (plan : List (Option Nat)) : LEntry :=
  { id := s.ids, pc := s.pc s.cur, present := false, val := 0, map := map, width := d.fmt.width, plan := plan, fill := d.fillVal, got := []
    pa := lsPa .l tok }

/-- L's load queue with a new entry. -/
def State.withEntry (s : State) (e : LEntry) : State :=
  ({ s with ids := s.ids + 1 } : State).setCore s.cur.unit { s.core s.cur.unit with lq := (s.core s.cur.unit).lq ++ [e] }

theorem State.withEntry_slu (s : State) (e : LEntry) : ((s.withEntry e).core s.cur.unit).slu = (s.core s.cur.unit).slu := by
  rw [State.withEntry, State.core_setCore]

section
variable (s : State) (tok : Tok) (d : Desc) (map : MapV)

theorem loadEntry_takes {ps : List LPos} (h : ∀ a, some a ∈ d.reads ps → s.readElem s.cur a d.size = none) :
    loadEntry s s.cur tok d map ps =
      .done (s.withEntry (s.newEntry tok d map ((d.reads ps).map (·.map Int.toNat)))) (.next (s.pc s.cur)) true := by
  have hc : s.loadTrap s.cur d (d.reads ps) = none := firstSome_eq_none fun x hx => by
    cases x with
    | none => rfl
    | some a => exact h a hx
  rw [loadEntry]
  simp only [hc]
  rfl

theorem loadEntry_traps {ps : List LPos} {n : Nat} {a : Int} {tr : Trap} (hn : (d.reads ps)[n]? = some (some a))
    (ha : s.readElem s.cur a d.size = some tr) (hb : ∀ b, some b ∈ (d.reads ps).take n → s.readElem s.cur b d.size = none) :
    loadEntry s s.cur tok d map ps = .trap tr d.size := by
  have hc : s.loadTrap s.cur d (d.reads ps) = some tr := firstSome_at hn ha fun x hx => by
    cases x with
    | none => rfl
    | some b => exact hb b hx
  rw [loadEntry]
  simp only [hc]

/-- What a load of points with their addresses does: it takes its entry, traps at the first failing point, or finds the queue full. -/
def LoadsEntry (i : Instr) (ps : List (Pt × Int)) : Prop :=
  ((s.core s.cur.unit).lq.length < 32 → (∀ x ∈ ps, d.fills x.1 = true ∨ s.readElem s.cur x.2 d.size = none) → ∃ t e, exec i s = .next t ∧
    LsDone tok true (s.withEntry e) t s.cur (.next (s.pc s.cur)) ∧
    e = s.newEntry tok d map (ps.map fun x => if d.fills x.1 then none else some x.2.toNat)) ∧
  ((s.core s.cur.unit).lq.length < 32 → ∀ n x tr, ps[n]? = some x → d.fills x.1 = false → s.readElem s.cur x.2 d.size = some tr →
    (∀ y ∈ ps.take n, d.fills y.1 = true ∨ s.readElem s.cur y.2 d.size = none) → exec i s = .next (s.trapElem s.cur tr d.size)) ∧
  ((s.core s.cur.unit).lq.length ≥ 32 → exec i s = .next s)

theorem Desc.reads_some (ps : List (Pt × Int)) : d.reads (ps.map some) = ps.map fun x => if d.fills x.1 then none else some x.2 := by
  rw [Desc.reads, List.map_map]
  rfl

variable {s tok d map}

/-- A point that is read passes its check. -/
theorem readElem_of_fills_or {ps : List (Pt × Int)} (h : ∀ x ∈ ps, d.fills x.1 = true ∨ s.readElem s.cur x.2 d.size = none) (a : Int)
    (ha : some a ∈ ps.map fun x => if d.fills x.1 then none else some x.2) : s.readElem s.cur a d.size = none := by
  obtain ⟨x, hx, hxa⟩ := List.mem_map.mp ha
  rcases h x hx with hf | hr
  · simp [hf] at hxa
  · split at hxa
    · cases hxa
    · cases hxa
      exact hr

theorem loadsEntry_of_lsRun {i : Instr} {f : SeqId → LsOut} {ps : List (Pt × Int)} (h : LsReady s .l tok) (hi : exec i s = lsRun .l tok s f)
    (hfull : (s.core s.cur.unit).lq.length ≥ 32 → f s.cur = .stall)
    (hroom : (s.core s.cur.unit).lq.length < 32 → f s.cur = loadEntry s s.cur tok d map (ps.map some)) : LoadsEntry s tok d map i ps := by
  refine ⟨fun hl hps => ?_, fun hl n x tr hn hf hr hb => ?_, fun hl => hi.trans (lsRun_stalls h (hfull hl))⟩
  · have hdone := (hroom hl).trans (loadEntry_takes s tok d map fun a ha => readElem_of_fills_or hps a (by rwa [Desc.reads_some] at ha))
    obtain ⟨t, ht, hd⟩ := lsRun_completes h rfl hdone (State.withEntry_slu ..)
    refine ⟨t, _, hi.trans ht, hd, ?_⟩
    rw [Desc.reads_some, List.map_map]
    congr 1
    refine List.map_congr_left fun x _ => ?_
    simp only [Function.comp_apply]
    split <;> rfl
  · refine hi.trans (lsRun_traps h ((hroom hl).trans (loadEntry_traps s tok d map (n := n) ?_ hr fun b hb' => ?_)))
    · simp [Desc.reads_some, hn, hf]
    · rw [Desc.reads_some, ← List.map_take] at hb'
      exact readElem_of_fills_or hb b hb'

end

-- Each instruction (R180, R181) ------------------------------------------------------------------------------------------------------------

/-- The points of a function of the position, with their addresses. -/
def Desc.points (d : Desc) (f : Nat → Pt) : List (Pt × Int) := (List.range d.n).map fun j => (f j, d.addr (f j))

theorem points_of_map (d : Desc) (f : Nat → Pt) : ((List.range d.n).map f).map (fun c => (c, d.addr c)) = d.points f := by
  rw [List.map_map]
  rfl

theorem Core.lqFull_eq {c : Core} : c.lqFull = decide (c.lq.length ≥ 32) := rfl

section
variable {s : State} {tok : Tok} {d : Desc} {desc : BitVec 10} (h : LsReady s .l tok) (hd : s.desc s.cur desc.toNat = .ok d)
include h hd

/-- A load of a window takes the points of its steps. -/
theorem loadsEntry_window {i : Instr} {a : BitVec 4} {step : SeqId → Desc → Int × Int} (hi : exec i s = windowLoad tok a desc s step) :
    LoadsEntry s tok d (d.windowMap (s.origin s.cur a.toNat d.rank) (step s.cur d)) i
      (d.points (d.winPt (s.origin s.cur a.toNat d.rank) (step s.cur d))) := by
  refine loadsEntry_of_lsRun h hi (fun hl => ?_) fun hl => ?_
  · simp only [Core.lqFull_eq, hl, decide_true, if_true]
  · simp only [Core.lqFull_eq, Nat.not_le.mpr hl, decide_false, Bool.false_eq_true, if_false, hd, Desc.window_eq, Desc.points, List.map_map]
    rfl

section
variable {i : Instr} {b : BitVec 4} {bad : Desc → Bool} {words : Desc → Nat → List (Nat × Nat)} {ps : SeqId → Desc → Nat → List (Pt × Int)}
  (hi : exec i s = gather tok b desc s bad words ps)
include hi

theorem gather_bad (hl : (s.core s.cur.unit).lq.length < 32) (hb : bad d = true) :
    exec i s = .next (s.trapElem s.cur { code := 6 } 8) := by
  refine hi.trans (lsRun_traps h ?_)
  simp only [Core.lqFull_eq, Nat.not_le.mpr hl, decide_false, Bool.false_eq_true, if_false, hd, hb, if_true]
  rfl

variable (hb : bad d = false) (hw : ∀ w ∈ words d (s.getA s.cur b.toNat).toNat, s.readElem s.cur (w.1 : Int) w.2 = none)
include hb hw

/-- A gather whose list an earlier load has yet to read waits. -/
theorem gather_waits (hl : (s.core s.cur.unit).lq.length < 32) (ho : s.owedWords s.cur (words d (s.getA s.cur b.toNat).toNat) = true) :
    exec i s = .next s := by
  refine hi.trans (lsRun_stalls h ?_)
  simp only [Core.lqFull_eq, Nat.not_le.mpr hl, decide_false, Bool.false_eq_true, if_false, hd, hb, State.listCheck_none hw, ho, if_true]

theorem loadsEntry_gather (ho : s.owedWords s.cur (words d (s.getA s.cur b.toNat).toNat) = false) {qs : List (Pt × Int)}
    (hq : ps s.cur d (s.getA s.cur b.toNat).toNat = qs) : LoadsEntry s tok d (d.listMap (qs.map fun x => x.1.coord)) i qs := by
  refine loadsEntry_of_lsRun h hi (fun hl => ?_) fun hl => ?_
  · simp only [Core.lqFull_eq, hl, decide_true, if_true]
  · simp only [Core.lqFull_eq, Nat.not_le.mpr hl, decide_false, Bool.false_eq_true, if_false, hd, hb, State.listCheck_none hw, ho, hq]

end

end

section
variable (s : State) (tok : Tok) (a b : BitVec 4) (desc : BitVec 10) (ix : BitVec 2)

theorem exec_ld : exec (.ld tok a desc) s = windowLoad tok a desc s fun _ d => d.unitSteps := rfl
theorem exec_lds : exec (.lds tok a b desc) s = windowLoad tok a desc s fun q _ => stepsOf (s.getA q b.toNat) := rfl

theorem exec_ldi : exec (.ldi tok a b desc ix) s = gather tok b desc s (fun d => decide (ix.toNat ≥ d.rank)) Desc.indexWords
    fun q d list => (s.indexed q d (s.origin q a.toNat d.rank) list ix.toNat).map fun c => (c, d.addr c) := rfl

theorem exec_lgb : exec (.lgb tok a b desc) s = gather tok b desc s (fun d => d.ra == d.qa) Desc.rowWords
    fun q d list => (s.blocked q d (s.origin q a.toNat d.rank) list 8 0).map fun c => (c, d.addr c) := rfl

theorem exec_lrrd : exec (.lrrd tok a b desc) s = gather tok b desc s (fun d => d.ra == d.qa) Desc.ptrWords
    fun q d list => (s.blocked q d (s.origin q a.toNat d.rank) list 16 8).mapIdx fun j c =>
      (c, (s.read q (list + 16 * (j >>> d.lw)) 8 : Int) + (d.size : Int) * ((j % 2 ^ d.lw : Nat) : Int)) := rfl

end

end Sys2Proof.Machine
end

section
/-! SUPPORT. The arrival of a load (spec 07, R176; 12, R288, R289; 21, R401): an element by itself, an entry as a whole, and an entry that is lost. -/

namespace Sys2Proof.Machine

open Sys2Proof

-- The value of an entry (R43, R176) ------------------------------------------------------------------------------------------------------

/-- Codes of one width in one number, the first lowest. -/
def joined (w : Nat) (xs : List Nat) : Nat := xs.reverse.foldl (fun acc v => acc * 2 ^ w + v) 0

theorem joined_cons (w x : Nat) (xs : List Nat) : joined w (x :: xs) = joined w xs * 2 ^ w + x := by
  rw [joined, List.reverse_cons, List.foldl_append]
  rfl

section
variable {w : Nat} {xs : List Nat} (h : ∀ x ∈ xs, x < 2 ^ w)
include h

theorem joined_lt : joined w xs < 2 ^ (w * xs.length) := by
  induction xs with
  | nil => simp [joined]
  | cons x xs ih =>
    have hx := h x (List.mem_cons_self ..)
    have hxs := ih fun y hy => h y (List.mem_cons_of_mem _ hy)
    rw [joined_cons, List.length_cons, Nat.mul_succ, Nat.pow_add]
    calc joined w xs * 2 ^ w + x
        < (joined w xs + 1) * 2 ^ w := by rw [Nat.succ_mul]; omega
      _ ≤ 2 ^ (w * xs.length) * 2 ^ w := Nat.mul_le_mul_right _ hxs

theorem joined_digit {j x : Nat} (hj : xs[j]? = some x) : joined w xs / 2 ^ (w * j) % 2 ^ w = x := by
  induction xs generalizing j with
  | nil => simp at hj
  | cons y xs ih =>
    have hy := h y (List.mem_cons_self ..)
    rw [joined_cons]
    cases j with
    | zero =>
      obtain rfl : y = x := by simpa using hj
      rw [Nat.mul_zero, Nat.pow_zero, Nat.div_one, Nat.mul_add_mod_self_right, Nat.mod_eq_of_lt hy]
    | succ j =>
      rw [Nat.mul_succ, Nat.add_comm (w * j), Nat.pow_add, ← Nat.div_div_eq_div_mul, Nat.mul_comm, Nat.mul_add_div (Nat.two_pow_pos w),
        Nat.div_eq_of_lt hy, Nat.add_zero]
      exact ih (fun z hz => h z (List.mem_cons_of_mem _ hz)) (by simpa using hj)

end

theorem extract_ofNat {n x : Nat} (h : x < 2 ^ n) (lo w : Nat) : ((BitVec.ofNat n x).extractLsb' lo w).toNat = x / 2 ^ lo % 2 ^ w := by
  rw [BitVec.extractLsb'_toNat, BitVec.toNat_ofNat, Nat.mod_eq_of_lt h, Nat.shiftRight_eq_div_pow]

/-- The value at a position of an entry: what has arrived, or what is read now, or the fill value. -/
def State.entryElem (s : State) (q : SeqId) (e : LEntry) (j : Nat) : Option Nat → Nat
  | some a => ((sfind e.got j).getD (s.read q a (e.width / 8))) % 2 ^ e.width
  | none => e.fill % 2 ^ e.width

theorem State.entryVal_eq (s : State) (q : SeqId) (e : LEntry) :
    s.entryVal q e = BitVec.ofNat 2048 (joined e.width (e.plan.mapIdx (s.entryElem q e))) := by
  unfold State.entryVal joined
  congr 3

theorem State.entryElem_lt (s : State) (q : SeqId) (e : LEntry) (j : Nat) (p : Option Nat) : s.entryElem q e j p < 2 ^ e.width := by
  cases p <;> exact Nat.mod_lt _ (Nat.two_pow_pos _)

theorem State.entryVal_elem (s : State) (q : SeqId) {e : LEntry} (hw : e.plan.length * e.width = 2048) {j : Nat} {p : Option Nat}
    (hj : e.plan[j]? = some p) : ((s.entryVal q e).extractLsb' (e.width * j) e.width).toNat = s.entryElem q e j p := by
  have hlt : ∀ x ∈ e.plan.mapIdx (s.entryElem q e), x < 2 ^ e.width := fun x hx => by
    obtain ⟨i, hi, rfl⟩ := List.mem_mapIdx.mp hx
    exact s.entryElem_lt q e i _
  have htop := joined_lt hlt
  rw [List.length_mapIdx, Nat.mul_comm, hw] at htop
  rw [State.entryVal_eq, extract_ofNat htop]
  exact joined_digit hlt (by rw [List.getElem?_mapIdx, hj]; rfl)

-- One entry of the load queue ----------------------------------------------------------------------------------------------------------------

/-- An earlier entry, once a later load of L has read ranges. -/
def LEntry.fixAll (w : List (Nat × Nat)) (x : LEntry) : LEntry := w.foldl (fun y z => y.fix z.1 z.2) x

theorem LEntry.fix_id (x : LEntry) (a n : Nat) : (x.fix a n).id = x.id := by
  unfold LEntry.fix
  split <;> rfl

theorem LEntry.fixAll_id (w : List (Nat × Nat)) (x : LEntry) : (x.fixAll w).id = x.id := by
  induction w generalizing x with
  | nil => rfl
  | cons z w ih => exact (ih (x.fix z.1 z.2)).trans (x.fix_id z.1 z.2)

theorem Core.fixLoads_split {c : Core} {l r : List LEntry} (h : c.lq = l ++ r) (w : List (Nat × Nat)) :
    c.fixLoads l.length w = { c with lq := l.map (LEntry.fixAll w) ++ r } := by
  have hl : l.mapIdx (fun i e => if i < l.length then e.fixAll w else e) = l.map (LEntry.fixAll w) := by
    refine List.ext_getElem (by simp) fun i hi _ => ?_
    rw [List.length_mapIdx] at hi
    simp [hi]
  have hr : r.mapIdx (fun i e => if i + l.length < l.length then e.fixAll w else e) = r := by
    refine List.ext_getElem (by simp) fun i hi _ => ?_
    simp
  unfold Core.fixLoads
  rw [h, List.mapIdx_append]
  congr 2

section
variable {l r : List LEntry} {e : LEntry} (hid : ∀ x ∈ l ++ r, x.id ≠ e.id)
include hid

/-- An update of the entry with an id touches no other. -/
theorem map_entry (w : List (Nat × Nat)) (g : LEntry → LEntry) :
    (l.map (LEntry.fixAll w) ++ e :: r).map (fun x => if x.id = e.id then g x else x) = l.map (LEntry.fixAll w) ++ g e :: r := by
  rw [List.map_append, List.map_map, List.map_cons, if_pos rfl]
  congr 1
  · refine List.map_congr_left fun x hx => ?_
    rw [Function.comp_apply, if_neg (by rw [LEntry.fixAll_id]; exact hid x (List.mem_append_left _ hx))]
  · rw [List.map_congr_left fun x hx => if_neg (hid x (List.mem_append_right _ hx)), List.map_id']

theorem find_entry (he : e.present = false) : (l ++ e :: r).find? (fun x => x.id == e.id && !x.present) = some e := by
  rw [List.find?_append, List.find?_eq_none.mpr fun x hx => by simp [hid x (List.mem_append_left _ hx)]]
  simp [he]

theorem findIdx_entry : (l ++ e :: r).findIdx (fun x => x.id == e.id) = l.length := by
  rw [List.findIdx_append, List.findIdx_eq_length_of_false fun x hx => by simpa using hid x (List.mem_append_left _ hx)]
  simp [List.findIdx_cons]

end

theorem State.observeEntry_rest (s : State) (u : Nat) (e : LEntry) :
    s.observeEntry u e = { s with transit := (s.observeEntry u e).transit } := by
  unfold State.observeEntry
  split <;> rfl

theorem State.byte_observe (s : State) (p : SeqId) (f : Store → Bool) (q : SeqId) (a : Nat) : (s.observe p f).byte q a = s.byte q a :=
  s.byte_mark p _ q a

theorem State.byte_observeEntry (s : State) (u : Nat) (e : LEntry) (q : SeqId) (a : Nat) : (s.observeEntry u e).byte q a = s.byte q a := by
  unfold State.observeEntry
  split
  · rfl
  · exact s.byte_observe _ _ q a

theorem State.lq_at {s : State} {u : Nat} {l r : List LEntry} {e : LEntry} (hq : (s.core u).lq = l ++ e :: r) :
    (s.core u).lq[l.length]? = some e := by
  rw [hq, List.getElem?_append_right le_rfl, Nat.sub_self, List.getElem?_cons_zero]

theorem State.take_lq {s : State} {u : Nat} {l r : List LEntry} (hq : (s.core u).lq = l ++ r) : (s.core u).lq.take l.length = l := by
  rw [hq, List.take_left]

section
variable {s : State} {u : Nat} {l r : List LEntry} {e : LEntry} (hq : (s.core u).lq = l ++ e :: r) (hid : ∀ x ∈ l ++ r, x.id ≠ e.id)
include hq hid

theorem State.fillEntry_split (he : e.present = false) : s.fillEntry u e.id = ({ s with transit := (s.observeEntry u e).transit } : State).setCore u
    ({ s.core u with lq := l.map (LEntry.fixAll e.ranges) ++ { e with present := true, val := s.entryVal { unit := u, kind := .l } e } :: r }.pushOpt
      e.pa (s.tells { unit := u, kind := .l } 1)) := by
  simp only [State.fillEntry, hq, find_entry hid he, findIdx_entry hid]
  rw [Core.fixLoads_split hq]
  simp only [map_entry hid]
  rw [State.observeEntry_rest]

end

-- The events (R176, R288, R401) -------------------------------------------------------------------------------------------------------------

theorem exec_lqEntryPresent (s : State) : exec .lqEntryPresent s = execLqEntryPresent s := rfl

/-- An entry that is present has nothing to wait for. -/
theorem lqEntryPresent_idle {s : State} {e : LEntry} (h : (s.core s.ev.i).lq[s.ev.j]? = some e) (he : e.present = true) :
    exec .lqEntryPresent s = .next s := by
  rw [exec_lqEntryPresent, execLqEntryPresent]
  simp only [h, he, Bool.true_or, if_true]

section
variable {s : State} {l r : List LEntry} {e : LEntry} (hq : (s.core s.ev.i).lq = l ++ e :: r) (he : e.present = false)
  (hf : (s.ctl { unit := s.ev.i, kind := .l }).flows 1 = true) (hj : s.ev.j = l.length)
include hq he hf hj

theorem lqEntryPresent_reached (hlost : s.entryLost s.ev.i e = false) :
    exec .lqEntryPresent s = .next (if e.ready l then s.fillEntry s.ev.i e.id else s) := by
  rw [exec_lqEntryPresent, execLqEntryPresent]
  simp only [hj, State.lq_at hq, he, show (s.ctl { unit := s.ev.i, kind := .k }).flows 1 = true from hf, hlost, State.take_lq hq, Bool.not_true,
    Bool.or_false, Bool.false_eq_true, if_false, Bool.not_false, if_true]

/-- The oldest entry, on a module that L no longer reaches, is a trap at its load. -/
theorem lqEntryPresent_lost (hl : l = []) (hlost : s.entryLost s.ev.i e = true) : ∃ ad, some ad ∈ e.plan ∧
    (s.present (modOf (ad / 2 ^ 20)) = false ∨ s.reachable (modOf s.ev.i) (modOf (ad / 2 ^ 20)) = false) ∧
    exec .lqEntryPresent s = .next ((s.setCore s.ev.i { s.core s.ev.i with lheld := some (e.id, e.pc, (s.core s.ev.i).lpos) }).stopAt
      { unit := s.ev.i, kind := .l } { code := 5, addr := ad } (BitVec.ofNat 64 e.pc)) := by
  obtain ⟨p, hp, ad, had, hfirst⟩ := firstSome_isSome (l := e.plan)
    (f := fun p => p.filter fun a => !s.reachable (modOf s.ev.i) (modOf (a / 2 ^ 20)) || !s.present (modOf (a / 2 ^ 20))) (by
      obtain ⟨p, hp, hx⟩ := List.any_eq_true.mp hlost
      refine ⟨p, hp, ?_⟩
      cases p with
      | none => cases hx
      | some a =>
        have hoff : (!s.present (modOf (a / 2 ^ 20)) || !s.reachable (modOf s.ev.i) (modOf (a / 2 ^ 20))) = true := hx
        rw [Option.filter_some, if_pos (by rw [Bool.or_comm]; exact hoff)]
        rfl)
  obtain ⟨rfl, hbad⟩ := Option.filter_eq_some_iff.mp had
  refine ⟨ad, hp, ?_, ?_⟩
  · simpa [or_comm] using hbad
  · subst hl
    have hat : (s.core s.ev.i).lq[0]? = some e := State.lq_at hq
    have h0 : s.ev.j = 0 := hj
    rw [exec_lqEntryPresent, execLqEntryPresent]
    simp only [h0, hat, he, show (s.ctl { unit := s.ev.i, kind := .k }).flows 1 = true from hf, hlost, Bool.not_true,
      Bool.or_false, Bool.false_eq_true, if_false, List.take_zero, List.foldl_nil, hfirst]
    rfl

end

section
variable {s : State} {u : Nat} {l r : List LEntry} {e : LEntry} {j ad : Nat} (hq : (s.core u).lq = l ++ e :: r)
  (he : e.present = false) (hf : (s.ctl { unit := u, kind := .l }).flows 1 = true) (hlost : s.entryLost u e = false)
  (hp : e.plan[j]? = some (some ad)) (hg : sfind e.got j = none)
include hq he hf hlost hp hg

theorem State.arriveElement_eq : s.arriveElement u l.length j = if owedIn l ad (e.width / 8) then s else
    (s.observe { unit := u, kind := .l } fun st => st.inRange ad (e.width / 8)).setCore u
      (let c := (s.core u).fixLoads l.length [(ad, e.width / 8)]
       { c with lq := c.lq.map fun x => if x.id = e.id then { x with got := sset x.got j (s.read { unit := u, kind := .l } ad (e.width / 8)) } else x }) := by
  unfold State.arriveElement
  simp only [State.lq_at hq, hp, he, show (s.ctl { unit := u, kind := .k }).flows 1 = true from hf, hlost, hg, State.take_lq hq, Bool.not_true,
    Bool.or_false, Bool.false_or, Option.isSome_none]

theorem State.arriveElement_split (hid : ∀ x ∈ l ++ r, x.id ≠ e.id) (ho : owedIn l ad (e.width / 8) = false) :
    s.arriveElement u l.length j =
      ({ s with transit := (s.observe { unit := u, kind := .l } fun st => st.inRange ad (e.width / 8)).transit } : State).setCore u
        { s.core u with lq := l.map (LEntry.fixAll [(ad, e.width / 8)]) ++
          { e with got := sset e.got j (s.read { unit := u, kind := .l } ad (e.width / 8)) } :: r } := by
  rw [State.arriveElement_eq hq he hf hlost hp hg, ho, Core.fixLoads_split hq]
  simp only [map_entry hid, Bool.false_eq_true, if_false]
  rfl

end

theorem step_element {s₀ s : State} {u j i : Nat} (h : s₀.advance = (.element u j i, s)) : step s₀ = .next (s.arriveElement u j i) := by
  rw [step, h]

/-- Settles O44. A load takes the points of its instruction, a gather once its list is read; an element and an entry arrive unless an earlier load
has yet to read their bytes. -/
theorem loads : Obligations.Loads := by
  unfold Obligations.Loads
  refine ⟨?issue, ?arrive, fun s e h he => lqEntryPresent_idle h he⟩
  case issue =>
    intro s tok a b desc ix d q c o list index row col addr win plain cds block lgbPt lrrdPt xs ldiPt rs out owed takes listOk gathers h hd
    have hplain : ∀ f, plain f = d.points f := fun f => by
      simp only [plain, Desc.points, Desc.addr_eq, addr]
    have hcds : ∀ f, cds f = d.listMap ((d.points f).map fun x => x.1.coord) := fun f => by
      rw [Desc.points, List.map_map]
      rfl
    have gathersOf : ∀ {i bad words ps} (qs : List (Pt × Int)), exec i s = gather tok b desc s bad words ps → bad d = false →
        ps q d list = qs → gathers i (words d list) qs (d.listMap (qs.map fun x => x.1.coord)) := by
      intro i bad words ps qs hi hb hq
      refine ⟨fun hw ho => ?_, fun hl hw ho => ?_⟩
      · exact loadsEntry_gather h hd hi hb hw (Bool.eq_false_iff.mpr fun hc => ho ((State.owedWords_iff ..).mp hc)) hq
      · exact gather_waits h hd hi hb hw hl ((State.owedWords_iff ..).mpr ho)
    have hld := loadsEntry_window h hd (exec_ld s tok a desc)
    have hlds := loadsEntry_window h hd (exec_lds s tok a b desc)
    simp only [hplain, hcds]
    refine ⟨hld, hlds, fun hix => ?ldi, fun hl hix => gather_bad h hd (exec_ldi s tok a b desc ix) hl (by simpa using hix), fun hne => ?lgb,
      fun hne => ?lrrd, fun hl he => ⟨gather_bad h hd (exec_lgb s tok a b desc) hl (by simpa using he),
        gather_bad h hd (exec_lrrd s tok a b desc) hl (by simpa using he)⟩⟩
    case ldi => exact gathersOf _ (exec_ldi s tok a b desc ix) (by simpa using hix) (points_of_map d _)
    case lgb =>
      refine gathersOf _ (exec_lgb s tok a b desc) (by simpa using hne) ?_
      rw [State.blocked_eq]
      exact points_of_map d _
    case lrrd =>
      have hxs := gathersOf xs (exec_lrrd s tok a b desc) (by simpa using hne) (by
        rw [State.blocked_eq, mapIdx_map_range]
        simp only [Nat.shiftRight_eq_div_pow]
        rfl)
      rw [List.map_map] at hxs
      rwa [Desc.points, List.map_map]
  case arrive =>
    intro s e l r u q c fixed value owed hq hid he hf
    have howed : ∀ ad, owed ad ↔ owedIn l ad (e.width / 8) = true := fun ad => (owedIn_iff l ad (e.width / 8)).symm
    refine ⟨fun hj hlost => ⟨?waits, ?fills⟩, fun hj hl hlost => lqEntryPresent_lost hq he hf hj hl hlost, ?element⟩
    case waits =>
      rintro ⟨j, ad, hp, hg, ho⟩
      have hready : e.ready l = false := Bool.eq_false_iff.mpr fun hr => by
        have := (LEntry.ready_iff e l).mp hr j ad hp hg
        rw [(howed ad).mp ho] at this
        cases this
      rw [lqEntryPresent_reached hq he hf hj hlost, hready]
      rfl
    case fills =>
      intro hno _ hw
      have hready : e.ready l = true := (LEntry.ready_iff e l).mpr fun j ad hp hg =>
        Bool.eq_false_iff.mpr fun ho => hno j ad hp hg ((howed ad).mpr ho)
      refine ⟨s.fillEntry u e.id, s.entryVal q e, ?_, fun r' a => ?_, ?_, fun j x hx => ?_⟩
      · rw [lqEntryPresent_reached hq he hf hj hlost, hready]
        rfl
      · rw [State.fillEntry_split hq hid he]
        exact (congrArg (fun t : State => t.byte r' a) (s.observeEntry_rest u e)).symm.trans (s.byte_observeEntry u e r' a)
      · rw [State.fillEntry_split hq hid he]
        rfl
      · rw [State.entryVal_elem s q hw hx]
        cases x <;> rfl
    case element =>
      intro s₀ j ad hs hp hlost hg
      refine ⟨fun ho => ?_, fun ho => ⟨_, step_element hs, ?_, ?_⟩⟩
      · rw [step_element hs, State.arriveElement_eq hq he hf hlost hp hg, (howed ad).mp ho]
        rfl
      · rw [State.arriveElement_split hq he hf hlost hp hg hid (Bool.eq_false_iff.mpr fun h => ho ((howed ad).mpr h))]
        exact fun r' a => s.byte_observe _ _ r' a
      · rw [State.arriveElement_split hq he hf hlost hp hg hid (Bool.eq_false_iff.mpr fun h => ho ((howed ad).mpr h))]
        rfl

end Sys2Proof.Machine
end

section
/-! SUPPORT. The fibre cursors of L and LMARK (spec 07, R182 to R184, R190). -/

namespace Sys2Proof.Machine

open Sys2Proof

-- The header of a fibre (R182) -----------------------------------------------------------------------------------------------------------

theorem State.read_lt (s : State) (q : SeqId) (a n : Nat) : s.read q a n < 256 ^ n := by
  have := leNat_lt (s.bytes q a n)
  rwa [State.bytes, List.length_map, length_span] at this

theorem State.words_getD (s : State) (q : SeqId) (a : Nat) {n i : Nat} (hi : i < n) :
    ((s.words q a n).getD i 0).toNat = s.read q (a + 8 * i) 8 := by
  have hr : s.read q (a + 8 * i) 8 < 2 ^ 64 := s.read_lt q _ 8
  simp only [State.words, List.getD_eq_getElem?_getD, List.getElem?_map, List.getElem?_range hi, Option.map_some, Option.getD_some,
    BitVec.toNat_ofNat, Nat.mod_eq_of_lt hr]

/-- R183 accepts the header at an address. -/
def State.headerOk (s : State) (q : SeqId) (ea rank : Nat) : Prop :=
  let w (i : Nat) : Nat := s.read q (ea + 8 * i) 8
  w 2 / 2 ^ 34 = 0 ∧ w 5 = 0 ∧ w 6 = 0 ∧ w 7 = 0 ∧ w 2 / 2 ^ 32 % 4 < rank

/-- The cursor that the header at an address opens. -/
def State.header (s : State) (q : SeqId) (ea desc : Nat) : Fibre :=
  let w (i : Nat) : Nat := s.read q (ea + 8 * i) 8
  { st := if w 2 % 2 ^ 32 = 0 then 2 else 1, desc := desc, idx := w 0, val := w 1, cnt := w 2 % 2 ^ 32, fa := w 2 / 2 ^ 32 % 4
    o := ⟨BitVec.ofNat 32 (w 3), BitVec.ofNat 32 (w 3 / 2 ^ 32), BitVec.ofNat 32 (w 4), BitVec.ofNat 32 (w 4 / 2 ^ 32)⟩, pos := 0 }

theorem field_top {x : Nat} (h : x < 2 ^ 64) : field x 34 30 = x / 2 ^ 34 := by
  rw [field_eq, Nat.mod_eq_of_lt (by omega)]

section
variable {s : State} {q : SeqId} {ea rank : Nat} (desc : Nat)

theorem fibreOf_ok (h : s.headerOk q ea rank) : fibreOf (s.words q ea 8) desc rank = some (s.header q ea desc) := by
  have h2 : s.read q (ea + 8 * 2) 8 < 2 ^ 64 := s.read_lt q _ 8
  obtain ⟨htop, h5, h6, h7, hfa⟩ := h
  unfold fibreOf
  simp (disch := decide) only [State.words_getD]
  rw [if_pos ⟨by rw [field_top h2]; exact htop, h5, h6, h7, by rw [field_eq]; exact hfa⟩, field_eq, field_eq, Nat.pow_zero, Nat.div_one]
  rfl

theorem fibreOf_bad (h : ¬s.headerOk q ea rank) : fibreOf (s.words q ea 8) desc rank = none := by
  have h2 : s.read q (ea + 8 * 2) 8 < 2 ^ 64 := s.read_lt q _ 8
  unfold fibreOf
  simp (disch := decide) only [State.words_getD]
  refine if_neg fun hc => h ?_
  obtain ⟨htop, h5, h6, h7, hfa⟩ := hc
  rw [field_top h2] at htop
  rw [field_eq] at hfa
  exact ⟨htop, h5, h6, h7, hfa⟩

end

-- The points of a fibre (R183) -------------------------------------------------------------------------------------------------------------

/-- The point of element k of a fibre. -/
def State.fibrePt (s : State) (q : SeqId) (f : Fibre) (k : Nat) : Pt :=
  (Q4.mk' fun a => (f.o.get a).toInt : Pt).set f.fa (signed 32 (s.read q (f.idx + 4 * k) 4))

/-- Element k is one that the cursor has yet to pass. -/
def Fibre.live (f : Fibre) (k : Nat) : Prop := f.st = 1 ∧ k < f.cnt

section
variable (s : State) (q : SeqId) (f : Fibre) (d : Desc)

theorem State.fibrePos_length : (s.fibrePos q f d).length = d.n := by rw [State.fibrePos, List.length_map, List.length_range]

variable {j : Nat} (hj : j < d.n)
include hj

theorem State.fibrePos_live (h : f.live (f.pos + j)) :
    (s.fibrePos q f d)[j]? = some (some (s.fibrePt q f (f.pos + j), (f.val : Int) + d.size * (f.pos + j : Nat))) := by
  rw [State.fibrePos, List.getElem?_map, List.getElem?_range hj, Option.map_some, Int.mul_comm (d.size : Int)]
  exact congrArg some (if_pos h)

theorem State.fibrePos_void (h : ¬f.live (f.pos + j)) : (s.fibrePos q f d)[j]? = some none := by
  rw [State.fibrePos, List.getElem?_map, List.getElem?_range hj, Option.map_some]
  exact congrArg some (if_neg h)

theorem State.fibreReads_live (h : f.live (f.pos + j)) : (d.reads (s.fibrePos q f d))[j]? =
    some (if d.fills (s.fibrePt q f (f.pos + j)) then none else some ((f.val : Int) + d.size * (f.pos + j : Nat))) := by
  rw [Desc.reads, List.getElem?_map, s.fibrePos_live q f d hj h]
  rfl

theorem State.fibreReads_void (h : ¬f.live (f.pos + j)) : (d.reads (s.fibrePos q f d))[j]? = some none := by
  rw [Desc.reads, List.getElem?_map, s.fibrePos_void q f d hj h]
  rfl

end

/-- An element that is read passes its check where each live element does, or holds the fill value. -/
theorem State.fibreReads_readable {s : State} {q : SeqId} {f : Fibre} {d : Desc} (h : ∀ j, j < d.n → f.live (f.pos + j) →
    d.fills (s.fibrePt q f (f.pos + j)) = true ∨ s.readElem q ((f.val : Int) + d.size * (f.pos + j : Nat)) d.size = none) (a : Int)
    (ha : some a ∈ d.reads (s.fibrePos q f d)) : s.readElem q a d.size = none := by
  obtain ⟨j, hja⟩ := List.mem_iff_getElem?.mp ha
  have hj : j < d.n := by
    have := (List.getElem?_eq_some_iff.mp hja).1
    rwa [Desc.reads, List.length_map, State.fibrePos_length] at this
  by_cases hlive : f.live (f.pos + j)
  · rw [State.fibreReads_live _ _ _ _ hj hlive] at hja
    rcases h j hj hlive with hf | hr
    · rw [hf] at hja
      cases hja
    · split at hja
      · cases hja
      · cases hja
        exact hr
  · rw [State.fibreReads_void _ _ _ _ hj hlive] at hja
    cases hja

/-- The coordinates that a point or a void position has in the map of an entry. -/
def LPos.coord : LPos → Coord
  | some x => x.1.coord
  | none => voidCoord

/-- The indices that FBNEXT reads. -/
def Fibre.indexWords (f : Fibre) (d : Desc) : List (Nat × Nat) :=
  listWords (f.idx + 4 * f.pos) (if f.st = 1 then min d.n (f.cnt - f.pos) else 0) 4 [(0, 4)]

theorem Fibre.indexWords_readable {s : State} {q : SeqId} {f : Fibre} {d : Desc}
    (h : ∀ j, j < d.n → f.live (f.pos + j) → s.readElem q ((f.idx + 4 * (f.pos + j) : Nat) : Int) 4 = none) :
    ∀ w ∈ f.indexWords d, s.readElem q (w.1 : Int) w.2 = none := by
  intro w hw
  simp only [Fibre.indexWords, listWords, List.mem_flatMap, List.mem_range, List.map_cons, List.map_nil, List.mem_singleton] at hw
  obtain ⟨j, hj, rfl⟩ := hw
  split at hj
  · next hst =>
    have hread := h j (by omega) ⟨hst, by omega⟩
    rwa [Nat.mul_add, ← Nat.add_assoc] at hread
  · omega

-- The instructions (R183, R184, R190) ----------------------------------------------------------------------------------------------------------

/-- The cursor after FBNEXT. -/
def Fibre.advanced (f : Fibre) (n : Nat) : Fibre :=
  if f.st = 1 then { f with pos := f.pos + n, st := if f.pos + n ≥ f.cnt then 2 else 1 } else f

section
variable (s : State) (tok : Tok) (fb : BitVec 3) (b m : BitVec 4) (desc : BitVec 10) (slot : BitVec 3) (line : BitVec 13)

theorem exec_fbopen : exec (.fbopen tok fb b desc) s = execFbopen tok fb b desc s := rfl
theorem exec_fbnext : exec (.fbnext tok fb) s = execFbnext tok fb s := rfl
theorem exec_fbend : exec (.fbend tok fb slot line) s = execFbend tok fb slot line s := rfl
theorem exec_fbclose : exec (.fbclose tok fb) s = execFbclose tok fb s := rfl
theorem exec_lmark : exec (.lmark tok m) s = execLmark tok m s := rfl

theorem State.setCursor_slu (q : SeqId) (n : Nat) (f : Fibre) : ((s.setCursor q n f).core q.unit).slu = (s.core q.unit).slu := by
  rw [State.setCursor, State.core_setCore]

variable {s tok} (h : LsReady s .l tok)
include h

theorem fbopen_traps {tr : Trap} (hc : s.recCheck s.cur (s.getA s.cur b.toNat).toNat 64 = some tr) :
    exec (.fbopen tok fb b desc) s = .next (s.trapElem s.cur tr 8) := by
  rw [exec_fbopen]
  refine lsRun_traps h ?_
  simp only [hc]

section
variable (hc : s.recCheck s.cur (s.getA s.cur b.toNat).toNat 64 = none) {d : Desc} (hd : s.desc s.cur desc.toNat = .ok d)
include hc hd

theorem fbopen_refuses (hg : ¬s.headerOk s.cur (s.getA s.cur b.toNat).toNat d.rank) :
    exec (.fbopen tok fb b desc) s = .next (s.trapElem s.cur { code := 6 } 8) := by
  rw [exec_fbopen]
  refine lsRun_traps h ?_
  simp only [hc, hd, fibreOf_bad _ hg]
  rfl

variable (hg : s.headerOk s.cur (s.getA s.cur b.toNat).toNat d.rank)
include hg

theorem fbopen_waits (ho : s.owedWords s.cur [((s.getA s.cur b.toNat).toNat, 64)] = true) : exec (.fbopen tok fb b desc) s = .next s := by
  rw [exec_fbopen]
  refine lsRun_stalls h ?_
  simp only [hc, hd, fibreOf_ok _ hg, ho, if_true]

theorem fbopen_opens (ho : s.owedWords s.cur [((s.getA s.cur b.toNat).toNat, 64)] = false) : ∃ t, exec (.fbopen tok fb b desc) s = .next t ∧
    LsDone tok false (s.setCursor s.cur fb.toNat (s.header s.cur (s.getA s.cur b.toNat).toNat desc.toNat)) t s.cur (.next (s.pc s.cur)) := by
  rw [exec_fbopen]
  refine lsRun_completes h rfl ?_ (s.setCursor_slu ..)
  simp only [hc, hd, fibreOf_ok _ hg, ho, Bool.false_eq_true, if_false]
  rfl

end

theorem fbclose_closes : ∃ t, exec (.fbclose tok fb) s = .next t ∧
    LsDone tok false (s.setCursor s.cur fb.toNat .closed) t s.cur (.next (s.pc s.cur)) := by
  rw [exec_fbclose]
  exact lsRun_completes h rfl rfl (s.setCursor_slu ..)

theorem lmark_waits (hk : (s.core s.cur.unit).smarks m.toNat ≤ sget 0 (s.core s.cur.unit).lmark m.toNat) :
    exec (.lmark tok m) s = .next s := by
  rw [exec_lmark]
  exact lsRun_stalls h (if_pos hk)

theorem lmark_passes (hk : (s.core s.cur.unit).smarks m.toNat > sget 0 (s.core s.cur.unit).lmark m.toNat) : ∃ t,
    exec (.lmark tok m) s = .next t ∧ LsDone tok false (s.setCore s.cur.unit { s.core s.cur.unit with
      lmark := sset (s.core s.cur.unit).lmark m.toNat (sget 0 (s.core s.cur.unit).lmark m.toNat + 1) }) t s.cur (.next (s.pc s.cur)) := by
  rw [exec_lmark]
  exact lsRun_completes h rfl (if_neg (Nat.not_le.mpr hk)) (by rw [State.core_setCore])

section
variable {f : Fibre} (hf : (s.core s.cur.unit).cursor fb.toNat = f)
include hf

/-- A closed cursor traps at FBNEXT and at FBEND. -/
theorem fbnext_closed (hst : f.st = 0) : exec (.fbnext tok fb) s = .next (s.trapElem s.cur { code := 16 } 8) := by
  rw [exec_fbnext]
  refine lsRun_traps h ?_
  simp only [hf, hst, if_true]
  rfl

theorem fbend_closed (hst : f.st = 0) : exec (.fbend tok fb slot line) s = .next (s.trapElem s.cur { code := 16 } 8) := by
  rw [exec_fbend]
  refine lsRun_traps h ?_
  simp only [hf, hst, if_true]
  rfl

variable (hst : f.st ≠ 0)
include hst

theorem fbend_branches : ∃ t, exec (.fbend tok fb slot line) s = .next t ∧ LsDone tok false s t s.cur
    (if f.st = 2 then .target (branchTarget (s.pc s.cur) slot line) (s.pc s.cur) else .next (s.pc s.cur)) := by
  rw [exec_fbend]
  refine lsRun_completes h rfl ?_ rfl
  simp only [hf, hst, if_false]
  rfl

theorem fbnext_full (hl : (s.core s.cur.unit).lq.length ≥ 32) : exec (.fbnext tok fb) s = .next s := by
  rw [exec_fbnext]
  refine lsRun_stalls h ?_
  simp only [hf, hst, if_false, Core.lqFull_eq, hl, decide_true, if_true]

variable (hl : (s.core s.cur.unit).lq.length < 32) {d : Desc} (hd : s.desc s.cur f.desc = .ok d)
  (hw : ∀ w ∈ f.indexWords d, s.readElem s.cur (w.1 : Int) w.2 = none)
include hl hd hw

theorem fbnext_waits (ho : s.owedWords s.cur (f.indexWords d) = true) : exec (.fbnext tok fb) s = .next s := by
  rw [exec_fbnext]
  refine lsRun_stalls h ?_
  have hc := State.listCheck_none hw
  unfold Fibre.indexWords at hc ho
  simp only [hf, hst, if_false, Core.lqFull_eq, Nat.not_le.mpr hl, decide_false, Bool.false_eq_true, hd, hc, ho, if_true]

theorem fbnext_takes (ho : s.owedWords s.cur (f.indexWords d) = false)
    (hr : ∀ a, some a ∈ d.reads (s.fibrePos s.cur f d) → s.readElem s.cur a d.size = none) : ∃ t, exec (.fbnext tok fb) s = .next t ∧
    LsDone tok true ((s.withEntry (s.newEntry tok d (d.listMap ((s.fibrePos s.cur f d).map LPos.coord))
      ((d.reads (s.fibrePos s.cur f d)).map (·.map Int.toNat)))).setCursor s.cur fb.toNat (f.advanced d.n)) t s.cur (.next (s.pc s.cur)) := by
  rw [exec_fbnext]
  refine lsRun_completes h rfl ?_ ((State.setCursor_slu ..).trans (s.withEntry_slu _))
  have hc := State.listCheck_none hw
  unfold Fibre.indexWords at hc ho
  simp only [hf, hst, if_false, Core.lqFull_eq, Nat.not_le.mpr hl, decide_false, Bool.false_eq_true, hd, hc, ho, loadEntry_takes s tok d _ hr]
  rfl

end

end

/-- Settles O45. Each instruction by the state of its cursor, FBOPEN by its header, FBNEXT by the points that are left, LMARK by the count of its marker. -/
theorem fibres : Obligations.Fibres := by
  unfold Obligations.Fibres
  intro s tok fb b m desc slot line d q c f next ea w hi lo opened good idx addr pt live fills owed ixs put h
  have hopen : ∀ {n}, n = 1 ∨ n = 2 → n ≠ 0 := by omega
  have howed : ∀ ws, owed ws ↔ s.owedWords q ws = true := fun ws => (s.owedWords_iff q ws).symm
  have hfree : ∀ {ws}, ¬owed ws → s.owedWords q ws = false := fun hn => Bool.eq_false_iff.mpr fun hc => hn ((howed _).mpr hc)
  refine ⟨fun hc hd => ⟨fun hg ho => fbopen_opens fb b desc h hc hd hg (hfree ho), fun hg ho => fbopen_waits fb b desc h hc hd hg ((howed _).mp ho),
      fbopen_refuses fb b desc h hc hd⟩, fun tr hc => fbopen_traps fb b desc h hc,
    fun hst => ⟨fbnext_closed fb h rfl hst, fbend_closed fb slot line h rfl hst⟩, ?next,
    fun hst hl => fbnext_full fb h rfl (hopen hst) hl, fun hst => fbend_branches fb slot line h rfl (hopen hst), fbclose_closes fb h,
    lmark_passes m h, lmark_waits m h⟩
  case next =>
    intro hst hl hd hix
    have hw := Fibre.indexWords_readable hix
    refine ⟨fun ho => fbnext_waits fb h rfl (hopen hst) hl hd hw ((howed _).mp ho), fun hread ho => ?_⟩
    obtain ⟨t, ht, hdone⟩ := fbnext_takes fb h rfl (hopen hst) hl hd hw (hfree ho) (State.fibreReads_readable hread)
    refine ⟨t, _, ht, hdone, rfl, rfl, rfl, rfl, rfl, rfl, ?_, rfl, rfl, ?_, fun j hj => ⟨fun hlive => ⟨?_, ?_⟩, fun hvoid => ⟨?_, ?_⟩⟩⟩
    · simp only [State.newEntry, Desc.reads, List.length_map, State.fibrePos_length]
    · simp only [State.newEntry, Desc.listMap, List.length_map, State.fibrePos_length]
    · refine (List.getElem?_map ..).trans ?_
      rw [State.fibreReads_live _ _ _ _ hj hlive, Option.map_some]
      exact congrArg some (apply_ite (Option.map Int.toNat) _ _ _)
    · refine (List.getElem?_map ..).trans ?_
      rw [State.fibrePos_live _ _ _ _ hj hlive]
      rfl
    · refine (List.getElem?_map ..).trans ?_
      rw [State.fibreReads_void _ _ _ _ hj hvoid]
      rfl
    · refine (List.getElem?_map ..).trans ?_
      rw [State.fibrePos_void _ _ _ _ hj hvoid]
      rfl

end Sys2Proof.Machine
end

section
/-! SUPPORT. The stores of S (spec 07, R185 to R188): the positions that are written, their final values, and what a store leaves in flight. -/

namespace Sys2Proof.Machine

open Sys2Proof

-- The positions of a store (R185, R186) --------------------------------------------------------------------------------------------------

section
variable (d : Desc) (e : Vec × MapV) (target : Nat → Pt) (byMap : Bool)

/-- The coordinates that an entry's map gives its position j. -/
def Desc.ownPt (j : Nat) : Pt := Q4.mk' fun x => (coordAt e.2 j d.fmt.width x).getD 0

/-- R186 keeps position j. -/
def Desc.keeps (j : Nat) : Bool :=
  !isVoid e.2 (j * d.fmt.width / e.2.m.ew.bits) &&
    (!d.bck || (if byMap then e.2.known && d.inBounds (d.ownPt e j) else d.inBounds (target j)))

/-- The positions that R186 keeps. -/
def Desc.keptPos : List Nat := (List.range d.n).filter (d.keeps e target byMap)

/-- Position j of a store. -/
def Desc.storeAt (j : Nat) : SPos :=
  { target := target j, tested := if byMap then mapPt e.2 j d.fmt.width else some (target j), code := field e.1.toNat (d.fmt.width * j) d.fmt.width
    void := isVoid e.2 (j * d.fmt.width / e.2.m.ew.bits), own := mapPt e.2 j d.fmt.width }

theorem Desc.storePos_eq : d.storePos e ((List.range d.n).map target) byMap = (List.range d.n).map (d.storeAt e target byMap) :=
  mapIdx_map_range ..

theorem Desc.written_eq : d.written (d.storePos e ((List.range d.n).map target) byMap) =
    (d.keptPos e target byMap).map (d.storeAt e target byMap) := by
  rw [Desc.storePos_eq, Desc.written, List.filter_map, Desc.keptPos]
  refine congrArg (List.map _) (List.filter_congr fun j _ => ?_)
  simp only [Function.comp_apply, Desc.keeps, Desc.storeAt]
  cases byMap with
  | false => rfl
  | true =>
    simp only [if_true, mapPt]
    cases e.2.known <;> rfl

/-- The map of an entry tells a store nothing that it needs. -/
def Desc.mapMissing (chk : Bool) : Prop := (d.bck = true ∨ chk = true ∧ d.keptPos e target byMap ≠ []) ∧ e.2.known = false

/-- The map of an entry gives position j another tag or other coordinates than its target's. -/
def Desc.differs (j : Nat) : Prop := e.2.m.tag ≠ d.tag ∨ ∃ x, x < d.rank ∧ (d.ownPt e j).get x ≠ (target j).get x

variable {d e target byMap} {chk : Bool}

theorem Desc.storeTrap_missing (h : d.mapMissing e target byMap chk) :
    d.storeTrap e ((d.keptPos e target byMap).map (d.storeAt e target byMap)) chk = some { code := 10 } := by
  obtain ⟨hneed, hk⟩ := h
  refine if_pos ?_
  rw [hk, List.isEmpty_map]
  rcases hneed with hb | ⟨hc, hw⟩
  · simp [hb]
  · simp [hc, hw]

theorem Desc.mismatch_iff (hk : e.2.known = true) : (((d.keptPos e target byMap).map (d.storeAt e target byMap)).any fun p => match p.own with
      | some c => e.2.m.tag != d.tag || (List.range d.rank).any fun a => c.get a != p.target.get a
      | none => true) = true ↔ ∃ j ∈ d.keptPos e target byMap, d.differs e target j := by
  simp only [List.any_map, List.any_eq_true, Function.comp_apply, Desc.storeAt, mapPt, hk, if_true, Bool.or_eq_true, bne_iff_ne, List.mem_range,
    Desc.differs, Desc.ownPt]

section
variable (h : ¬d.mapMissing e target byMap chk)
include h

theorem Desc.storeTrap_known :
    ¬((d.bck || (chk && !((d.keptPos e target byMap).map (d.storeAt e target byMap)).isEmpty)) && !e.2.known) = true := by
  rw [List.isEmpty_map]
  refine fun hc => h ?_
  simpa [Desc.mapMissing] using hc

theorem Desc.storeTrap_mismatch (hc : chk = true) (hd : ∃ j ∈ d.keptPos e target byMap, d.differs e target j) :
    d.storeTrap e ((d.keptPos e target byMap).map (d.storeAt e target byMap)) chk = some { code := 11 } := by
  have hk : e.2.known = true := by
    obtain ⟨j, hj, -⟩ := hd
    by_contra hk
    exact h ⟨.inr ⟨hc, List.ne_nil_of_mem hj⟩, by simpa using hk⟩
  have hany := (Desc.mismatch_iff hk).mpr hd
  rw [Desc.storeTrap, if_neg (Desc.storeTrap_known h)]
  exact if_pos (by rw [hc, Bool.true_and]; exact hany)

theorem Desc.storeTrap_none (hd : chk = true → ∀ j ∈ d.keptPos e target byMap, ¬d.differs e target j) :
    d.storeTrap e ((d.keptPos e target byMap).map (d.storeAt e target byMap)) chk = none := by
  rw [Desc.storeTrap, if_neg (Desc.storeTrap_known h)]
  refine if_neg fun hm => ?_
  rw [Bool.and_eq_true] at hm
  obtain ⟨hc, hany⟩ := hm
  cases hw : d.keptPos e target byMap with
  | nil => rw [hw] at hany; cases hany
  | cons j ws =>
    have hk : e.2.known = true := by
      by_contra hk
      exact h ⟨.inr ⟨hc, by rw [hw]; exact List.cons_ne_nil _ _⟩, by simpa using hk⟩
    obtain ⟨i, hi, hdiff⟩ := (Desc.mismatch_iff hk).mp hany
    exact hd hc i hi hdiff

end

end

-- The final values (R187) ------------------------------------------------------------------------------------------------------------------

/-- A write to a sorted map adds its pair to those of other keys. -/
theorem sset_perm {α : Type} {m : SMap α} (h : m.Pairwise fun x y => x.1 < y.1) (k : Nat) (v : α) :
    (sset m k v).Perm ((k, v) :: m.filter fun x => decide (x.1 ≠ k)) := by
  induction m with
  | nil => exact .refl _
  | cons p m ih =>
    obtain ⟨a, b⟩ := p
    obtain ⟨hlow, hm⟩ := List.pairwise_cons.mp h
    have hkeep : ∀ {c}, c ≤ a → m.filter (fun x => decide (x.1 ≠ c)) = m := fun hc => List.filter_eq_self.mpr fun x hx => by
      have hlt : a < x.1 := hlow x hx
      simp only [ne_eq, decide_eq_true_eq]
      omega
    rw [sset]
    split
    · next hka =>
      subst hka
      rw [List.filter_cons_of_neg (by simp), hkeep le_rfl]
    · next hka =>
      have hne : decide (a ≠ k) = true := by simpa using Ne.symm hka
      split
      · next hlt => rw [List.filter_cons_of_pos (by exact hne), hkeep hlt.le]
      · rw [List.filter_cons_of_pos (by exact hne)]
        exact ((ih hm).cons _).trans (.swap _ _ _)

theorem finalPuts_snoc (l : List (Int × Nat)) (x : Int × Nat) : finalPuts (l ++ [x]) = sset (finalPuts l) x.1.toNat x.2 := by
  rw [finalPuts, List.foldl_append]
  rfl

theorem finalPuts_sorted (l : List (Int × Nat)) : (finalPuts l).Pairwise fun x y => x.1 < y.1 := by
  induction l using List.reverseRecOn with
  | nil => exact .nil
  | append_singleton l x ih =>
    rw [finalPuts_snoc]
    exact pairwise_sset _ _ _ ih

/-- No later position of a list writes where position j does. -/
def lastPut (addr : Nat → Int) (ws : List Nat) (j : Nat) : Bool := ws.all fun k => decide (k ≤ j) || addr k != addr j

/-- Of the positions that write at one address the last one's value stays. -/
theorem finalPuts_perm (addr : Nat → Int) (code : Nat → Nat) {ws : List Nat} (hws : ws.Pairwise (· < ·)) (ha : ∀ j ∈ ws, 0 ≤ addr j) :
    (finalPuts (ws.map fun j => (addr j, code j))).Perm ((ws.filter (lastPut addr ws)).map fun j => ((addr j).toNat, code j)) := by
  induction ws using List.reverseRecOn with
  | nil => exact .nil
  | append_singleton ws k ih =>
    obtain ⟨hord, -, hk⟩ := List.pairwise_append.mp hws
    have hlt : ∀ j ∈ ws, j < k := fun j hj => hk j hj k (List.mem_singleton_self k)
    have ha' : ∀ j ∈ ws, 0 ≤ addr j := fun j hj => ha j (List.mem_append_left _ hj)
    have hak : 0 ≤ addr k := ha k (List.mem_append_right _ (List.mem_singleton_self k))
    have hlast : lastPut addr (ws ++ [k]) k = true := by
      simp only [lastPut, List.all_append, List.all_cons, List.all_nil, le_refl, decide_true, Bool.true_or, Bool.and_true, List.all_eq_true]
      exact fun j hj => by simp [(hlt j hj).le]
    have hother : ∀ j ∈ ws, lastPut addr (ws ++ [k]) j = (decide ((addr j).toNat ≠ (addr k).toNat) && lastPut addr ws j) := by
      intro j hj
      have h1 := hlt j hj
      have h2 := ha' j hj
      have h3 : (addr k != addr j) = decide ((addr j).toNat ≠ (addr k).toNat) := by
        rw [Bool.eq_iff_iff, bne_iff_ne, decide_eq_true_eq]
        omega
      simp only [lastPut, List.all_append, List.all_cons, List.all_nil, Bool.and_true, Nat.not_le.mpr h1, decide_false, Bool.false_or, h3]
      exact Bool.and_comm _ _
    rw [List.map_append, List.map_singleton, finalPuts_snoc, List.filter_append, List.map_append, List.filter_cons_of_pos hlast,
      List.filter_nil, List.map_singleton, List.filter_congr hother, ← List.filter_filter]
    refine (sset_perm (finalPuts_sorted _) _ _).trans (((((ih hord ha').filter _).trans ?_).cons _).trans (List.perm_append_singleton _ _).symm)
    rw [List.filter_map]
    exact .refl _

-- The plan of a store (R173, R187) -----------------------------------------------------------------------------------------------------------

section
variable (s : State) (d : Desc) (e : Vec × MapV) (target : Nat → Pt) (byMap : Bool)

/-- The final values by address. -/
def Desc.finals : SMap Nat :=
  finalPuts ((d.keptPos e target byMap).map fun j => (d.addr (target j), (e.1.extractLsb' (d.fmt.width * j) d.fmt.width).toNat))

/-- The elements that a store writes. -/
def Desc.pieces : List (List (Nat × Byte)) := finalPieces d.size (d.finals e target byMap)

/-- The positions whose codes stay. -/
def Desc.lastKept : List Nat := (d.keptPos e target byMap).filter (lastPut (fun j => d.addr (target j)) (d.keptPos e target byMap))

/-- What a store does that no check stops: its elements, and the gauge partial of the final values. -/
def Desc.planOf : SPlan :=
  { els := d.pieces e target byMap
    gauge := if d.gid = 0 ∨ (d.finals e target byMap).isEmpty = true then none
      else some (d.gid, partialOf d.fmt ((d.finals e target byMap).map fun x => x.2)) }

theorem Desc.puts_eq : d.puts ((d.keptPos e target byMap).map (d.storeAt e target byMap)) =
    (d.keptPos e target byMap).map fun j => (d.addr (target j), (e.1.extractLsb' (d.fmt.width * j) d.fmt.width).toNat) := by
  rw [Desc.puts, List.map_map]
  refine List.map_congr_left fun j _ => ?_
  rw [Function.comp_apply, BitVec.extractLsb'_toNat]
  rfl

variable {s d e target byMap} {chk : Bool}

/-- A plan that the map stops. -/
theorem State.storePlan_trap {t : Trap} (h : d.storeTrap e ((d.keptPos e target byMap).map (d.storeAt e target byMap)) chk = some t) :
    s.storePlan s.cur d e (d.storePos e ((List.range d.n).map target) byMap) chk = .error t := by
  unfold State.storePlan
  simp only [Desc.written_eq, h]

section
variable (h : d.storeTrap e ((d.keptPos e target byMap).map (d.storeAt e target byMap)) chk = none)
include h

theorem State.storePlan_bad {n j : Nat} {t : Trap} (hn : (d.keptPos e target byMap)[n]? = some j)
    (ht : s.writeElem s.cur (d.pieces e target byMap).flatten (d.addr (target j)) d.size = some t)
    (hb : ∀ k ∈ (d.keptPos e target byMap).take n, s.writeElem s.cur (d.pieces e target byMap).flatten (d.addr (target k)) d.size = none) :
    s.storePlan s.cur d e (d.storePos e ((List.range d.n).map target) byMap) chk = .error t := by
  have hfirst : firstSome (fun x : Int × Nat => s.writeElem s.cur (d.pieces e target byMap).flatten x.1 d.size)
      ((d.keptPos e target byMap).map fun j => (d.addr (target j), (e.1.extractLsb' (d.fmt.width * j) d.fmt.width).toNat)) = some t := by
    refine firstSome_at (n := n) (by rw [List.getElem?_map, hn]; rfl) ht fun x hx => ?_
    rw [← List.map_take] at hx
    obtain ⟨k, hk, rfl⟩ := List.mem_map.mp hx
    exact hb k hk
  unfold State.storePlan
  simp only [Desc.written_eq, h, Desc.puts_eq]
  unfold Desc.pieces Desc.finals at hfirst
  simp only [hfirst]

theorem State.storePlan_ok (hw : ∀ j ∈ d.keptPos e target byMap, s.writeElem s.cur (d.pieces e target byMap).flatten (d.addr (target j)) d.size = none) :
    s.storePlan s.cur d e (d.storePos e ((List.range d.n).map target) byMap) chk = .ok (d.planOf e target byMap) := by
  have hfirst : firstSome (fun x : Int × Nat => s.writeElem s.cur (d.pieces e target byMap).flatten x.1 d.size)
      ((d.keptPos e target byMap).map fun j => (d.addr (target j), (e.1.extractLsb' (d.fmt.width * j) d.fmt.width).toNat)) = none := by
    refine firstSome_eq_none fun x hx => ?_
    obtain ⟨k, hk, rfl⟩ := List.mem_map.mp hx
    exact hw k hk
  unfold State.storePlan
  simp only [Desc.written_eq, h, Desc.puts_eq]
  unfold Desc.pieces Desc.finals at hfirst
  simp only [hfirst]
  rfl

end

theorem Desc.keptPos_sorted : (d.keptPos e target byMap).Pairwise (· < ·) := List.pairwise_lt_range.filter _

section
variable (ha : ∀ j ∈ d.keptPos e target byMap, 0 ≤ d.addr (target j))
include ha

theorem Desc.finals_perm : (d.finals e target byMap).Perm ((d.lastKept e target byMap).map fun j =>
    ((d.addr (target j)).toNat, (e.1.extractLsb' (d.fmt.width * j) d.fmt.width).toNat)) := finalPuts_perm _ _ Desc.keptPos_sorted ha

/-- The elements that are written: the last position's code at each address. -/
theorem Desc.pieces_perm : (d.pieces e target byMap).Perm ((d.lastKept e target byMap).map fun j =>
    cellsOf (d.addr (target j)).toNat (leBytes d.size (e.1.extractLsb' (d.fmt.width * j) d.fmt.width).toNat)) := by
  have h := (Desc.finals_perm ha).map fun kv => cellsOf kv.1 (leBytes d.size kv.2)
  rwa [List.map_map] at h

theorem Desc.codes_perm : ((d.finals e target byMap).map fun x => x.2).Perm
    ((d.lastKept e target byMap).map fun j => (e.1.extractLsb' (d.fmt.width * j) d.fmt.width).toNat) := by
  have h := (Desc.finals_perm ha).map fun x => x.2
  rwa [List.map_map] at h

end

theorem Desc.finals_isEmpty : (d.finals e target byMap).isEmpty = true ↔ d.keptPos e target byMap = [] := by
  rw [List.isEmpty_iff, Desc.finals]
  rcases List.eq_nil_or_concat (d.keptPos e target byMap) with h | ⟨ws, k, h⟩
  · simp [h, finalPuts]
  · rw [h, List.concat_eq_append, List.map_append, List.map_singleton, finalPuts_snoc]
    refine ⟨fun hs => ?_, fun hs => by simp at hs⟩
    have := congrArg List.length hs
    rw [(sset_perm (finalPuts_sorted _) _ _).length_eq] at this
    cases this

theorem Desc.pieces_isEmpty : (d.pieces e target byMap).isEmpty = true ↔ d.keptPos e target byMap = [] := by
  rw [Desc.pieces, finalPieces, List.isEmpty_map, Desc.finals_isEmpty]

end

/-- An address that passes the checks of a write is none below zero. -/
theorem State.writeElem_nonneg {s : State} {q : SeqId} {cells : List (Nat × Byte)} {x : Int} {n : Nat} (h : s.writeElem q cells x n = none) :
    0 ≤ x := by
  by_contra hx
  have hbad : addrOk x = .error { code := tcAddr, addr := wrapNat 64 x, info := 1 } := if_neg fun hc => hx hc.1
  simp [State.writeElem, hbad] at h

end Sys2Proof.Machine
end

section
/-! SUPPORT. The issue of the stores of S (spec 07, R185 to R187, R190): what a store leaves in flight, SDROP and SMARK. -/

namespace Sys2Proof.Machine

open Sys2Proof

-- Stores that go into flight (R187, R288) --------------------------------------------------------------------------------------------------

/-- The stores of one access, an element each. -/
def State.newStores (s : State) (q : SeqId) (els : List (List (Nat × Byte))) : List Store := els.mapIdx fun k cs =>
  { id := s.ids + k, who := q, cells := cs, lvl := 0, pre := s.transit.filterMap fun x => x.earlier q cs false, seen := [(q, 0)] }

section
variable (s : State) (q : SeqId) (els : List (List (Nat × Byte)))

theorem State.newStores_length : (s.newStores q els).length = els.length := List.length_mapIdx

theorem State.newStores_cells : (s.newStores q els).map Store.cells = els := by
  refine List.ext_getElem (by simp [State.newStores]) fun i _ _ => ?_
  simp [State.newStores]

theorem State.newStores_at {k : Nat} {st : Store} (h : (s.newStores q els)[k]? = some st) : st =
    { id := s.ids + k, who := q, cells := st.cells, lvl := 0, pre := s.transit.filterMap fun x => x.earlier q st.cells false, seen := [(q, 0)] } := by
  rw [State.newStores, List.getElem?_mapIdx] at h
  obtain ⟨cs, -, rfl⟩ := Option.map_eq_some_iff.mp h
  rfl

theorem getElem?_span (a n i : Nat) : (span a n)[i]? = if i < n then some (a + i) else none := by
  induction n generalizing a i with
  | zero => rfl
  | succ n ih =>
    cases i with
    | zero => rfl
    | succ i => simp [span, ih, Nat.add_assoc, Nat.add_comm 1]

theorem State.newStores_ids : (s.newStores q els).map (·.id) = span s.ids els.length := by
  refine List.ext_getElem? fun k => ?_
  rw [getElem?_span, State.newStores, List.getElem?_map, List.getElem?_mapIdx]
  split
  · next h => rw [List.getElem?_eq_getElem h]; rfl
  · next h => rw [List.getElem?_eq_none (by omega)]; rfl

end

/-- Stores at the end of the coherence order. -/
def State.flown (s : State) (sts : List Store) : State := { s with ids := s.ids + sts.length, transit := s.transit ++ sts }

theorem State.flown_append (s : State) (a b : List Store) : (s.flown a).flown b = s.flown (a ++ b) := by
  simp only [State.flown, List.length_append, Nat.add_assoc, List.append_assoc]

theorem State.storeAll_eq (s : State) (q : SeqId) (els : List (List (Nat × Byte))) :
    s.storeAll q els = ((s.newStores q els).map (·.id), s.flown (s.newStores q els)) := by
  rw [State.newStores_ids, State.flown, State.newStores_length]
  rfl

/-- S with the head of its store queue gone, and words that an access covers whole good again. -/
def State.healed (s : State) (cells : List (Nat × Byte)) : State := (s.popSq s.cur).healCells cells

theorem State.healed_rest (s : State) (cells : List (Nat × Byte)) : s.healed cells =
    { s.popSq s.cur with latent := (s.healed cells).latent, bad := (s.healed cells).bad } := by
  unfold State.healed State.healCells
  split <;> rfl

theorem State.healed_newStores (s : State) (cells : List (Nat × Byte)) (q : SeqId) (els : List (List (Nat × Byte))) :
    (s.healed cells).newStores q els = s.newStores q els := by
  rw [State.healed_rest]
  rfl

/-- S with the head of its store queue gone, stores in flight, and the instruction that waits for them to perform. -/
def State.issuedAs (s h : State) (sts : List Store) (sp : SPend) : State :=
  ({ s with ids := s.ids + sts.length, transit := s.transit ++ sts, latent := h.latent, bad := h.bad } : State).setCore s.cur.unit
    { s.core s.cur.unit with sq := (s.core s.cur.unit).sq.drop 1, spend := (s.core s.cur.unit).spend ++ [sp] }

theorem State.issuedAs_slu (s h : State) (sts : List Store) (sp : SPend) : ((s.issuedAs h sts sp).core s.cur.unit).slu = (s.core s.cur.unit).slu := by
  rw [State.issuedAs, State.core_setCore]

theorem State.issuedAs_eq (s : State) (cells : List (Nat × Byte)) (sts : List Store) (sp : SPend) :
    ((s.healed cells).flown sts).setCore s.cur.unit { ((s.healed cells).flown sts).core s.cur.unit with
      spend := (((s.healed cells).flown sts).core s.cur.unit).spend ++ [sp] } = s.issuedAs (s.healed cells) sts sp := by
  obtain ⟨l, b, hh⟩ : ∃ l b, s.healed cells = { s.popSq s.cur with latent := l, bad := b } := ⟨_, _, s.healed_rest cells⟩
  have hc : ((s.healed cells).flown sts).core s.cur.unit = { s.core s.cur.unit with sq := (s.core s.cur.unit).sq.drop 1 } := by
    rw [hh]
    exact State.core_setCore ..
  rw [hc, hh]
  simp only [State.issuedAs, State.flown, State.popSq, State.setCore, sset_sset]

/-- The record of an S instruction that waits for its stores to perform. -/
def State.spendOf (s : State) (tok : Tok) (ids : List Nat) (sem : Option (Nat × Nat × Nat)) (gauge : Option (Nat × GHalf)) : SPend :=
  { pc := s.pc s.cur, ids := ids, pa := lsPa .s tok, mark := none, sem := sem, gauge := gauge, pay := [] }

section
variable (s : State) (q : SeqId)

theorem State.popSq_pc (hq : q.kind = .s) : (s.popSq q).pc q = s.pc q := by
  simp [State.pc, State.pos, hq, isCtl, Core.posOf, State.popSq]

theorem State.popSq_slu : ((s.popSq q).core q.unit).slu = (s.core q.unit).slu := by rw [State.popSq, State.core_setCore]

end

section
variable {s : State} {tok : Tok} {p : SPlan} (hk : s.cur.kind = .s)
include hk

theorem State.issueStore_nothing (h : p.els = []) : s.issueStore s.cur tok p = .done (s.popSq s.cur) (.next (s.pc s.cur)) false := by
  unfold State.issueStore
  simp only [h, List.isEmpty_nil, if_true, State.after, State.popSq_pc s s.cur hk]

theorem State.issueStore_stores (h : p.els ≠ []) : s.issueStore s.cur tok p = .done (s.issuedAs (s.healed p.cells)
    (s.newStores s.cur p.els) (s.spendOf tok ((s.newStores s.cur p.els).map (·.id)) none p.gauge)) (.next (s.pc s.cur)) true := by
  have he : p.els.isEmpty = false := by simpa using h
  unfold State.issueStore
  simp only [he, Bool.false_eq_true, if_false, State.after, State.popSq_pc s s.cur hk, State.storeAll_eq]
  rw [← State.issuedAs_eq, ← State.healed_newStores s p.cells]
  rfl

end

-- The instructions (R185, R188, R190) ---------------------------------------------------------------------------------------------------------

theorem Core.sReady_eq (c : Core) : c.sReady = (!c.sq.isEmpty && decide (c.spend.length < 32)) := rfl

theorem Core.sReady_of {c : Core} (hsq : c.sq ≠ []) (hsp : c.spend.length < 32) : c.sReady = true := by
  simp [Core.sReady, hsq, hsp]

section
variable {s : State} {tok : Tok} {desc : BitVec 10} {chk byMap : Bool} {bad : Desc → Bool} {words : SeqId → Desc → List (Nat × Nat)}
  {targets : SeqId → Desc → List Pt} {i : Instr} (h : LsReady s .s tok) (hi : exec i s = storeEntry tok desc s chk byMap bad words targets)
include h hi

/-- A store waits for an entry of the store queue. -/
theorem store_waits (hsq : (s.core s.cur.unit).sq = []) : exec i s = .next s := by
  refine hi.trans (lsRun_stalls h ?_)
  simp only [Core.sReady_eq, hsq, List.isEmpty_nil, Bool.not_true, Bool.false_and, Bool.not_false, if_true]

variable (hsq : (s.core s.cur.unit).sq ≠ []) (hsp : (s.core s.cur.unit).spend.length < 32) {d : Desc} (hd : s.desc s.cur desc.toNat = .ok d)
include hsq hsp hd

theorem store_bad (hb : bad d = true) : exec i s = .next (s.trapElem s.cur { code := 6 } 8) := by
  refine hi.trans (lsRun_traps h ?_)
  simp only [Core.sReady_of hsq hsp, Bool.not_true, Bool.false_eq_true, if_false, hd, hb, if_true]
  rfl

variable (hb : bad d = false) (hw : ∀ w ∈ words s.cur d, s.readElem s.cur (w.1 : Int) w.2 = none)
include hb hw

theorem store_traps {tr : Trap} (hp : s.storePlan s.cur d (s.core s.cur.unit).sqHead
    (d.storePos (s.core s.cur.unit).sqHead (targets s.cur d) byMap) chk = .error tr) : exec i s = .next (s.trapElem s.cur tr d.size) := by
  refine hi.trans (lsRun_traps h ?_)
  simp only [Core.sReady_of hsq hsp, Bool.not_true, Bool.false_eq_true, if_false, hd, hb, State.listCheck_none hw, hp]

variable {p : SPlan} (hp : s.storePlan s.cur d (s.core s.cur.unit).sqHead
    (d.storePos (s.core s.cur.unit).sqHead (targets s.cur d) byMap) chk = .ok p)
include hp

/-- A store that writes no element is complete. -/
theorem store_nothing (he : p.els = []) : ∃ t, exec i s = .next t ∧ LsDone tok false (s.popSq s.cur) t s.cur (.next (s.pc s.cur)) := by
  rw [hi]
  refine lsRun_completes h rfl ?_ (s.popSq_slu s.cur)
  simp only [Core.sReady_of hsq hsp, Bool.not_true, Bool.false_eq_true, if_false, hd, hb, State.listCheck_none hw, hp, State.issueStore_nothing h.1 he]

theorem store_issues (he : p.els ≠ []) : ∃ t, exec i s = .next t ∧ LsDone tok true (s.issuedAs (s.healed p.cells) (s.newStores s.cur p.els)
    (s.spendOf tok ((s.newStores s.cur p.els).map (·.id)) none p.gauge)) t s.cur (.next (s.pc s.cur)) := by
  rw [hi]
  refine lsRun_completes h rfl ?_ (s.issuedAs_slu ..)
  simp only [Core.sReady_of hsq hsp, Bool.not_true, Bool.false_eq_true, if_false, hd, hb, State.listCheck_none hw, hp, State.issueStore_stores h.1 he]

end

/-- What a store of the positions of a target does, by the checks of its map and of its elements (R173, R186, R187). -/
structure StoresEntry (s : State) (tok : Tok) (d : Desc) (e : Vec × MapV) (target : Nat → Pt) (byMap chk : Bool) (i : Instr) : Prop where
  missing  : d.mapMissing e target byMap chk → exec i s = .next (s.trapElem s.cur { code := 10 } d.size)
  mismatch : ¬d.mapMissing e target byMap chk → chk = true → (∃ j ∈ d.keptPos e target byMap, d.differs e target j) →
    exec i s = .next (s.trapElem s.cur { code := 11 } d.size)
  fails    : ¬d.mapMissing e target byMap chk → (chk = true → ∀ j ∈ d.keptPos e target byMap, ¬d.differs e target j) →
    ∀ n j tr, (d.keptPos e target byMap)[n]? = some j →
      s.writeElem s.cur (d.pieces e target byMap).flatten (d.addr (target j)) d.size = some tr →
      (∀ k ∈ (d.keptPos e target byMap).take n, s.writeElem s.cur (d.pieces e target byMap).flatten (d.addr (target k)) d.size = none) →
      exec i s = .next (s.trapElem s.cur tr d.size)
  nothing  : ¬d.mapMissing e target byMap chk → (chk = true → ∀ j ∈ d.keptPos e target byMap, ¬d.differs e target j) →
    d.keptPos e target byMap = [] → ∃ t, exec i s = .next t ∧ LsDone tok false (s.popSq s.cur) t s.cur (.next (s.pc s.cur))
  flies    : ¬d.mapMissing e target byMap chk → (chk = true → ∀ j ∈ d.keptPos e target byMap, ¬d.differs e target j) →
    d.keptPos e target byMap ≠ [] →
    (∀ j ∈ d.keptPos e target byMap, s.writeElem s.cur (d.pieces e target byMap).flatten (d.addr (target j)) d.size = none) →
    ∃ t, exec i s = .next t ∧ LsDone tok true (s.issuedAs (s.healed (d.pieces e target byMap).flatten)
      (s.newStores s.cur (d.pieces e target byMap)) (s.spendOf tok ((s.newStores s.cur (d.pieces e target byMap)).map (·.id)) none
        (d.planOf e target byMap).gauge)) t s.cur (.next (s.pc s.cur))

section
variable {s : State} {tok : Tok} {desc : BitVec 10} {chk byMap : Bool} {bad : Desc → Bool} {words : SeqId → Desc → List (Nat × Nat)}
  {targets : SeqId → Desc → List Pt} {i : Instr} {d : Desc} {target : Nat → Pt}

theorem storesEntry_of_storeEntry (h : LsReady s .s tok) (hi : exec i s = storeEntry tok desc s chk byMap bad words targets)
    (hsq : (s.core s.cur.unit).sq ≠ []) (hsp : (s.core s.cur.unit).spend.length < 32) (hd : s.desc s.cur desc.toNat = .ok d)
    (hb : bad d = false) (hw : ∀ w ∈ words s.cur d, s.readElem s.cur (w.1 : Int) w.2 = none)
    (ht : targets s.cur d = (List.range d.n).map target) : StoresEntry s tok d (s.core s.cur.unit).sqHead target byMap chk i := by
  have hnothing := fun {p} hp => store_nothing (p := p) h hi hsq hsp hd hb hw hp
  have hissues := fun {p} hp => store_issues (p := p) h hi hsq hsp hd hb hw hp
  have htraps := fun {tr} hp => store_traps (tr := tr) h hi hsq hsp hd hb hw hp
  rw [ht] at hnothing hissues htraps
  refine ⟨fun hl => htraps (State.storePlan_trap (Desc.storeTrap_missing hl)),
    fun hl hc hj => htraps (State.storePlan_trap (Desc.storeTrap_mismatch hl hc hj)),
    fun hl hc n j tr hn hj hk => htraps (State.storePlan_bad (Desc.storeTrap_none hl hc) hn hj hk),
    fun hl hc he => hnothing (State.storePlan_ok (Desc.storeTrap_none hl hc) (by simp [he])) (List.isEmpty_iff.mp (Desc.pieces_isEmpty.mpr he)),
    fun hl hc he hj => hissues (State.storePlan_ok (Desc.storeTrap_none hl hc) hj) fun hp => he (Desc.pieces_isEmpty.mp (List.isEmpty_iff.mpr hp))⟩

end

section
variable (s : State) (tok : Tok) (a b m : BitVec 4) (desc : BitVec 10) (ix : BitVec 2) (chk : Bool)

theorem exec_st : exec (.st tok a desc chk) s =
    storeEntry tok desc s chk true (fun _ => false) (fun _ _ => []) (s.storeWindow a fun _ d => d.unitSteps) := rfl

theorem exec_sts : exec (.sts tok a b desc chk) s =
    storeEntry tok desc s chk true (fun _ => false) (fun _ _ => []) (s.storeWindow a fun q _ => stepsOf (s.getA q b.toNat)) := rfl

theorem exec_sti : exec (.sti tok a b desc ix) s =
    storeEntry tok desc s false false (fun d => decide (ix.toNat ≥ d.rank)) (fun q d => d.indexWords (s.getA q b.toNat).toNat)
      fun q d => s.indexed q d (s.origin q a.toNat d.rank) (s.getA q b.toNat).toNat ix.toNat := rfl

theorem exec_ssb : exec (.ssb tok a b desc) s =
    storeEntry tok desc s false false (fun d => d.ra == d.qa) (fun q d => d.rowWords (s.getA q b.toNat).toNat)
      fun q d => s.blocked q d (s.origin q a.toNat d.rank) (s.getA q b.toNat).toNat 8 0 := rfl

theorem exec_sdrop : exec (.sdrop tok) s = execSdrop tok s := rfl
theorem exec_smark : exec (.smark tok m) s = execSmark tok m s := rfl

theorem State.storeWindow_eq (step : SeqId → Desc → Int × Int) (q : SeqId) (d : Desc) : s.storeWindow a step q d =
    (List.range d.n).map (d.winPt (s.origin q a.toNat d.rank) (step q d)) := Desc.window_eq ..

variable {s tok} (h : LsReady s .s tok)
include h

theorem sdrop_waits (hsq : (s.core s.cur.unit).sq = []) : exec (.sdrop tok) s = .next s := by
  rw [exec_sdrop]
  exact lsRun_stalls h (if_pos (by rw [hsq]; rfl))

theorem sdrop_drops (hsq : (s.core s.cur.unit).sq ≠ []) : ∃ t, exec (.sdrop tok) s = .next t ∧
    LsDone tok false (s.popSq s.cur) t s.cur (.next (s.pc s.cur)) := by
  rw [exec_sdrop]
  exact lsRun_completes h rfl (if_neg (by simpa using hsq)) (s.popSq_slu s.cur)

/-- SMARK is complete at once where every earlier store has performed. -/
theorem smark_completes (hsp : (s.core s.cur.unit).spend = []) : ∃ t, exec (.smark tok m) s = .next t ∧
    LsDone tok false (s.setCore s.cur.unit { s.core s.cur.unit with
      smark := sset (s.core s.cur.unit).smark m.toNat (sget [] (s.core s.cur.unit).smark m.toNat ++ [s.tells s.cur 1]) }) t s.cur
      (.next (s.pc s.cur)) := by
  rw [exec_smark]
  refine lsRun_completes h rfl (if_pos (by rw [hsp]; rfl)) ?_
  rw [State.core_setCore]

theorem smark_queues (hsp : (s.core s.cur.unit).spend ≠ []) (hroom : (s.core s.cur.unit).spend.length < 32) : ∃ t,
    exec (.smark tok m) s = .next t ∧ LsDone tok true (s.setCore s.cur.unit { s.core s.cur.unit with spend := (s.core s.cur.unit).spend ++
      [{ pc := s.pc s.cur, ids := [], pa := lsPa .s tok, mark := some m.toNat, sem := none, gauge := none, pay := [] }] }) t s.cur
      (.next (s.pc s.cur)) := by
  rw [exec_smark]
  refine lsRun_completes h rfl ((if_neg (by simpa using hsp)).trans (if_neg (Nat.not_le.mpr hroom))) ?_
  rw [State.core_setCore]

end

end Sys2Proof.Machine
end

section
/-! SUPPORT. How the stores of S perform (spec 12, R287, R289, R294 to R299, R303; 07, R187): at core scope with their instruction, then scope by
scope in the order that earlier stores leave. -/

namespace Sys2Proof.Machine

open Sys2Proof

-- At core scope (R187) -------------------------------------------------------------------------------------------------------------------

theorem State.raise_rest (s : State) (ids : List Nat) (lvl : Nat) :
    s.raise ids lvl = { s with mem := (s.raise ids lvl).mem, transit := (s.raise ids lvl).transit } := by
  induction ids generalizing s with
  | nil => rfl
  | cons i ids ih =>
    change (s.perform i lvl).raise ids lvl =
      { s with mem := ((s.perform i lvl).raise ids lvl).mem, transit := ((s.perform i lvl).raise ids lvl).transit }
    rw [ih, State.perform_rest]

theorem State.raise_core (s : State) (ids : List Nat) (lvl u : Nat) : (s.raise ids lvl).core u = s.core u := by
  rw [State.raise_rest]
  rfl

/-- A gauge partial is on its way to its record, if there is one. -/
def State.partSent (s : State) (q : SeqId) : Option (Nat × GHalf) → State
  | some (g, h) => s.sendPart q (modOf q.unit) (s.asidOf q) g h 0
  | none => s

theorem State.partSent_parts (s : State) (q : SeqId) (g : Nat) (h : GHalf) : ((s.partSent q (some (g, h))).ctxOf q).parts =
    (s.ctxOf q).parts ++ [{ id := s.ids, src := q, gid := g, half := h, ov := 0 }] :=
  congrArg Ctx.parts (State.ctx_setCtx ..)

theorem State.partSent_rest (s : State) (q : SeqId) (g : Option (Nat × GHalf)) :
    s.partSent q g = { s with ids := (s.partSent q g).ids, ctxs := (s.partSent q g).ctxs } := by
  cases g <;> rfl

/-- The core once its oldest S instruction has performed: its token is pushed, and a marker is complete. -/
def Core.performed (c : Core) (p : SPend) (rest : List SPend) (tells : List Nat) : Core :=
  ({ c with spend := rest, smark := match p.mark with
      | some n => sset c.smark n (sget [] c.smark n ++ [tells])
      | none => c.smark } : Core).pushOpt p.pa tells

theorem exec_storePerformedCore (s : State) : exec .storePerformedCore s = execStorePerformedCore s := rfl

section
variable {s : State} {u : Nat} {p : SPend} {rest : List SPend} (hsp : (s.core u).spend = p :: rest)
include hsp

theorem State.performS_plain (hsem : p.sem = none) : s.performS u = ((s.raise p.ids 1).partSent { unit := u, kind := .s } p.gauge).setCore u
    ((s.core u).performed p rest ((s.raise p.ids 1).tells { unit := u, kind := .s } 1)) := by
  have hcore : ((s.raise p.ids 1).partSent { unit := u, kind := .s } p.gauge).core u = s.core u := by
    rw [State.partSent_rest]
    exact s.raise_core p.ids 1 u
  obtain ⟨pc, ids, pa, mark, sem, gauge, pay⟩ := p
  obtain rfl : sem = none := hsem
  simp only [State.performS, hsp]
  cases gauge <;> simp only [State.partSent] at hcore ⊢ <;> rw [hcore]
  all_goals
    cases mark with
    | none => rfl
    | some n => cases pa <;> rfl

end

-- Order (R289, R294 to R299, R303) ----------------------------------------------------------------------------------------------------------

theorem sameByte_iff (x y : List (Nat × Byte)) : sameByte x y = true ↔ ∃ c ∈ x, ∃ d ∈ y, c.1 = d.1 := by
  simp only [sameByte, List.any_eq_true, beq_iff_eq]

theorem sameUnit_iff (x y : List (Nat × Byte)) : sameUnit x y = true ↔ ∃ c ∈ x, ∃ d ∈ y, c.1 / 2 ^ 20 = d.1 / 2 ^ 20 := by
  simp only [sameUnit, List.any_eq_true, beq_iff_eq]

theorem Store.open_iff (x y : Store) : x.open y = true ↔
    x.who ≠ y.who ∧ (∃ c ∈ x.cells, ∃ d ∈ y.cells, c.1 = d.1) ∧ x.lvl < commonScope x.who y.who := by
  simp only [Store.open, Bool.and_eq_true, bne_iff_ne, sameByte_iff, decide_eq_true_eq, and_assoc]

/-- How far an earlier store of one stream must have performed for one of these cells: everywhere for a byte in common, up to die scope in one
unit, else at core scope; a signal waits for neither. -/
def orderOf (x cells : List (Nat × Byte)) (sg : Bool) : Nat := if sameByte x cells then 5 else if sg then 0 else if sameUnit x cells then 3 else 1

section
variable {x : Store} {q : SeqId} {cells : List (Nat × Byte)} {sg : Bool}

theorem Store.earlier_unrelated (h : x.fenceBy q = none) : x.earlier q cells sg = none := by rw [Store.earlier, h]

variable {f : Nat} (h : x.fenceBy q = some f)
include h

theorem Store.earlier_observed (hq : x.who ≠ q) : x.earlier q cells sg = some { id := x.id, ord := 5, kept := f } := by
  rw [Store.earlier, h]
  exact if_neg hq

theorem Store.earlier_own (hq : x.who = q) : x.earlier q cells sg = if max f (orderOf x.cells cells sg) = 0 then none
    else some { id := x.id, ord := max f (orderOf x.cells cells sg), kept := max f (orderOf x.cells cells sg) } := by
  rw [Store.earlier, h]
  exact if_pos hq

end

/-- A store goes in front of the first store from which on none of its locations' orders is settled, with an order that is open and that both streams see;
else it goes to the end. -/
theorem Store.enter_split (y : Store) (l : List Store) : ∃ a b, l = a ++ b ∧ y.enter l = a ++ y :: b ∧
    (∀ x ∈ b, (x.open y || !sameByte x.cells y.cells) = true) ∧
    ∀ a₁ x a₂, a = a₁ ++ x :: a₂ → x.open y = true → commonScope x.who y.who ≤ y.lvl →
      ∃ z ∈ a₂ ++ b, (z.open y || !sameByte z.cells y.cells) = false := by
  induction l with
  | nil => exact ⟨[], [], rfl, rfl, by simp, by simp⟩
  | cons x l ih =>
    rw [Store.enter]
    split
    · next c =>
      rw [Bool.and_eq_true, List.all_eq_true] at c
      exact ⟨[], x :: l, rfl, rfl, c.2, by simp⟩
    · next c =>
      obtain ⟨a, b, rfl, he, hb, ha⟩ := ih
      refine ⟨x :: a, b, rfl, by rw [he]; rfl, hb, fun a₁ x' a₂ hsplit ho hs => ?_⟩
      cases a₁ with
      | cons w a₁ =>
        rw [List.cons_append, List.cons.injEq] at hsplit
        exact ha a₁ x' a₂ hsplit.2 ho hs
      | nil =>
        obtain ⟨rfl, rfl⟩ := List.cons.inj hsplit
        rw [ho, decide_eq_true hs, Bool.and_self, Bool.true_and, List.all_eq_true] at c
        by_contra hno
        refine c fun z hz => ?_
        rcases List.mem_cons.mp hz with rfl | hz
        · rw [ho]
          rfl
        · by_contra hz'
          exact hno ⟨z, hz, by simpa using hz'⟩

-- Scope by scope (R287) -------------------------------------------------------------------------------------------------------------------

theorem foldl_max_le {α : Type} (f : α → Nat) (P : α → Prop) (l : List α) (k n : Nat) [DecidablePred P] :
    l.foldl (fun k e => if P e then max k (f e) else k) k ≤ n ↔ k ≤ n ∧ ∀ e ∈ l, P e → f e ≤ n := by
  induction l generalizing k with
  | nil => simp
  | cons x l ih =>
    rw [List.foldl_cons, ih, List.forall_mem_cons]
    split
    · next hx => simp only [hx, Nat.max_le, true_imp_iff, and_assoc]
    · next hx => simp only [hx, false_imp_iff, true_and]

/-- What x owes is done once x has performed as far as y is to, where it precedes y at a location of both in an order that is settled, and as far as each of
y's records of it asks. -/
theorem Store.owes_le (x y : Store) (first : Bool) : x.owes first y (y.lvl + 1) ≤ x.lvl ↔
    (first = true → x.who ≠ y.who → (∃ c ∈ x.cells, ∃ d ∈ y.cells, c.1 = d.1) → commonScope x.who y.who ≤ x.lvl → x.lvl > y.lvl) ∧
      ∀ e ∈ y.pre, e.id = x.id → min (y.lvl + 1) e.ord ≤ x.lvl := by
  rw [Store.owes]
  split
  · next h =>
    simp only [Bool.and_eq_true, bne_iff_ne, sameByte_iff, Bool.not_eq_true'] at h
    obtain ⟨⟨⟨hf, hw⟩, hm⟩, ho⟩ := h
    have hs : commonScope x.who y.who ≤ x.lvl := Nat.not_lt.mp fun hlt => by
      rw [(Store.open_iff x y).mpr ⟨hw, hm, hlt⟩] at ho
      cases ho
    exact ⟨fun hl => ⟨fun _ _ _ _ => hl, fun e _ _ => (Nat.min_le_left ..).trans hl⟩, fun hl => hl.1 hf hw hm hs⟩
  · next h =>
    rw [foldl_max_le]
    refine ⟨fun hl => ⟨fun hf hw hm hs => absurd ?_ h, hl.2⟩, fun hl => ⟨Nat.zero_le _, hl.2⟩⟩
    have ho : x.open y = false := Bool.eq_false_iff.mpr fun ho => Nat.not_lt.mpr hs ((Store.open_iff x y).mp ho).2.2
    simp only [Bool.and_eq_true, bne_iff_ne, sameByte_iff, Bool.not_eq_true']
    exact ⟨⟨⟨hf, hw⟩, hm⟩, ho⟩

theorem State.atHead_iff (s : State) (y : Store) : s.atHead y = true ↔
    (s.ctl ({ y.who with kind := .k } : SeqId)).flows 3 = true ∧ ∃ p rest, (s.core y.who.unit).spend = p :: rest ∧ y.id ∈ p.ids := by
  rw [State.atHead, Bool.and_eq_true]
  refine and_congr_right fun _ => ?_
  cases (s.core y.who.unit).spend with
  | nil => simp
  | cons p rest => simp

theorem State.mayRaise_iff (s : State) (i : Nat) (y : Store) : s.mayRaise i y = true ↔
    (y.lvl ≥ 1 ∨ s.atHead y = true) ∧ ∀ (j : Nat) (x : Store), s.transit[j]? = some x → j ≠ i → x.owes (decide (j < i)) y (y.lvl + 1) ≤ x.lvl := by
  rw [State.mayRaise, Bool.and_eq_true, all_mapIdx_iff, Bool.or_eq_true, decide_eq_true_eq]
  simp only [Bool.or_eq_true, beq_iff_eq, decide_eq_true_eq, or_iff_not_imp_left, ne_eq]

/-- A list of stores splits at the first one with an identifier. -/
theorem span_store {l : List Store} {i : Nat} {y : Store} (hi : l[i]? = some y) (hu : ∀ x ∈ l.take i, x.id ≠ y.id) :
    l.span (fun x => x.id != y.id) = (l.take i, y :: l.drop (i + 1)) := by
  obtain ⟨hlt, hy⟩ := List.getElem?_eq_some_iff.mp hi
  have hsplit : l = l.take i ++ y :: l.drop (i + 1) := by rw [← hy, List.getElem_cons_drop, List.take_append_drop]
  have ht : l.takeWhile (fun x => x.id != y.id) = l.take i := by
    conv_lhs => rw [hsplit]
    rw [List.takeWhile_append_of_pos (by simpa using hu), List.takeWhile_cons_of_neg (by simp), List.append_nil]
  have hd : l.dropWhile (fun x => x.id != y.id) = y :: l.drop (i + 1) := by
    conv_lhs => rw [hsplit]
    rw [List.dropWhile_append_of_pos (by simpa using hu), List.dropWhile_cons_of_neg (by simp)]
  rw [List.span_eq_takeWhile_dropWhile, ht, hd]

section
variable {s : State} {i : Nat} {y : Store} (hi : s.transit[i]? = some y) (hu : ∀ x ∈ s.transit.take i, x.id ≠ y.id)
include hi hu

theorem State.perform_wider (hl : y.lvl < 4) : s.perform y.id (y.lvl + 1) = { s with
    transit := ({ y with lvl := y.lvl + 1 } : Store).enter (s.transit.take i) ++ s.transit.drop (i + 1) } := by
  unfold State.perform
  simp only [span_store hi hu, Nat.max_eq_right (Nat.le_succ y.lvl)]
  exact if_pos (by omega)

/-- At pod scope its bytes go to memory, and out of the stores that it follows there. -/
theorem State.perform_everywhere (hl : y.lvl ≥ 4) : s.perform y.id (y.lvl + 1) = { s with
    mem := memWrite s.mem y.cells
    transit := (s.transit.take i).map (fun x => if x.open y then x else { x with cells := x.cells.filter fun c => !(y.cells.any fun d => d.1 == c.1) }) ++
      s.transit.drop (i + 1) } := by
  unfold State.perform
  simp only [span_store hi hu, Nat.max_eq_right (Nat.le_succ y.lvl)]
  exact if_neg (by omega)

end

theorem exec_performedAtScope (s : State) : exec .performedAtScope s = execPerformedAtScope s := rfl

theorem performedAtScope_eq {s : State} {y : Store} (hi : s.transit[s.ev.i]? = some y) :
    exec .performedAtScope s = .next (if s.mayRaise s.ev.i y then s.perform y.id (y.lvl + 1) else s) := by
  rw [exec_performedAtScope, execPerformedAtScope, hi]

end Sys2Proof.Machine
end

section
/-! SUPPORT. The statement about the stores of S (spec 07, R185 to R188, R190; 12, R287 to R289, R294 to R299, R303). -/

namespace Sys2Proof.Machine

open Sys2Proof

section
variable {s : State} {p : SPend} {rest : List SPend}

theorem storePerformedCore_performs (hf : (s.ctl { unit := s.ev.i, kind := .s }).flows 3 = true) (hw : s.signalWaits s.ev.i = false) :
    exec .storePerformedCore s = .next (s.performS s.ev.i) := by
  rw [exec_storePerformedCore, execStorePerformedCore]
  exact if_pos (by rw [hw, Bool.not_false, Bool.and_true]; exact hf)

theorem storePerformedCore_waits (hw : s.signalWaits s.ev.i = true) : exec .storePerformedCore s = .next s := by
  rw [exec_storePerformedCore, execStorePerformedCore]
  exact if_neg (by rw [hw, Bool.not_true, Bool.and_false]; exact Bool.false_ne_true)

theorem State.signalWaits_eq {u : Nat} (hsp : (s.core u).spend = p :: rest) :
    s.signalWaits u = (p.sem.isSome && p.ids.isEmpty && s.transit.any fun st => p.pay.contains st.id) := by
  rw [State.signalWaits, hsp]

end

section
variable {d : Desc} {e : Vec × MapV} {target : Nat → Pt} {byMap : Bool}

theorem Desc.planOf_noGauge (hg : d.gid = 0) : (d.planOf e target byMap).gauge = none := if_pos (.inl hg)

theorem Desc.planOf_gauge (hg : d.gid ≠ 0) (hw : d.keptPos e target byMap ≠ []) : (d.planOf e target byMap).gauge =
    some (d.gid, partialOf d.fmt ((d.finals e target byMap).map fun x => x.2)) :=
  if_neg (not_or.mpr ⟨hg, fun he => hw (Desc.finals_isEmpty.mp he)⟩)

end

/-- Settles O47. A store by the checks of its map and of its elements, and by what it leaves in flight; the events by what earlier stores have yet to do. -/
theorem stores : Obligations.Stores := by
  unfold Obligations.Stores
  refine ⟨?issue, ?core, ?order, ?place, ?scope⟩
  case issue =>
    intro s tok a b m desc ix chk d q c e w sz next o list index row col win popped takes listOk h
    have htakes : ∀ {i target byMap chk'}, StoresEntry s tok d e target byMap chk' i → takes i target byMap chk' := by
      refine fun hs => ⟨hs.missing, hs.mismatch, fun hl hc => ⟨hs.fails hl hc, hs.nothing hl hc, fun hne hw => ?_⟩⟩
      obtain ⟨t, ht, hdone⟩ := hs.flies hl hc hne hw
      have hpos := fun j hj => State.writeElem_nonneg (hw j hj)
      refine ⟨t, _, _, _, ht, hdone, rfl, fun k st => s.newStores_at q _, ?_, rfl, Desc.planOf_noGauge, fun hg =>
        ⟨_, Desc.codes_perm hpos, Desc.planOf_gauge hg hne⟩⟩
      rw [State.newStores_cells]
      exact Desc.pieces_perm hpos
    refine ⟨fun hsq hsp hd => ?entry, fun hsq => ?empty, fun hsq => sdrop_drops h hsq, smark_completes m h, smark_queues m h⟩
    case entry =>
      have hst := storesEntry_of_storeEntry h (exec_st s tok a desc chk) hsq hsp hd rfl (by simp) (s.storeWindow_eq a _ q d)
      have hsts := storesEntry_of_storeEntry h (exec_sts s tok a b desc chk) hsq hsp hd rfl (by simp) (s.storeWindow_eq a _ q d)
      refine ⟨htakes hst, htakes hsts, fun hw hix => ?_, fun hw hne => ?_, fun hix => store_bad h (exec_sti s tok a b desc ix) hsq hsp hd (by simpa using hix),
        fun he => store_bad h (exec_ssb s tok a b desc) hsq hsp hd (by simpa using he)⟩
      · exact htakes (storesEntry_of_storeEntry h (exec_sti s tok a b desc ix) hsq hsp hd (by simpa using hix) hw rfl)
      · exact htakes (storesEntry_of_storeEntry h (exec_ssb s tok a b desc) hsq hsp hd (by simpa using hne) hw (State.blocked_eq ..))
    case empty =>
      simp only [List.forall_mem_cons]
      exact ⟨store_waits h (exec_st s tok a desc chk) hsq, store_waits h (exec_sts s tok a b desc chk) hsq,
        store_waits h (exec_sti s tok a b desc ix) hsq, store_waits h (exec_ssb s tok a b desc) hsq, sdrop_waits h hsq, by simp⟩
  case core =>
    intro s p rest u q c m hsp hf hsem
    have hw : s.signalWaits u = false := by rw [State.signalWaits_eq hsp, hsem]; rfl
    have hm : m = s.raise p.ids 1 := rfl
    clear_value m
    subst hm
    refine ⟨_, storePerformedCore_performs hf hw, ?_⟩
    rw [State.performS_plain hsp hsem]
    refine ⟨?_, State.core_setCore .., fun hg => ?_, fun g hh hg => ?_, ?_⟩
    · rw [State.setCore_transit, State.partSent_rest]
    · rw [State.setCore_ctxs, hg, State.raise_rest]
      rfl
    · rw [hg]
      refine (State.partSent_parts (s.raise p.ids 1) q g hh).trans ?_
      rw [State.raise_rest]
      rfl
    · rw [State.setCore_mem, State.partSent_rest]
  case order =>
    intro x q cells sg meets
    refine ⟨Store.earlier_unrelated, fun f hf => ⟨Store.earlier_observed hf, fun k hq h1 h2 h3 h4 => ?_⟩⟩
    have hbyte : meets 1 ↔ sameByte x.cells cells = true := by simp only [meets, Nat.div_one, sameByte_iff]
    have hunit : meets (2 ^ 20) ↔ sameUnit x.cells cells = true := (sameUnit_iff _ _).symm
    have hk : k = orderOf x.cells cells sg := by
      rw [orderOf]
      split
      · next hb => exact h1 (hbyte.mpr hb)
      · next hb =>
        have hb' : ¬meets 1 := fun hm => hb (hbyte.mp hm)
        split
        · next hs => exact h2 hb' hs
        · next hs =>
          have hs' : sg = false := by simpa using hs
          split
          · next hu => exact h3 hb' hs' (hunit.mpr hu)
          · next hu => exact h4 hb' hs' fun hm => hu (hunit.mp hm)
    rw [hk]
    exact Store.earlier_own hf hq
  case place =>
    intro y l unsettled settled
    have hsettled : ∀ x, settled x ↔ (x.open y || !sameByte x.cells y.cells) = false := fun x => by
      rw [Bool.or_eq_false_iff, Bool.not_eq_false', sameByte_iff, Bool.eq_false_iff, Ne, Store.open_iff]
      exact and_comm
    obtain ⟨a, b, hl, he, hb, ha⟩ := y.enter_split l
    refine ⟨a, b, hl, he, fun x hx hs => ?_, fun a₁ x a₂ hsplit ho hc => ?_⟩
    · have hfalse := (hsettled x).mp hs
      rw [hb x hx] at hfalse
      cases hfalse
    · obtain ⟨z, hz, hz'⟩ := ha a₁ x a₂ hsplit ((Store.open_iff x y).mpr ho) hc
      exact ⟨z, hz, (hsettled z).mpr hz'⟩
  case scope =>
    intro s y hi before up head
    refine ⟨?_, fun hr hu => ?_, fun hr => ?_⟩
    · rw [State.mayRaise_iff, State.atHead_iff]
      simp only [Store.owes_le, decide_eq_true_eq]
      rfl
    · refine ⟨s.perform y.id (y.lvl + 1), ?_, State.perform_wider hi hu, fun hl => ?_⟩
      · rw [performedAtScope_eq hi, hr]
        rfl
      · rw [State.perform_everywhere hi hu hl]
        exact ⟨rfl, memGet_memWrite y.cells s.mem⟩
    · rw [performedAtScope_eq hi, hr]
      rfl

end Sys2Proof.Machine
end

section
/-! SUPPORT. PUTSIG (spec 07, R189; 12, R303): a payload with its signal, and the semaphore add that follows it. -/

namespace Sys2Proof.Machine

open Sys2Proof

-- The issue (R189) -------------------------------------------------------------------------------------------------------------------------

theorem leBytes_eq_extract (n : Nat) (x : Word) : leBytes n x.toNat = (List.range n).map fun k => x.extractLsb' (8 * k) 8 := by
  refine List.ext_getElem? fun k => ?_
  rw [List.getElem?_map]
  rcases Nat.lt_or_ge k n with hk | hk
  · rw [leBytes_getElem? n _ k hk, List.getElem?_range hk, Option.map_some]
    congr 1
    apply BitVec.eq_of_toNat_eq
    rw [BitVec.extractLsb'_toNat, BitVec.toNat_ofNat, Nat.shiftRight_eq_div_pow, Nat.pow_mul]
  · rw [List.getElem?_eq_none (by simpa using hk), List.getElem?_eq_none (by simpa using hk)]
    rfl

/-- A flag write, after its payload and whatever a signal follows. -/
def State.flagStore (s : State) (q : SeqId) (cells : List (Nat × Byte)) (pay : List Nat) : Store :=
  { id := s.ids, who := q, cells := cells, lvl := 0, seen := [(q, 0)]
    pre := (s.transit.filterMap fun x => x.earlier q cells true) ++ pay.map fun i => { id := i, ord := 5, kept := 5 } }

theorem State.storeFlag_eq (s : State) (q : SeqId) (cells : List (Nat × Byte)) (pay : List Nat) :
    s.storeFlag q cells pay = ((s.flagStore q cells pay).id, s.flown [s.flagStore q cells pay]) := rfl

theorem State.healed_flagStore (s : State) (cells : List (Nat × Byte)) (sts : List Store) (q : SeqId) (cs : List (Nat × Byte)) (pay : List Nat) :
    ((s.healed cells).flown sts).flagStore q cs pay = (s.flown sts).flagStore q cs pay := by
  rw [State.healed_rest]
  rfl

section
variable {s : State} {tok : Tok} {p : SPlan} (hk : s.cur.kind = .s)
include hk

theorem State.healed_pc (cells : List (Nat × Byte)) : (s.healed cells).pc s.cur = s.pc s.cur := by
  rw [State.healed_rest]
  exact s.popSq_pc s.cur hk

/-- A payload that a flag follows. -/
theorem State.issueSignal_flag (cells : List (Nat × Byte)) : s.issueSignal s.cur tok p (.flag cells) =
    let pay := s.newStores s.cur p.els
    let sts := pay ++ [(s.flown pay).flagStore s.cur cells (pay.map (·.id))]
    .done (s.issuedAs (s.healed (p.cells ++ cells)) sts (s.spendOf tok (sts.map (·.id)) none p.gauge)) (.next (s.pc s.cur)) true := by
  have hfold : (s.popSq s.cur).healCells (p.cells ++ cells) = s.healed (p.cells ++ cells) := rfl
  unfold State.issueSignal
  simp only [hfold, State.storeAll_eq, State.storeFlag_eq, State.flown_append, State.after, State.healed_pc hk, State.healed_newStores,
    State.healed_flagStore]
  rw [← State.issuedAs_eq, List.map_append]
  rfl

/-- A payload that a semaphore add follows. -/
theorem State.issueSignal_sem (qd n amount : Nat) : s.issueSignal s.cur tok p (.sem qd n amount) =
    .done (s.issuedAs (s.healed (p.cells ++ [])) (s.newStores s.cur p.els) (s.spendOf tok ((s.newStores s.cur p.els).map (·.id))
      (some (qd, n, amount)) p.gauge)) (.next (s.pc s.cur)) true := by
  have hfold : (s.popSq s.cur).healCells (p.cells ++ []) = s.healed (p.cells ++ []) := rfl
  unfold State.issueSignal
  simp only [hfold, State.storeAll_eq, State.after, State.healed_pc hk, State.healed_newStores]
  rw [← State.issuedAs_eq]
  rfl

end

/-- A flag's signal by the check of its target. The definition is opened with no argument in place: on arguments the kernel would set out to
compute the check, whose bound 2^42 it counts down. -/
theorem State.flagSignal_cases (s : State) (q : SeqId) (pay : List (Nat × Byte)) (b : BitVec 4) (n : Nat) :
    let cells := cellsOf (s.getA q b.toNat).toNat (leBytes n (s.getA q (b.toNat + 1)).toNat)
    let check := s.writeElem q (pay ++ cells) ((s.getA q b.toNat).toNat : Int) n
    (check = none → s.flagSignal q pay b n = .ok (.flag cells)) ∧ ∀ tr, check = some tr → s.flagSignal q pay b n = .error tr := by
  intro cells check
  obtain ⟨f, hf, hx⟩ : ∃ f, State.flagSignal = f ∧
      ((check = none → f s q pay b n = .ok (.flag cells)) ∧ ∀ tr, check = some tr → f s q pay b n = .error tr) := by
    refine ⟨?f, ?unfolded, fun h => ?none, fun tr h => ?some⟩
    case unfolded =>
      delta State.flagSignal
      exact rfl
    case none =>
      dsimp only [check, cells] at h ⊢
      rw [h]
    case some =>
      dsimp only [check, cells] at h ⊢
      rw [h]
  rw [hf]
  exact hx
section
variable {s : State} {tok : Tok} {a : BitVec 4} {desc : BitVec 10} {chk : Bool} {size : Nat} {signal : SeqId → List (Nat × Byte) → Except Trap Signal}
  {i : Instr} {d : Desc} {p : SPlan} (h : LsReady s .s tok) (hi : exec i s = putsig tok a desc chk size s signal)
  (hsq : (s.core s.cur.unit).sq ≠ []) (hsp : (s.core s.cur.unit).spend.length < 32) (hd : s.desc s.cur desc.toNat = .ok d)
  (hp : s.storePlan s.cur d (s.core s.cur.unit).sqHead (d.storePos (s.core s.cur.unit).sqHead
    (s.storeWindow a (fun _ d => d.unitSteps) s.cur d) true) chk = .ok p)
include h hi hsq hsp hd hp

/-- A bad target of the signal traps after the checks of the payload, and nothing is written. -/
theorem putsig_traps {tr : Trap} (hsig : signal s.cur p.cells = .error tr) : exec i s = .next (s.trapElem s.cur tr size) := by
  refine hi.trans (lsRun_traps h ?_)
  simp only [Core.sReady_of hsq hsp, Bool.not_true, Bool.false_eq_true, if_false, hd, hp, hsig]

theorem putsig_issues {sg : Signal} (hsig : signal s.cur p.cells = .ok sg) {cells : List (Nat × Byte)} {sts : List Store} {sp : SPend}
    (hout : s.issueSignal s.cur tok p sg = .done (s.issuedAs (s.healed cells) sts sp) (.next (s.pc s.cur)) true) : ∃ t,
    exec i s = .next t ∧ LsDone tok true (s.issuedAs (s.healed cells) sts sp) t s.cur (.next (s.pc s.cur)) := by
  rw [hi]
  refine lsRun_completes h rfl ?_ (s.issuedAs_slu ..)
  simp only [Core.sReady_of hsq hsp, Bool.not_true, Bool.false_eq_true, if_false, hd, hp, hsig, hout]

end

section
variable (s : State) (tok : Tok) (a b : BitVec 4) (desc : BitVec 10) (chk : Bool)

theorem exec_putsigFlag8 : exec (.putsigFlag8 tok a b desc chk) s = putsig tok a desc chk 8 s fun q pay => s.flagSignal q pay b 8 := rfl
theorem exec_putsigFlag4 : exec (.putsigFlag4 tok a b desc chk) s = putsig tok a desc chk 4 s fun q pay => s.flagSignal q pay b 4 := rfl
theorem exec_putsigSemadd : exec (.putsigSemadd tok a b desc chk) s = putsig tok a desc chk 8 s fun q _ => s.semSignal q b := rfl

variable {s} {q : SeqId}

theorem State.semWord_bad {ea : Nat} (h : ea ≥ 2 ^ 42 ∨ ea / 32 % 2 ^ 18 ≠ 0) : s.semWord q ea = .error { code := 3, addr := ea, info := 1 } :=
  if_pos (by rw [field_eq]; exact h)

section
variable {ea : Nat} (h42 : ea < 2 ^ 42) (hf : ea / 32 % 2 ^ 18 = 0)
include h42 hf

theorem State.semWord_absent (ha : s.absent q (ea / 2 ^ 23 * 8 + 4) = true) : s.semWord q ea = .error { code := 3, addr := ea, info := 4 } :=
  (if_neg (by rw [field_eq]; exact not_or.mpr ⟨Nat.not_le.mpr h42, not_not_intro hf⟩)).trans (if_pos ha)

theorem State.semWord_ok (ha : s.absent q (ea / 2 ^ 23 * 8 + 4) = false) : s.semWord q ea = .ok (ea / 2 ^ 23, ea % 32) :=
  (if_neg (by rw [field_eq]; exact not_or.mpr ⟨Nat.not_le.mpr h42, not_not_intro hf⟩)).trans (if_neg (by rw [ha]; exact Bool.false_ne_true))

end

theorem State.semSignal_bad {tr : Trap} (h : s.semWord q (s.getA q b.toNat).toNat = .error tr) : s.semSignal q b = .error tr := by
  rw [State.semSignal, h]

theorem State.semSignal_ok {qd n : Nat} (h : s.semWord q (s.getA q b.toNat).toNat = .ok (qd, n)) :
    s.semSignal q b = .ok (.sem qd n ((s.getA q (b.toNat + 1)).toNat % 2 ^ 32)) := by
  rw [State.semSignal, h]

end

-- The semaphore add (R189, R303, R376) ------------------------------------------------------------------------------------------------------

theorem State.semAdd_alone (s : State) (qd n amount : Nat) (hw : sget [] (s.quad qd).waiters n = []) : s.semAdd qd n amount =
    s.setQuad qd { s.quad qd with sem := sset (s.quad qd).sem n (min (sget 0 (s.quad qd).sem n + amount) 0xFFFFFFFF)
                                  waiters := sset (s.quad qd).waiters n [] } := by
  rw [State.semAdd, State.setSem, hw]
  rfl

theorem State.noteSem_quad (s : State) (q : SeqId) (qd n : Nat) :
    (s.noteSem q qd n).quad qd = { s.quad qd with semRel := ((s.noteSem q qd n).quad qd).semRel } := by
  simp only [State.noteSem, State.quad_setQuad]

section
variable {s : State} (q : SeqId) {qd n : Nat} (amount : Nat) (hw : sget [] (s.quad qd).waiters n = [])
include hw

/-- An add that no waiter takes from. -/
theorem State.noteSem_semAdd : (s.noteSem q qd n).semAdd qd n amount = (s.noteSem q qd n).setQuad qd { (s.noteSem q qd n).quad qd with
    sem := sset (s.quad qd).sem n (min (sget 0 (s.quad qd).sem n + amount) 0xFFFFFFFF)
    waiters := sset (s.quad qd).waiters n [] } := by
  have hq := s.noteSem_quad q qd n
  rw [State.semAdd_alone _ _ _ _ (by rw [hq]; exact hw)]
  rw [hq]

theorem State.noteSem_semAdd_sem : (((s.noteSem q qd n).semAdd qd n amount).quad qd).sem =
    sset (s.quad qd).sem n (min (sget 0 (s.quad qd).sem n + amount) 0xFFFFFFFF) := by
  rw [State.noteSem_semAdd q amount hw, State.quad_setQuad]

end

/-- A payload, and what S has observed, have performed everywhere. -/
def State.payLanded (s : State) (u : Nat) (pay : List Nat) : State := (s.land fun st => pay.contains st.id).acquire { unit := u, kind := .s }

theorem State.payLanded_rest (s : State) (u : Nat) (pay : List Nat) :
    s.payLanded u pay = { s with mem := (s.payLanded u pay).mem, transit := (s.payLanded u pay).transit } := by
  unfold State.payLanded
  rw [State.acquire_rest, State.land_rest]

/-- The PUTSIG at the head of S is complete but for its add. -/
def State.signalled (s : State) (u : Nat) (p : SPend) (rest : List SPend) : State := (s.payLanded u p.pay).setCore u
  (({ s.core u with spend := rest } : Core).pushOpt p.pa ((s.payLanded u p.pay).tells { unit := u, kind := .s } 1))

theorem State.signalled_quad (s : State) (u : Nat) (p : SPend) (rest : List SPend) (k : Nat) : (s.signalled u p rest).quad k = s.quad k := by
  rw [State.signalled, State.setCore_quad, State.payLanded_rest]
  rfl

theorem State.signalled_ctls (s : State) (u : Nat) (p : SPend) (rest : List SPend) : (s.signalled u p rest).ctls = s.ctls := by
  rw [State.signalled, State.setCore_ctls, State.payLanded_rest]

section
variable {s : State} {u : Nat} {p : SPend} {rest : List SPend} {qd n amount : Nat} (hsp : (s.core u).spend = p :: rest)
  (hsem : p.sem = some (qd, n, amount))
include hsp hsem

/-- The payload performs at core scope first; the add is still to be made. -/
theorem State.performS_payload (hi : p.ids ≠ []) (hg : p.gauge = none) : s.performS u =
    (s.raise p.ids 1).setCore u { s.core u with spend := { p with ids := [], pay := p.ids } :: rest } := by
  obtain ⟨pc, ids, pa, mark, sem, gauge, pay⟩ := p
  obtain rfl : sem = _ := hsem
  obtain rfl : gauge = none := hg
  have he : ids.isEmpty = false := by simpa using hi
  simp only [State.performS, hsp, he, Bool.false_eq_true, if_false, State.raise_core]

/-- The add is made once the payload, and what S has observed, have performed everywhere. -/
theorem State.performS_add (hi : p.ids = []) (hg : p.gauge = none) : s.performS u =
    ((s.signalled u p rest).noteSem { unit := u, kind := .s } qd n).semAdd qd n amount := by
  obtain ⟨pc, ids, pa, mark, sem, gauge, pay⟩ := p
  obtain rfl : sem = _ := hsem
  obtain rfl : gauge = none := hg
  obtain rfl : ids = [] := hi
  have hcore : (((s.raise [] 1).land fun st => pay.contains st.id).acquire { unit := u, kind := .s }).core u = s.core u := by
    rw [State.acquire_rest, State.land_rest]
    rfl
  simp only [State.performS, hsp, List.isEmpty_nil, if_true]
  rw [hcore]
  rfl

end

/-- Settles O48. PUTSIG by its signal, once its payload has a plan; STORE_PERFORMED_CORE by whether the payload has still to perform. -/
theorem signals : Obligations.Signals := by
  unfold Obligations.Signals
  refine ⟨?issue, ?perform⟩
  case issue =>
    intro s tok a b desc chk d p q c o ea x pay ids done flag h hsq hsp hd hp
    have hdone : ∀ {i : Instr} {cells : List (Nat × Byte)} {sig : List Store} {sem : Option (Nat × Nat × Nat)}, (∃ t, exec i s = .next t ∧
        LsDone tok true (s.issuedAs (s.healed cells) (pay ++ sig) (s.spendOf tok ((pay ++ sig).map (·.id)) sem p.gauge)) t q (.next (s.pc q))) →
        done i sig sem := by
      rintro i cells sig sem ⟨t, ht, hd⟩
      refine ⟨t, _, ht, hd, ?_⟩
      simp only [State.issuedAs, State.spendOf, List.map_append, List.append_assoc]
      rfl
    have hflag : ∀ {i : Instr} {n : Nat}, exec i s = putsig tok a desc chk n s (fun q pay => s.flagSignal q pay b n) → flag i n := by
      intro i n hi
      have hlen : ids.length = pay.length := List.length_map ..
      obtain ⟨hok, hbad⟩ := s.flagSignal_cases q p.cells b n
      simp only [flag, ← leBytes_eq_extract, hlen]
      refine ⟨fun hw => ?_, fun tr hw => putsig_traps h hi hsq hsp hd hp (hbad tr hw)⟩
      exact hdone (putsig_issues h hi hsq hsp hd hp (hok hw) (State.issueSignal_flag h.1 _))
    have hsem := exec_putsigSemadd s tok a b desc chk
    refine ⟨hflag (exec_putsigFlag8 s tok a b desc chk), hflag (exec_putsigFlag4 s tok a b desc chk), fun h42 hf ha => ?_,
      fun hbad => putsig_traps h hsem hsq hsp hd hp (State.semSignal_bad b (State.semWord_bad hbad)),
      fun h42 hf ha => putsig_traps h hsem hsq hsp hd hp (State.semSignal_bad b (State.semWord_absent h42 hf ha))⟩
    have hout := putsig_issues h hsem hsq hsp hd hp (State.semSignal_ok b (State.semWord_ok h42 hf ha)) (State.issueSignal_sem h.1 ..)
    rw [← List.append_nil (s.newStores s.cur p.els)] at hout
    exact hdone hout
  case perform =>
    intro s p rest qd n amount u c hsp hf hsem
    refine ⟨fun hi hg => ?_, fun hi hpay => ?_, fun hi hg hpay hwait => ?_⟩
    · have hw : s.signalWaits u = false := by
        rw [State.signalWaits_eq hsp, List.isEmpty_eq_false_iff.mpr hi, Bool.and_false, Bool.false_and]
      rw [storePerformedCore_performs hf hw, State.performS_payload hsp hsem hi hg]
    · have hw : s.signalWaits u = true := by
        rw [State.signalWaits_eq hsp, hsem, hi]
        simpa using hpay
      exact storePerformedCore_waits hw
    · have hw : s.signalWaits u = false := by
        rw [State.signalWaits_eq hsp, hsem, hi]
        simpa using hpay
      have hwait' : sget [] ((s.signalled u p rest).quad qd).waiters n = [] := by rw [State.signalled_quad]; exact hwait
      refine ⟨_, storePerformedCore_performs hf hw, ?_⟩
      rw [State.performS_add hsp hsem hi hg]
      refine ⟨?_, ?_, fun k hk => ?_, ?_, ?_⟩
      · rw [State.noteSem_semAdd _ _ hwait', State.setQuad_core]
        exact State.core_setCore ..
      · rw [State.noteSem_semAdd_sem _ _ hwait', sget_sset_same, State.signalled_quad]
      · rw [State.noteSem_semAdd_sem _ _ hwait', sget_sset_other _ _ _ _ _ hk, State.signalled_quad]
      · rw [State.noteSem_semAdd _ _ hwait']
        rfl
      · rw [State.noteSem_semAdd _ _ hwait', State.setQuad_ctls]
        exact s.signalled_ctls u p rest

end Sys2Proof.Machine
end
